-- ==== Sys2Proof/Word.lean ====
section
/-! DEFINITION. The data types of the SIGMA 9: byte, halfword, word and doubleword (00_scope R8, 20_memory R100). -/

namespace Sys2Proof

/-- A byte, 8 bits (R8). -/
abbrev Byte := BitVec 8
/-- A halfword, 16 bits (R8). -/
abbrev Half := BitVec 16
/-- A word, 32 bits: the unit of memory and the width of a general register (R8, R40, R100). -/
abbrev Word := BitVec 32
/-- A doubleword, 64 bits: the even-addressed word is the more significant half (R8, R20). -/
abbrev Dword := BitVec 64
/-- A word address: 22 bits hold a real address; a virtual address uses the low 17 (R11). -/
abbrev WordAddr := BitVec 22
/-- A byte address: 24 bits in real extended addressing, of which real and virtual addressing use 19 (R11). -/
abbrev ByteAddr := BitVec 24

end Sys2Proof
end

