-- ==== Sys2Proof/Machine/Bits.lean ====
section
/-! DEFINITION. Bit fields in the manual's numbering (bit 0 leftmost, 00_scope R20), and the byte order of a word
(20_memory R101). -/

namespace Sys2Proof.Machine

/-- `v[a:b]`: bits `a` through `b` of a word, bit 0 the most significant (R20). -/
def field (v : Word) (a b : Nat) : BitVec (b + 1 - a) := v.extractLsb' (31 - b) (b + 1 - a)

/-- `v[a]`: one bit of a word (R20). -/
def bit (v : Word) (a : Nat) : Bool := v.getLsbD (31 - a)

/-- The bit of a quantity of any width, numbered from the left (R20). -/
def bitOf {w : Nat} (v : BitVec w) (a : Nat) : Bool := v.getLsbD (w - 1 - a)

/-- Byte `k` of a word, byte 0 the most significant (R101). -/
def byteOf (v : Word) (k : BitVec 2) : Byte := v.extractLsb' (8 * (3 - k.toNat)) 8

/-- Halfword `h` of a word, halfword 0 the more significant (R101). -/
def halfOf (v : Word) (h : BitVec 1) : Half := v.extractLsb' (16 * (1 - h.toNat)) 16

/-- The word with byte `k` replaced (R101). -/
def withByte (v : Word) (k : BitVec 2) (b : Byte) : Word :=
  (v &&& ~~~ ((0xFF#32) <<< (8 * (3 - k.toNat)))) ||| (b.zeroExtend 32 <<< (8 * (3 - k.toNat)))

/-- The word with halfword `h` replaced (R101). -/
def withHalf (v : Word) (h : BitVec 1) (x : Half) : Word :=
  (v &&& ~~~ ((0xFFFF#32) <<< (16 * (1 - h.toNat)))) ||| (x.zeroExtend 32 <<< (16 * (1 - h.toNat)))

/-- The more significant word of a doubleword (R20). -/
def hiWord (d : Dword) : Word := d.extractLsb' 32 32

/-- The less significant word of a doubleword (R20). -/
def loWord (d : Dword) : Word := d.extractLsb' 0 32

/-- `Ru1`: the R field with its low bit forced to 1 (30_encoding R183). -/
def ru1 (r : BitVec 4) : BitVec 4 := r ||| 1#4

/-- The R field is odd. -/
def oddR (r : BitVec 4) : Bool := r.getLsbD 0

end Sys2Proof.Machine
end

