-- ==== Sys2Proof/Syntax.lean ====
section
/-! DEFINITION. The instructions: one constructor for each row of spec/opcode_table.json, over the three operand
formats of 30_encoding R171-R173. -/

namespace Sys2Proof

/-- The fields of a memory-reference instruction (R171): indirect bit, R field, X field, 17-bit reference address. -/
structure MR where
  ind : Bool
  r : BitVec 4
  x : BitVec 3
  addr : BitVec 17
deriving DecidableEq, Repr

/-- The fields of an immediate-operand instruction (R172): R field and 20-bit value. -/
structure Imm where
  r : BitVec 4
  value : BitVec 20
deriving DecidableEq, Repr

/-- The fields of an immediate-displacement (byte-string) instruction (R173): R field and 20-bit displacement. -/
structure Bs where
  r : BitVec 4
  disp : BitVec 20
deriving DecidableEq, Repr

/-- The 112 instructions of the SIGMA 9 (R181). -/
inductive Instr where
  /-- LCFI, Load Conditions and Floating Control Immediate, X'02' (40_load_store.md R238). -/
  | lcfi (i : Imm)
  /-- CAL1, Call 1, X'04' (47_execute_branch_call.md R499). -/
  | cal1 (m : MR)
  /-- CAL2, Call 2, X'05' (47_execute_branch_call.md R500). -/
  | cal2 (m : MR)
  /-- CAL3, Call 3, X'06' (47_execute_branch_call.md R501). -/
  | cal3 (m : MR)
  /-- CAL4, Call 4, X'07' (47_execute_branch_call.md R502). -/
  | cal4 (m : MR)
  /-- PLW, Pull Word, X'08' (46_push_down.md R466). -/
  | plw (m : MR)
  /-- PSW, Push Word, X'09' (46_push_down.md R465). -/
  | psw (m : MR)
  /-- PLM, Pull Multiple, X'0A' (46_push_down.md R468). -/
  | plm (m : MR)
  /-- PSM, Push Multiple, X'0B' (46_push_down.md R467). -/
  | psm (m : MR)
  /-- LPSD, Load Program Status Doubleword, X'0E' (48_control.md R522). -/
  | lpsd (m : MR)
  /-- XPSD, Exchange Program Status Doubleword, X'0F' (48_control.md R523). -/
  | xpsd (m : MR)
  /-- AD, Add Doubleword, X'10' (41_analyze_interpret_fixed_point.md R271). -/
  | ad (m : MR)
  /-- CD, Compare Doubleword, X'11' (42_comparison_logical_shift_conversion.md R305). -/
  | cd (m : MR)
  /-- LD, Load Doubleword, X'12' (40_load_store.md R224). -/
  | ld (m : MR)
  /-- MSP, Modify Stack Pointer, X'13' (46_push_down.md R469). -/
  | msp (m : MR)
  /-- STD, Store Doubleword, X'15' (40_load_store.md R244). -/
  | std (m : MR)
  /-- SD, Subtract Doubleword, X'18' (41_analyze_interpret_fixed_point.md R274). -/
  | sd (m : MR)
  /-- CLM, Compare with Limits in Memory, X'19' (42_comparison_logical_shift_conversion.md R308). -/
  | clm (m : MR)
  /-- LCD, Load Complement Doubleword, X'1A' (40_load_store.md R229). -/
  | lcd (m : MR)
  /-- LAD, Load Absolute Doubleword, X'1B' (40_load_store.md R230). -/
  | lad (m : MR)
  /-- FSL, Floating Subtract Long, X'1C' (43_floating_point.md R353). -/
  | fsl (m : MR)
  /-- FAL, Floating Add Long, X'1D' (43_floating_point.md R351). -/
  | fal (m : MR)
  /-- FDL, Floating Divide Long, X'1E' (43_floating_point.md R357). -/
  | fdl (m : MR)
  /-- FML, Floating Multiply Long, X'1F' (43_floating_point.md R355). -/
  | fml (m : MR)
  /-- AI, Add Immediate, X'20' (41_analyze_interpret_fixed_point.md R268). -/
  | ai (i : Imm)
  /-- CI, Compare Immediate, X'21' (42_comparison_logical_shift_conversion.md R301). -/
  | ci (i : Imm)
  /-- LI, Load Immediate, X'22' (40_load_store.md R220). -/
  | li (i : Imm)
  /-- MI, Multiply Immediate, X'23' (41_analyze_interpret_fixed_point.md R275). -/
  | mi (i : Imm)
  /-- SF, Shift Floating, X'24' (42_comparison_logical_shift_conversion.md R324). -/
  | sf (m : MR)
  /-- S, Shift, X'25' (42_comparison_logical_shift_conversion.md R316). -/
  | s (m : MR)
  /-- LAS, Load and Set, X'26' (40_load_store.md R231). -/
  | las (m : MR)
  /-- CVS, Convert by Subtraction, X'28' (42_comparison_logical_shift_conversion.md R331). -/
  | cvs (m : MR)
  /-- CVA, Convert by Addition, X'29' (42_comparison_logical_shift_conversion.md R330). -/
  | cva (m : MR)
  /-- LM, Load Multiple, X'2A' (40_load_store.md R236). -/
  | lm (m : MR)
  /-- STM, Store Multiple, X'2B' (40_load_store.md R246). -/
  | stm (m : MR)
  /-- LRA, Load Real Address, X'2C' (48_control.md R533). -/
  | lra (m : MR)
  /-- LMS, Load Memory Status, X'2D' (48_control.md R534). -/
  | lms (m : MR)
  /-- WAIT, Wait, X'2E' (48_control.md R538). -/
  | wait (m : MR)
  /-- LRP, Load Register Pointer, X'2F' (48_control.md R525). -/
  | lrp (m : MR)
  /-- AW, Add Word, X'30' (41_analyze_interpret_fixed_point.md R270). -/
  | aw (m : MR)
  /-- CW, Compare Word, X'31' (42_comparison_logical_shift_conversion.md R304). -/
  | cw (m : MR)
  /-- LW, Load Word, X'32' (40_load_store.md R223). -/
  | lw (m : MR)
  /-- MTW, Modify and Test Word, X'33' (41_analyze_interpret_fixed_point.md R283). -/
  | mtw (m : MR)
  /-- STW, Store Word, X'35' (40_load_store.md R243). -/
  | stw (m : MR)
  /-- DW, Divide Word, X'36' (41_analyze_interpret_fixed_point.md R279). -/
  | dw (m : MR)
  /-- MW, Multiply Word, X'37' (41_analyze_interpret_fixed_point.md R277). -/
  | mw (m : MR)
  /-- SW, Subtract Word, X'38' (41_analyze_interpret_fixed_point.md R273). -/
  | sw (m : MR)
  /-- CLR, Compare with Limits in Register, X'39' (42_comparison_logical_shift_conversion.md R307). -/
  | clr (m : MR)
  /-- LCW, Load Complement Word, X'3A' (40_load_store.md R227). -/
  | lcw (m : MR)
  /-- LAW, Load Absolute Word, X'3B' (40_load_store.md R228). -/
  | law (m : MR)
  /-- FSS, Floating Subtract Short, X'3C' (43_floating_point.md R352). -/
  | fss (m : MR)
  /-- FAS, Floating Add Short, X'3D' (43_floating_point.md R350). -/
  | fas (m : MR)
  /-- FDS, Floating Divide Short, X'3E' (43_floating_point.md R356). -/
  | fds (m : MR)
  /-- FMS, Floating Multiply Short, X'3F' (43_floating_point.md R354). -/
  | fms (m : MR)
  /-- TTBS, Translate and Test Byte String, X'40' (45_byte_string.md R430). -/
  | ttbs (b : Bs)
  /-- TBS, Translate Byte String, X'41' (45_byte_string.md R428). -/
  | tbs (b : Bs)
  /-- ANLZ, Analyze, X'44' (41_analyze_interpret_fixed_point.md R260). -/
  | anlz (m : MR)
  /-- CS, Compare Selective, X'45' (42_comparison_logical_shift_conversion.md R306). -/
  | cs (m : MR)
  /-- XW, Exchange Word, X'46' (40_load_store.md R240). -/
  | xw (m : MR)
  /-- STS, Store Selective, X'47' (40_load_store.md R245). -/
  | sts (m : MR)
  /-- EOR, Exclusive OR Word, X'48' (42_comparison_logical_shift_conversion.md R311). -/
  | eor (m : MR)
  /-- OR, OR Word, X'49' (42_comparison_logical_shift_conversion.md R310). -/
  | or (m : MR)
  /-- LS, Load Selective, X'4A' (40_load_store.md R234). -/
  | ls (m : MR)
  /-- AND, AND Word, X'4B' (42_comparison_logical_shift_conversion.md R312). -/
  | and (m : MR)
  /-- SIO, Start Input/Output, X'4C' (49_input_output.md R602). -/
  | sio (m : MR)
  /-- TIO, Test Input/Output, X'4D' (49_input_output.md R604). -/
  | tio (m : MR)
  /-- TDV, Test Device, X'4E' (49_input_output.md R606). -/
  | tdv (m : MR)
  /-- HIO, Halt Input/Output, X'4F' (49_input_output.md R608). -/
  | hio (m : MR)
  /-- RIO, Reset Input/Output, X'4F' (49_input_output.md R610). -/
  | rio (m : MR)
  /-- POLP, Poll Processor, X'4F' (49_input_output.md R612). -/
  | polp (m : MR)
  /-- POLR, Poll Processor and Reset, X'4F' (49_input_output.md R613). -/
  | polr (m : MR)
  /-- AH, Add Halfword, X'50' (41_analyze_interpret_fixed_point.md R269). -/
  | ah (m : MR)
  /-- CH, Compare Halfword, X'51' (42_comparison_logical_shift_conversion.md R303). -/
  | ch (m : MR)
  /-- LH, Load Halfword, X'52' (40_load_store.md R222). -/
  | lh (m : MR)
  /-- MTH, Modify and Test Halfword, X'53' (41_analyze_interpret_fixed_point.md R282). -/
  | mth (m : MR)
  /-- STH, Store Halfword, X'55' (40_load_store.md R242). -/
  | sth (m : MR)
  /-- DH, Divide Halfword, X'56' (41_analyze_interpret_fixed_point.md R278). -/
  | dh (m : MR)
  /-- MH, Multiply Halfword, X'57' (41_analyze_interpret_fixed_point.md R276). -/
  | mh (m : MR)
  /-- SH, Subtract Halfword, X'58' (41_analyze_interpret_fixed_point.md R272). -/
  | sh (m : MR)
  /-- LCH, Load Complement Halfword, X'5A' (40_load_store.md R225). -/
  | lch (m : MR)
  /-- LAH, Load Absolute Halfword, X'5B' (40_load_store.md R226). -/
  | lah (m : MR)
  /-- CBS, Compare Byte String, X'60' (45_byte_string.md R426). -/
  | cbs (b : Bs)
  /-- MBS, Move Byte String, X'61' (45_byte_string.md R424). -/
  | mbs (b : Bs)
  /-- EBS, Edit Byte String, X'63' (45_byte_string.md R436). -/
  | ebs (b : Bs)
  /-- BDR, Branch on Decrementing Register, X'64' (47_execute_branch_call.md R497). -/
  | bdr (m : MR)
  /-- BIR, Branch on Incrementing Register, X'65' (47_execute_branch_call.md R496). -/
  | bir (m : MR)
  /-- AWM, Add Word to Memory, X'66' (41_analyze_interpret_fixed_point.md R280). -/
  | awm (m : MR)
  /-- EXU, Execute, X'67' (47_execute_branch_call.md R493). -/
  | exu (m : MR)
  /-- BCR, Branch on Conditions Reset, X'68' (47_execute_branch_call.md R495). -/
  | bcr (m : MR)
  /-- BCS, Branch on Conditions Set, X'69' (47_execute_branch_call.md R494). -/
  | bcs (m : MR)
  /-- BAL, Branch and Link, X'6A' (47_execute_branch_call.md R498). -/
  | bal (m : MR)
  /-- INT, Interpret, X'6B' (41_analyze_interpret_fixed_point.md R265). -/
  | int (m : MR)
  /-- RD, Read Direct, X'6C' (48_control.md R539). -/
  | rd (m : MR)
  /-- WD, Write Direct, X'6D' (48_control.md R546). -/
  | wd (m : MR)
  /-- AIO, Acknowledge Input/Output Interrupt, X'6E' (49_input_output.md R614). -/
  | aio (m : MR)
  /-- MMC, Move to Memory Control, X'6F' (48_control.md R526). -/
  | mmc (m : MR)
  /-- LCF, Load Conditions and Floating Control, X'70' (40_load_store.md R239). -/
  | lcf (m : MR)
  /-- CB, Compare Byte, X'71' (42_comparison_logical_shift_conversion.md R302). -/
  | cb (m : MR)
  /-- LB, Load Byte, X'72' (40_load_store.md R221). -/
  | lb (m : MR)
  /-- MTB, Modify and Test Byte, X'73' (41_analyze_interpret_fixed_point.md R281). -/
  | mtb (m : MR)
  /-- STCF, Store Conditions and Floating Control, X'74' (40_load_store.md R247). -/
  | stcf (m : MR)
  /-- STB, Store Byte, X'75' (40_load_store.md R241). -/
  | stb (m : MR)
  /-- PACK, Pack Decimal Digits, X'76' (44_decimal.md R400). -/
  | pack (m : MR)
  /-- UNPK, Unpack Decimal Digits, X'77' (44_decimal.md R401). -/
  | unpk (m : MR)
  /-- DS, Decimal Subtract, X'78' (44_decimal.md R393). -/
  | ds (m : MR)
  /-- DA, Decimal Add, X'79' (44_decimal.md R392). -/
  | da (m : MR)
  /-- DD, Decimal Divide, X'7A' (44_decimal.md R395). -/
  | dd (m : MR)
  /-- DM, Decimal Multiply, X'7B' (44_decimal.md R394). -/
  | dm (m : MR)
  /-- DSA, Decimal Shift Arithmetic, X'7C' (44_decimal.md R397). -/
  | dsa (m : MR)
  /-- DC, Decimal Compare, X'7D' (44_decimal.md R396). -/
  | dc (m : MR)
  /-- DL, Decimal Load, X'7E' (44_decimal.md R390). -/
  | dl (m : MR)
  /-- DST, Decimal Store, X'7F' (44_decimal.md R391). -/
  | dst (m : MR)
deriving DecidableEq, Repr

end Sys2Proof
end

