-- ==== Sys2Proof/WellFormed.lean ====
section
/-! DEFINITION. Which terms of `Instr` are instructions: every field is as wide as its place in the word, so the only
conditions left are the four on bits 15-17 of operation code X'4F' (30_encoding R175, 49_input_output R601). -/

namespace Sys2Proof

/-- Bits 15-17 of an X'4F' word, the three high bits of its reference address. -/
def ioSelector (m : MR) : BitVec 3 := m.addr.extractLsb' 14 3

/-- The words of the four X'4F' instructions are told apart by bits 15-17: 001 RIO, 010 POLP, 011 POLR, any other HIO
(the unassigned 100-111 decode as HIO and act as R601 says, log 22). -/
def Instr.wellFormed : Instr → Bool
  | .hio m => ioSelector m != 0b001#3 && ioSelector m != 0b010#3 && ioSelector m != 0b011#3
  | .rio m => ioSelector m == 0b001#3
  | .polp m => ioSelector m == 0b010#3
  | .polr m => ioSelector m == 0b011#3
  | _ => true

end Sys2Proof
end

