-- ==== Sys2Proof/Decode.lean ====
section
/-! DEFINITION. The decoder, total on any bytes, and the encoder (30_encoding R170-R185). -/

namespace Sys2Proof

open Sys2Proof.Machine

/-- Why a word is no instruction. -/
inductive DecodeError where
  /-- Fewer than the four bytes of a word were given. -/
  | truncated
  /-- An operation code with no instruction (R177); `privileged` marks X'0C' and X'0D', which are both nonexistent and
  privileged (R653). -/
  | unassigned (privileged : Bool)
  /-- An immediate or byte-string operation code with bit 0 = 1 (R176). -/
  | indirectImmediate
deriving DecidableEq, Repr

/-- How the word of an operation code is read. -/
inductive Format where
  | ref (build : MR → Instr)
  | imm (build : Imm → Instr)
  | disp (build : Bs → Instr)
  /-- X'4F': told apart by bits 15-17 (R175, R601). -/
  | select

/-- The assigned operation codes X'00' to X'1F' (R181). -/
def opcodes00 : List (BitVec 7 × Format) :=
  [(0x02#7, .imm .lcfi), (0x04#7, .ref .cal1), (0x05#7, .ref .cal2), (0x06#7, .ref .cal3),
   (0x07#7, .ref .cal4), (0x08#7, .ref .plw), (0x09#7, .ref .psw), (0x0A#7, .ref .plm),
   (0x0B#7, .ref .psm), (0x0E#7, .ref .lpsd), (0x0F#7, .ref .xpsd), (0x10#7, .ref .ad),
   (0x11#7, .ref .cd), (0x12#7, .ref .ld), (0x13#7, .ref .msp), (0x15#7, .ref .std),
   (0x18#7, .ref .sd), (0x19#7, .ref .clm), (0x1A#7, .ref .lcd), (0x1B#7, .ref .lad),
   (0x1C#7, .ref .fsl), (0x1D#7, .ref .fal), (0x1E#7, .ref .fdl), (0x1F#7, .ref .fml)]

/-- The assigned operation codes X'20' to X'3F' (R181). -/
def opcodes20 : List (BitVec 7 × Format) :=
  [(0x20#7, .imm .ai), (0x21#7, .imm .ci), (0x22#7, .imm .li), (0x23#7, .imm .mi),
   (0x24#7, .ref .sf), (0x25#7, .ref .s), (0x26#7, .ref .las), (0x28#7, .ref .cvs),
   (0x29#7, .ref .cva), (0x2A#7, .ref .lm), (0x2B#7, .ref .stm), (0x2C#7, .ref .lra),
   (0x2D#7, .ref .lms), (0x2E#7, .ref .wait), (0x2F#7, .ref .lrp), (0x30#7, .ref .aw),
   (0x31#7, .ref .cw), (0x32#7, .ref .lw), (0x33#7, .ref .mtw), (0x35#7, .ref .stw),
   (0x36#7, .ref .dw), (0x37#7, .ref .mw), (0x38#7, .ref .sw), (0x39#7, .ref .clr),
   (0x3A#7, .ref .lcw), (0x3B#7, .ref .law), (0x3C#7, .ref .fss), (0x3D#7, .ref .fas),
   (0x3E#7, .ref .fds), (0x3F#7, .ref .fms)]

/-- The assigned operation codes X'40' to X'5F' (R181). -/
def opcodes40 : List (BitVec 7 × Format) :=
  [(0x40#7, .disp .ttbs), (0x41#7, .disp .tbs), (0x44#7, .ref .anlz), (0x45#7, .ref .cs),
   (0x46#7, .ref .xw), (0x47#7, .ref .sts), (0x48#7, .ref .eor), (0x49#7, .ref .or),
   (0x4A#7, .ref .ls), (0x4B#7, .ref .and), (0x4C#7, .ref .sio), (0x4D#7, .ref .tio),
   (0x4E#7, .ref .tdv), (0x4F#7, .select), (0x50#7, .ref .ah), (0x51#7, .ref .ch),
   (0x52#7, .ref .lh), (0x53#7, .ref .mth), (0x55#7, .ref .sth), (0x56#7, .ref .dh),
   (0x57#7, .ref .mh), (0x58#7, .ref .sh), (0x5A#7, .ref .lch), (0x5B#7, .ref .lah)]

/-- The assigned operation codes X'60' to X'7F' (R181). -/
def opcodes60 : List (BitVec 7 × Format) :=
  [(0x60#7, .disp .cbs), (0x61#7, .disp .mbs), (0x63#7, .disp .ebs), (0x64#7, .ref .bdr),
   (0x65#7, .ref .bir), (0x66#7, .ref .awm), (0x67#7, .ref .exu), (0x68#7, .ref .bcr),
   (0x69#7, .ref .bcs), (0x6A#7, .ref .bal), (0x6B#7, .ref .int), (0x6C#7, .ref .rd),
   (0x6D#7, .ref .wd), (0x6E#7, .ref .aio), (0x6F#7, .ref .mmc), (0x70#7, .ref .lcf),
   (0x71#7, .ref .cb), (0x72#7, .ref .lb), (0x73#7, .ref .mtb), (0x74#7, .ref .stcf),
   (0x75#7, .ref .stb), (0x76#7, .ref .pack), (0x77#7, .ref .unpk), (0x78#7, .ref .ds),
   (0x79#7, .ref .da), (0x7A#7, .ref .dd), (0x7B#7, .ref .dm), (0x7C#7, .ref .dsa),
   (0x7D#7, .ref .dc), (0x7E#7, .ref .dl), (0x7F#7, .ref .dst)]

/-- The 109 assigned operation codes (R181). -/
def opcodes : List (BitVec 7 × Format) := opcodes00 ++ opcodes20 ++ opcodes40 ++ opcodes60

/-- The format of an operation code, if it is assigned. -/
def findFormat (op : BitVec 7) : List (BitVec 7 × Format) → Option Format
  | [] => none
  | (o, f) :: rest => if o = op then some f else findFormat op rest

/-- The memory-reference fields of a word (R171, R183). -/
def refFields (w : Word) : MR := ⟨bit w 0, field w 8 11, field w 12 14, field w 15 31⟩

/-- X'4F' by bits 15-17 of the word itself. The machine selects by the effective address (R601); the syntax names the
instruction that the word denotes with neither indirection nor indexing (log 22). -/
def selectIo (m : MR) : Instr :=
  if ioSelector m = 0b001#3 then .rio m
  else if ioSelector m = 0b010#3 then .polp m
  else if ioSelector m = 0b011#3 then .polr m
  else .hio m

/-- Decoding of one instruction word: the operation code in bits 1-7 decides (R175), and the immediate and byte-string
codes must have bit 0 = 0 (R176). -/
def decodeWord (w : Word) : Except DecodeError Instr :=
  match findFormat (field w 1 7) opcodes with
  | none => .error (.unassigned (field w 1 7 = 0x0C#7 || field w 1 7 = 0x0D#7))
  | some (.ref build) => .ok (build (refFields w))
  | some .select => .ok (selectIo (refFields w))
  | some (.imm build) =>
    if bit w 0 then .error .indirectImmediate else .ok (build ⟨field w 8 11, field w 12 31⟩)
  | some (.disp build) =>
    if bit w 0 then .error .indirectImmediate else .ok (build ⟨field w 8 11, field w 12 31⟩)

/-- Decoding from bytes as memory holds them, the most significant byte of a word first (R101, R170). -/
def decodeBytes : List Byte → Except DecodeError (Instr × List Byte)
  | a :: b :: c :: d :: rest =>
    match decodeWord (a ++ b ++ c ++ d) with
    | .ok i => .ok (i, rest)
    | .error e => .error e
  | _ => .error .truncated

/-- The memory-reference word of R171. -/
def refWord (op : BitVec 7) (m : MR) : Word :=
  BitVec.ofBool m.ind ++ op ++ m.r ++ m.x ++ m.addr

/-- The immediate or displacement word of R172 and R173. -/
def valueWord (op : BitVec 7) (r : BitVec 4) (v : BitVec 20) : Word :=
  (0#1) ++ op ++ r ++ v

/-- The word of an instruction (R184). -/
def encode : Instr → Word
  | .lcfi i => valueWord 0x02#7 i.r i.value
  | .cal1 m => refWord 0x04#7 m
  | .cal2 m => refWord 0x05#7 m
  | .cal3 m => refWord 0x06#7 m
  | .cal4 m => refWord 0x07#7 m
  | .plw m => refWord 0x08#7 m
  | .psw m => refWord 0x09#7 m
  | .plm m => refWord 0x0A#7 m
  | .psm m => refWord 0x0B#7 m
  | .lpsd m => refWord 0x0E#7 m
  | .xpsd m => refWord 0x0F#7 m
  | .ad m => refWord 0x10#7 m
  | .cd m => refWord 0x11#7 m
  | .ld m => refWord 0x12#7 m
  | .msp m => refWord 0x13#7 m
  | .std m => refWord 0x15#7 m
  | .sd m => refWord 0x18#7 m
  | .clm m => refWord 0x19#7 m
  | .lcd m => refWord 0x1A#7 m
  | .lad m => refWord 0x1B#7 m
  | .fsl m => refWord 0x1C#7 m
  | .fal m => refWord 0x1D#7 m
  | .fdl m => refWord 0x1E#7 m
  | .fml m => refWord 0x1F#7 m
  | .ai i => valueWord 0x20#7 i.r i.value
  | .ci i => valueWord 0x21#7 i.r i.value
  | .li i => valueWord 0x22#7 i.r i.value
  | .mi i => valueWord 0x23#7 i.r i.value
  | .sf m => refWord 0x24#7 m
  | .s m => refWord 0x25#7 m
  | .las m => refWord 0x26#7 m
  | .cvs m => refWord 0x28#7 m
  | .cva m => refWord 0x29#7 m
  | .lm m => refWord 0x2A#7 m
  | .stm m => refWord 0x2B#7 m
  | .lra m => refWord 0x2C#7 m
  | .lms m => refWord 0x2D#7 m
  | .wait m => refWord 0x2E#7 m
  | .lrp m => refWord 0x2F#7 m
  | .aw m => refWord 0x30#7 m
  | .cw m => refWord 0x31#7 m
  | .lw m => refWord 0x32#7 m
  | .mtw m => refWord 0x33#7 m
  | .stw m => refWord 0x35#7 m
  | .dw m => refWord 0x36#7 m
  | .mw m => refWord 0x37#7 m
  | .sw m => refWord 0x38#7 m
  | .clr m => refWord 0x39#7 m
  | .lcw m => refWord 0x3A#7 m
  | .law m => refWord 0x3B#7 m
  | .fss m => refWord 0x3C#7 m
  | .fas m => refWord 0x3D#7 m
  | .fds m => refWord 0x3E#7 m
  | .fms m => refWord 0x3F#7 m
  | .ttbs b => valueWord 0x40#7 b.r b.disp
  | .tbs b => valueWord 0x41#7 b.r b.disp
  | .anlz m => refWord 0x44#7 m
  | .cs m => refWord 0x45#7 m
  | .xw m => refWord 0x46#7 m
  | .sts m => refWord 0x47#7 m
  | .eor m => refWord 0x48#7 m
  | .or m => refWord 0x49#7 m
  | .ls m => refWord 0x4A#7 m
  | .and m => refWord 0x4B#7 m
  | .sio m => refWord 0x4C#7 m
  | .tio m => refWord 0x4D#7 m
  | .tdv m => refWord 0x4E#7 m
  | .hio m => refWord 0x4F#7 m
  | .rio m => refWord 0x4F#7 m
  | .polp m => refWord 0x4F#7 m
  | .polr m => refWord 0x4F#7 m
  | .ah m => refWord 0x50#7 m
  | .ch m => refWord 0x51#7 m
  | .lh m => refWord 0x52#7 m
  | .mth m => refWord 0x53#7 m
  | .sth m => refWord 0x55#7 m
  | .dh m => refWord 0x56#7 m
  | .mh m => refWord 0x57#7 m
  | .sh m => refWord 0x58#7 m
  | .lch m => refWord 0x5A#7 m
  | .lah m => refWord 0x5B#7 m
  | .cbs b => valueWord 0x60#7 b.r b.disp
  | .mbs b => valueWord 0x61#7 b.r b.disp
  | .ebs b => valueWord 0x63#7 b.r b.disp
  | .bdr m => refWord 0x64#7 m
  | .bir m => refWord 0x65#7 m
  | .awm m => refWord 0x66#7 m
  | .exu m => refWord 0x67#7 m
  | .bcr m => refWord 0x68#7 m
  | .bcs m => refWord 0x69#7 m
  | .bal m => refWord 0x6A#7 m
  | .int m => refWord 0x6B#7 m
  | .rd m => refWord 0x6C#7 m
  | .wd m => refWord 0x6D#7 m
  | .aio m => refWord 0x6E#7 m
  | .mmc m => refWord 0x6F#7 m
  | .lcf m => refWord 0x70#7 m
  | .cb m => refWord 0x71#7 m
  | .lb m => refWord 0x72#7 m
  | .mtb m => refWord 0x73#7 m
  | .stcf m => refWord 0x74#7 m
  | .stb m => refWord 0x75#7 m
  | .pack m => refWord 0x76#7 m
  | .unpk m => refWord 0x77#7 m
  | .ds m => refWord 0x78#7 m
  | .da m => refWord 0x79#7 m
  | .dd m => refWord 0x7A#7 m
  | .dm m => refWord 0x7B#7 m
  | .dsa m => refWord 0x7C#7 m
  | .dc m => refWord 0x7D#7 m
  | .dl m => refWord 0x7E#7 m
  | .dst m => refWord 0x7F#7 m

/-- The instruction that the decoder reads from the table word `w` of `nbits` bits: the word's bytes in memory order
given to `decodeBytes`; bits above `nbits` are 0. -/
def decodeTableWord (nbits w : Nat) : Option Instr :=
  let v : Word := BitVec.ofNat 32 (w % 2 ^ nbits)
  match decodeBytes [field v 0 7, field v 8 15, field v 16 23, field v 24 31] with
  | .ok (i, _) => some i
  | .error _ => none

end Sys2Proof
end

