-- ==== Sys2Proof/Config.lean ====
section
/-! DEFINITION. What an installation fixes (00_scope R9-R18) and the free values the spec leaves open
(93_implementation_defined, treatment `any value`). -/

namespace Sys2Proof.Config

/-- The value of a point that the spec leaves open (`any value` of 93_implementation_defined): `w` bits, a fresh one for
each index. It has no body, so nothing can be proved of it but what holds for every value (log 6). -/
opaque freeValue (w : Nat) (i : Nat) : BitVec w

/-- Parameter `MODEL` (R9). -/
inductive Model where
  | sigma9 | model2 | model3
deriving DecidableEq, Repr

/-- The two bits by which RD reads the model (R9, R542). -/
def Model.code : Model → BitVec 2
  | .sigma9 => 0b00#2
  | .model2 => 0b01#2
  | .model3 => 0b10#2

/-- Parameter `DECIMAL_UNIT` (R15): installed, not installed, or installed with the panel's DECIMAL switch in OVERRIDE. -/
inductive DecimalUnit where
  | present | absent | overridden
deriving DecidableEq, Repr

/-- A group of interrupt levels that `GROUP_PRIORITY` orders behind the override group (R17, R676); `external g` is
group X'2' + g. -/
inductive Chain where
  | counterZero
  | inputOutput
  | external (g : Fin 14)
deriving DecidableEq, Repr

/-- What the installation fixes; an instruction never changes it (00_scope R9-R18). -/
structure Installation where
  /-- R9. -/
  model : Model
  /-- Register blocks installed, 1 to 4 (R10). -/
  nblocks : Nat
  /-- `HOMESPACE_BIAS` (R13). -/
  homespaceBias : BitVec 6
  /-- `CPU_NUMBER` (R14). -/
  cpuNumber : BitVec 2
  /-- R15. -/
  decimalUnit : DecimalUnit
  /-- `COUNTERS_1_2` (R16). -/
  counters12 : Bool
  /-- `EXT_GROUPS`: the levels installed in groups X'2' to X'F', the leftmost bit the first level (R17). -/
  extInstalled : Vector (BitVec 16) 14
  /-- `GROUP_PRIORITY` (R17, D18). -/
  groupPriority : List Chain
  /-- The four SENSE switches, switch 1 leftmost (R18, R541). -/
  sense : BitVec 4
  /-- RD X'0045' bit 11 (R542). -/
  powerNormal : Bool
  /-- The W.D. TIMER switch is in OVERRIDE (R18, R716). -/
  watchdogOverride : Bool
  /-- The MEMORY FAULT switch is in HALT (R716). -/
  memoryFaultHalt : Bool
  /-- The INSTR ADDR switch is in HOLD (R714). -/
  addressHold : Bool
  /-- `LPSD_LOADS_MA_EA` (D3). -/
  lpsdLoadsMaEa : Bool
  /-- `MAP13_FIELDS`: the bit positions at which the two 13-bit fields of an image word begin (R529, D15). -/
  map13First : Nat
  map13Second : Nat
deriving DecidableEq, Repr

/-- The basic SIGMA 9 with the spec's default parameters: two register blocks (R10), bias 0, CPU 0, eight external
levels in group X'2' (R17), the default group priority (D18), MA and EA loaded by LPSD (D3), 13-bit fields at bits
3-15 and 19-31 (D15). DESIGN CHOICE (log 4). -/
def basic : Installation where
  model := .sigma9
  nblocks := 2
  homespaceBias := 0
  cpuNumber := 0
  decimalUnit := .present
  counters12 := false
  extInstalled := (Vector.replicate 14 0).set 0 0xFF00#16
  groupPriority := [.counterZero, .external 0, .inputOutput, .external 1, .external 2, .external 3, .external 4,
    .external 5, .external 6, .external 7, .external 8, .external 9, .external 10, .external 11, .external 12,
    .external 13]
  sense := 0
  powerNormal := true
  watchdogOverride := false
  memoryFaultHalt := false
  addressHold := false
  lpsdLoadsMaEa := true
  map13First := 3
  map13Second := 19

end Sys2Proof.Config
end

