-- ==== Sys2Proof/Machine/State.lean ====
section
/-! DEFINITION. The state of the SIGMA 9 as the spec gives it (10_state, 60_exceptions, 70_reset_and_hazards), the
reasons a step can stop, and the state after reset. -/

namespace Sys2Proof.Machine

open Sys2Proof Sys2Proof.Config

/-- The program status doubleword: the separate registers and flip-flops of R44 (R45-R54). TSF, RA and the undefined
positions hold no state (R53, R55, R56). -/
structure Psd where
  /-- CC1-CC4, bits 0-3 (R45). -/
  cc1 : Bool
  cc2 : Bool
  cc3 : Bool
  cc4 : Bool
  /-- Floating significance, zero and normalize controls, bits 5-7 (R46). -/
  fs : Bool
  fz : Bool
  fn : Bool
  /-- Slave mode, bit 8 (R48). -/
  ms : Bool
  /-- Memory map, bit 9 (R48). -/
  mm : Bool
  /-- Decimal mask, bit 10 (R49). -/
  dm : Bool
  /-- Fixed-point arithmetic mask, bit 11 (R49). -/
  am : Bool
  /-- AS, ANSII control, bit 12 (R49). -/
  ansi : Bool
  /-- Instruction address, bits 15-31; bit 15 is ES in real extended addressing (R47). -/
  ia : BitVec 17
  /-- Write key, bits 34-35 (R50). -/
  wk : BitVec 2
  /-- Counter, I/O and external group inhibits, bits 37-39 (R51). -/
  ci : Bool
  ii : Bool
  ei : Bool
  /-- Mode altered, bit 40 (R48). -/
  ma : Bool
  /-- Extension address, bits 42-47 (R47). -/
  ea : BitVec 6
  /-- Register pointer, bits 56-59 (R54). -/
  rp : BitVec 4
deriving DecidableEq, Repr

/-- The flip-flops of up to sixteen interrupt levels, the leftmost bit the first level of the group (R63). Two of the
three flip-flops of a level give its state: `aw` is 1 when it is armed or waiting, `wa` when it is waiting or active
(the two masks that RD reads, R545). -/
structure IntGroup where
  aw : BitVec 16
  wa : BitVec 16
  en : BitVec 16
deriving DecidableEq, Repr

/-- The interrupt system (R62, R671). -/
structure Interrupts where
  /-- X'50' power on and X'51' power off: bits 0 and 1. -/
  power : IntGroup
  /-- X'52' to X'5D': bits 0 to 11, as RD/WD register bits 16-27 of group X'0'. -/
  internal : IntGroup
  /-- Groups X'2' to X'F': X'60' + 16 (g - 2) + bit. -/
  external : Vector IntGroup 14
deriving DecidableEq, Repr

/-- One memory bank: where it lies (`MEM_EXISTS`, 00_scope R12), its configuration, and its status (R74, R535-R537). -/
structure Bank where
  /-- First real word address and number of words. -/
  base : Nat
  size : Nat
  /-- Status word 0 bits 14-15 (R535). -/
  number : BitVec 2
  /-- The bits of status word 0 that R535 leaves `any value` fixed per bank (0, 9-11, 16-31). -/
  sw0Other : Word
  /-- Status word 1 but for its clock margins (R536). -/
  sw1Config : Word
  /-- Fault bits of status word 0: bits 1-8, 12 and 13 of the word, the others 0 (R535). -/
  faults : Word
  /-- Clock margins 0-4 (status word 1 bits 14-18, R534 action 0111). -/
  margins : BitVec 5
  /-- Status word 2 bits 0-9, reserved (R537, R180). -/
  sw2Other : BitVec 10
  /-- The address snapshot of the first fault, while held (R537). -/
  snap : Option WordAddr
  /-- What status word 2 reads in its place while none is held (U11, log 15). -/
  sw2Idle : WordAddr
  /-- The memory fault interrupt signal (R682). -/
  mfi : Bool
deriving DecidableEq, Repr

/-- The memory-detected parity errors of R659, cases 1 to 5, that a bank notes in its status word 0 (R535 bits 1-4 and
6). -/
inductive ParityError where
  | read | partialWrite | addressBus | dataBus | portSelection
deriving DecidableEq, Repr

/-- What a memory unit finds wrong (R535 bits 1-7): a parity error, a loop check data parity error, or its temperature or
power supplies. -/
inductive MemoryFault where
  | parity (k : ParityError)
  | loopCheck
  | power
deriving DecidableEq, Repr

/-- The fault classes of the processor fault status register (49_input_output R600). -/
inductive CpuFault where
  | instructionException | dataBus | memoryParity | watchdog | mapParity
deriving DecidableEq, Repr

/-- A trap as its detection leaves it (R640): location, TCC, TSF, the register altered bit, the class of a processor
detected fault, and for a memory-detected fault the bit of status word 0 and the real address that the bank notes
(R535, R659). -/
structure Trap where
  loc : BitVec 8
  tcc : BitVec 4 := 0
  tsf : BitVec 8 := 0
  ra : Bool := false
  fault : Option CpuFault := none
  bankFault : Option (Word × WordAddr) := none
deriving DecidableEq, Repr

/-- The COMPUTE switch (R72, R710). -/
inductive Compute where
  | idle | run | step
deriving DecidableEq, Repr

/-- The halt conditions (R72): WAIT or reset, ADDRESS STOP (R715), a second processor detected fault (R664); and the CPU
clock stopped at a parity error by the MEMORY FAULT switch (R716). -/
inductive Halt where
  | none | waiting | addressStop | hung | memoryFault
deriving DecidableEq, Repr

/-- What the next step must do before anything else: nothing; execute the word that an EXU fetched (R493, log 8); make
the entry of a trap (R640, log 9). -/
inductive Pending where
  | none
  | subject (w : Word)
  | trap (t : Trap)
deriving DecidableEq, Repr

/-- The INSTR/NORM/MEM REF switch (R715). -/
inductive StopMode where
  | norm | instr | memRef
deriving DecidableEq, Repr

/-- The ADDRESS STOP switches (R715). -/
structure StopSwitches where
  mode : StopMode
  /-- The 22 SELECT ADDRESS switches. -/
  select : WordAddr
  /-- PAGE: the nine least significant switches are ignored. -/
  page : Bool
  /-- WRT: only write cycles stop in MEM REF. -/
  write : Bool
deriving DecidableEq, Repr

/-- Panel switches that the operator can move (R73, R714-R716). -/
inductive SwitchSetting where
  | homespaceBias (v : BitVec 6)
  | memoryFaultHalt (on : Bool)
  | addressHold (on : Bool)
  | addressStop (v : StopSwitches)
  | sense (v : BitVec 4)
  | decimalOverride (on : Bool)
  | watchdogOverride (on : Bool)
  | powerNormal (on : Bool)
deriving DecidableEq, Repr

/-- The external events of 00_scope R27; each may arrive between any two instructions. -/
inductive Event where
  /-- A count pulse of real-time clock 1-4 (R681): `n` = 0 is counter 1. -/
  | countPulse (n : Fin 4)
  /-- A signal on an external interrupt line (R686): level `k` of group X'2' + `g`. -/
  | externalLine (g : Fin 14) (k : Fin 16)
  /-- The I/O interrupt request line rises or falls (R683). -/
  | ioLine (up : Bool)
  /-- The processor fault interrupt line from an IOP or another CPU (R665). -/
  | processorFault
  /-- A fault that the memory unit of the bank that holds the address finds: status, address snapshot, and the memory fault
  interrupt line (R535, R682). -/
  | memoryFault (k : MemoryFault) (at_ : WordAddr)
  /-- The INTERRUPT button (R684). -/
  | interruptButton
  /-- Power-off warning and power-on (R685, D23). -/
  | powerOff
  | powerOn
  /-- RIO from another CPU addressed to this one (R666). -/
  | rioReset
  /-- POLR from another processor addressed to this CPU (R600, R613). -/
  | polled
  /-- COMPUTE to IDLE, RUN, STEP (R710). -/
  | idle
  | run
  | stepOne
  /-- The reset switches (R712). -/
  | cpuReset
  | ioReset
  | sysReset
  /-- MEMORY CLEAR (R713). -/
  | memoryClear
  /-- LOAD with the UNIT ADDRESS switches (R720-R722). -/
  | load (unitAddress : BitVec 13)
  /-- INSERT into PSW1 or PSW2 (R714). -/
  | insert1 (data : Word)
  | insert2 (data : Word)
  /-- STORE at the address of the 22 SELECT ADDRESS switches, an actual one or with the map on a virtual one (R714). -/
  | store (at_ : WordAddr) (data : Word)
  /-- INSTR ADDR in INCRM (R714). -/
  | incrementAddress
  /-- SNAP ENTER: the snapshot control register loaded from the DATA switches (R716). -/
  | snapEnter (data : Word)
  /-- A switch moved (R716). -/
  | switch (v : SwitchSetting)
  /-- A word stored by an IOP or another CPU, at a real address without Homespace bias (R615, D30). -/
  | agentStore (at_ : WordAddr) (data : Word)
  /-- An injected hardware fault (D25): map parity, data bus check, a memory-detected parity error at an address (R659). -/
  | mapParity
  | dataBusCheck
  | memoryParity (k : ParityError) (at_ : WordAddr)
  /-- A memory that never answers the CPU (R657, TCC3); `altered` says that the aborted instruction had changed a register
  or memory. -/
  | memoryBusHang (altered : Bool)
  /-- The first-phase watchdog runout of the instruction just completed (R657). -/
  | watchdogPhase1
deriving DecidableEq, Repr

/-- The I/O instructions as the exchange knows them (R586). -/
inductive IoKind where
  | sio | tio | tdv | hio | rio | polp | polr | aio
deriving DecidableEq, Repr

/-- What the CPU presents to the I/O system (R581, R586, R602): the kind of instruction, the I/O address in bits 19-31 of
the effective address, the R field by which status is requested, and for SIO the address of the first command doubleword,
bits 11-31 of register 0. -/
structure IoRequest where
  kind : IoKind
  address : BitVec 13
  status : BitVec 4
  command : Option (BitVec 21)
deriving DecidableEq, Repr

/-- What the CPU presents on the RD/WD lines in modes 2-F: the sixteen address bits and the data of a WD (R539, R546). -/
structure DioRequest where
  address : Half
  data : Option Word
deriving DecidableEq, Repr

/-- An answer of the I/O system to one I/O instruction (R586), with what R582 lets the exchange leave in the
communication locations X'20' and X'21'. `silent` never answers (R657, TCC2). -/
inductive IoAnswer where
  | answer (cc1 cc2 cc3 : Bool) (wR wStatus : Word) (comm : Option (Word × Word)) (lineAfter : Bool)
  | silent
deriving DecidableEq, Repr

/-- An answer of an external element on the RD/WD lines (R539, R546); `silent` never answers (R657, TCC4). -/
inductive DioAnswer where
  | answer (data : Word) (cc3 cc4 : Bool)
  | silent
deriving DecidableEq, Repr

/-- Main memory: byte address and byte, addresses strictly rising, no entry equal to what an unlisted byte reads as. The
byte address of byte `k` of real word `w` is 4 w + k (R100, R101). -/
abbrev Memory := List Host.Cell

/-- What a byte of memory that nothing has written reads as. DESIGN CHOICE, unsafe (log 2): the spec gives memory no
value at power-up (D7); 0 is what MEMORY CLEAR leaves (R713). -/
def unwritten : Byte := 0

/-- The machine. -/
structure State where
  /-- The installation parameters (00_scope R9-R18). -/
  inst : Installation
  /-- The general registers: register `n` of block `b` at index 16 b + n (R40). -/
  regs : Vector Word 64
  psd : Psd
  /-- Memory control storage (R58-R60). -/
  map : Vector (BitVec 13) 256
  acc : Vector (BitVec 2) 256
  lock : Vector (BitVec 2) 256
  mem : Memory
  /-- Real word addresses whose parity bit is bad (R74, R534 action 0010). -/
  badParity : List Nat
  banks : List Bank
  ints : Interrupts
  /-- R65. -/
  pdf : Bool
  /-- Bits 24-29 of the word POLP returns (R67, R600). -/
  faultStatus : BitVec 6
  /-- R67. -/
  pfiGenerated : Bool
  /-- R66. -/
  tcc : BitVec 4
  /-- R69. -/
  snapControl : Word
  snapSample : Word
  snapArmed : Bool
  /-- R70. -/
  alarm : Bool
  pcf : Bool
  /-- R71. -/
  clockMargin : BitVec 2
  /-- R72, R710. -/
  compute : Compute
  halt : Halt
  /-- The I/O interrupt request line (R683). -/
  ioLine : Bool
  /-- The ADDRESS STOP switches (R715). -/
  stopSwitches : StopSwitches
  /-- The exchange that the CPU last presented to the I/O system (R586). -/
  ioRequest : Option IoRequest
  /-- The exchange that the CPU last presented on the RD/WD lines (R539, R546). -/
  dioRequest : Option DioRequest
  /-- The model's own: the instruction address at which an ADDRESS STOP halt was made and whose instruction is still to be
  executed (R715, log 42). -/
  stoppedAt : Option WordAddr
  /-- The model's own (log 8, 9). -/
  pend : Pending
  /-- The model's own: the last instruction changed the instruction sequence (R642, D49). -/
  jumped : Bool
  /-- The model's own: an instruction, or one in an interrupt location, was begun and no trap has been taken since, so that
  a first-phase watchdog runout can be of it (R657, U19). -/
  completed : Bool
  /-- The model's own: real words, each of which the next store into it takes off the list. Empty but while a step is tried
  for the ADDRESS STOP switches (R715, log 42). -/
  watch : List Nat
  /-- The model's own: the number and the old contents of the register whose instruction the hazard of R735 leaves a
  choice (U3, log 19). -/
  stale : Option (BitVec 4 × Word)
  /-- The model's own: how many free values have been drawn (log 6). -/
  free : Nat
  /-- The model's own: the external events to come, one list for each boundary (log 7). -/
  inputs : List (List Event)
  /-- The model's own: the answers to come of the I/O system and of the RD/WD lines (log 7). -/
  ioScript : List IoAnswer
  dioScript : List DioAnswer
deriving DecidableEq, Repr

/-- What stops the machine. -/
inductive Fault where
  /-- An external element never answers and the watchdog timer is overridden, so that the instruction never ends (R657,
  R716, log 21). Raised by the I/O instructions and by RD and WD in modes 2-F. Safe: the hardware stays there too. -/
  | busHang
deriving DecidableEq, Repr

/-- Why an instruction has no meaning. -/
inductive Refusal where
  /-- Raised by exec for an instruction whose meaning has not been written. Safe: nothing follows from it. -/
  | notModelled (mnemonic : String)
deriving DecidableEq, Repr

/-- A 16K-word bank with no fault recorded; status word 1 says no interleave, 16K bank, memory unit number, 32K unit,
power normal (R536). DESIGN CHOICE (log 4). -/
def freshBank (i : Nat) : Bank where
  base := i * 16384
  size := 16384
  number := BitVec.ofNat 2 (i % 2)
  sw0Other := 0
  sw1Config := 0x10C40000#32 ||| (BitVec.ofNat 32 (i / 2) <<< 24)
  faults := 0
  margins := 0
  sw2Other := 0
  snap := none
  sw2Idle := 0
  mfi := false

/-- The PSD that CPU RESET leaves: zero but for IA = X'26' (R77). -/
def Psd.reset : Psd where
  cc1 := false
  cc2 := false
  cc3 := false
  cc4 := false
  fs := false
  fz := false
  fn := false
  ms := false
  mm := false
  dm := false
  am := false
  ansi := false
  ia := 0x26#17
  wk := 0
  ci := false
  ii := false
  ei := false
  ma := false
  ea := 0
  rp := 0

/-- Every level disarmed and disabled, but for power on and power off, always armed and always enabled (R63, R77). -/
def Interrupts.reset : Interrupts where
  power := ⟨0xC000#16, 0, 0xC000#16⟩
  internal := ⟨0, 0, 0⟩
  external := Vector.replicate 14 ⟨0, 0, 0⟩

/-- The machine right after CPU RESET at power-up: the values of R77, and for what no reset touches (R78) the values of
log 1, 2 and 3 (DESIGN CHOICE, unsafe: the spec gives `any value`, D7). -/
def State.reset : State where
  inst := Config.basic
  regs := Vector.replicate 64 0
  psd := Psd.reset
  map := Vector.replicate 256 0
  acc := Vector.replicate 256 0
  lock := Vector.replicate 256 0
  mem := []
  badParity := []
  banks := [freshBank 0, freshBank 1, freshBank 2, freshBank 3, freshBank 4, freshBank 5, freshBank 6, freshBank 7]
  ints := Interrupts.reset
  pdf := false
  faultStatus := 0
  pfiGenerated := false
  tcc := 0
  snapControl := 0
  snapSample := 0
  snapArmed := false
  alarm := false
  pcf := false
  clockMargin := 0
  compute := .idle
  halt := .waiting
  ioLine := false
  stopSwitches := ⟨.norm, 0, false, false⟩
  ioRequest := none
  dioRequest := none
  stoppedAt := none
  pend := .none
  jumped := true
  completed := false
  watch := []
  stale := none
  free := 0
  inputs := []
  ioScript := []
  dioScript := []

end Sys2Proof.Machine
end

