-- ==== Sys2Proof/Machine/Memory.lean ====
section
/-! DEFINITION. Registers, main memory, and the access path from a virtual address to a register or a real word
(20_memory R100-R132). -/

namespace Sys2Proof.Machine

open Sys2Proof Sys2Proof.Config

/-! ### General registers -/

/-- The place of register `n` of the current block: block PSD[58:59], register `n` (R40, R54). -/
def regIndex (p : Psd) (n : BitVec 4) : Nat := (p.rp.extractLsb' 0 2 ++ n : BitVec 6).toNat

theorem regIndex_lt (p : Psd) (n : BitVec 4) : regIndex p n < 64 :=
  (p.rp.extractLsb' 0 2 ++ n : BitVec 6).isLt

/-- `R[n]` (R40). -/
def getReg (s : State) (n : BitVec 4) : Word := s.regs[regIndex s.psd n]'(regIndex_lt _ _)

/-- `R[n] <- v` (R40). -/
def setReg (n : BitVec 4) (v : Word) (s : State) : State :=
  { s with regs := s.regs.set (regIndex s.psd n) v (regIndex_lt _ _) }

/-- `R[r] <-` the high half, `R[Ru1] <-` the low half, in the order low half first, so that with odd `r` register `r`
keeps the high half (R42, 40_load_store R213). -/
def setRegPair (r : BitVec 4) (d : Dword) (s : State) : State := setReg r (hiWord d) (setReg (ru1 r) (loWord d) s)

/-- `R[r] || R[Ru1]` (R42). -/
def getRegPair (s : State) (r : BitVec 4) : Dword := getReg s r ++ getReg s (ru1 r)

/-! ### Memory as bytes and words -/

/-- The byte at a byte address. -/
def readCell : Memory → Nat → Byte
  | [], _ => unwritten
  | (k, b) :: rest, a => if k = a then b else readCell rest a

/-- Memory with the byte at an address replaced, in canonical form. -/
def writeCell : Memory → Nat → Byte → Memory
  | [], a, b => if b = unwritten then [] else [(a, b)]
  | (k, c) :: rest, a, b =>
    if a < k then (if b = unwritten then (k, c) :: rest else (a, b) :: (k, c) :: rest)
    else if a = k then (if b = unwritten then rest else (a, b) :: rest)
    else (k, c) :: writeCell rest a b

/-- The canonical form from address `lo` on: addresses rise strictly and no entry is what an unlisted byte reads as. -/
def wfFrom : Nat → Memory → Bool
  | _, [] => true
  | lo, (k, b) :: rest => decide (lo ≤ k) && b != unwritten && wfFrom (k + 1) rest

/-- The canonical form of memory. -/
def Memory.wf (m : Memory) : Bool := wfFrom 0 m

/-- The word at a real word address, its most significant byte at the lowest byte address (R101). -/
def readWordAt (m : Memory) (a : WordAddr) : Word :=
  readCell m (4 * a.toNat) ++ readCell m (4 * a.toNat + 1) ++ readCell m (4 * a.toNat + 2) ++
    readCell m (4 * a.toNat + 3)

/-- A word stored at a real word address (R101). -/
def writeWordAt (m : Memory) (a : WordAddr) (w : Word) : Memory :=
  writeCell (writeCell (writeCell (writeCell m (4 * a.toNat) (byteOf w 0)) (4 * a.toNat + 1) (byteOf w 1))
    (4 * a.toNat + 2) (byteOf w 2)) (4 * a.toNat + 3) (byteOf w 3)

/-! ### Which real addresses exist -/

/-- The bank holds the real word address. -/
def Bank.holds (b : Bank) (a : Nat) : Bool := decide (b.base ≤ a) && decide (a < b.base + b.size)

/-- The bank of a real word address, if it is implemented. -/
def bankAt (s : State) (a : WordAddr) : Option Bank := s.banks.find? (fun b => b.holds a.toNat)

/-- `MEM_EXISTS` (00_scope R12). -/
def memExists (s : State) (a : WordAddr) : Bool := s.banks.any (fun b => b.holds a.toNat)

/-- A change of the status of the bank that holds an address (the first one, should several). -/
def updateBanks (f : Bank → Bank) (a : WordAddr) : List Bank → List Bank
  | [] => []
  | b :: rest => if b.holds a.toNat then f b :: rest else b :: updateBanks f a rest

/-- A memory fault noted by its bank: the status bit, the address snapshot if none is held yet, else the subsequent
faults bit 12, and the memory fault interrupt signal (R535, R537, R682). `parity` is bit 13, the last parity bit written,
which the model does not hold (log 15). -/
def Bank.noteFault (bits : Word) (a : WordAddr) (parity : Bool) (b : Bank) : Bank :=
  match b.snap with
  | none =>
    { b with faults := b.faults ||| bits ||| (if parity then 0x00040000#32 else 0), snap := some a, mfi := true }
  | some _ => { b with faults := b.faults ||| 0x00080000#32, mfi := true }

/-! ### Addressing types -/

/-- `real_extended` (10_state R48). -/
def realExtended (s : State) : Bool := !s.psd.mm && s.psd.ma

/-- `access_protection_on` (10_state R48, 20_memory R127). -/
def protectionOn (s : State) : Bool := s.psd.mm && (s.psd.ms || s.psd.ma)

/-- A word address kept to the width of the addressing type: 22 or 17 bits (R104, D8). -/
def wrapWord (s : State) (a : WordAddr) : WordAddr := if realExtended s then a else a &&& 0x1FFFF#22

/-- A byte address kept to the width of the addressing type: 24 or 19 bits (R104, D8). -/
def wrapByte (s : State) (a : ByteAddr) : ByteAddr := if realExtended s then a else a &&& 0x7FFFF#24

/-- The word address of a byte address. -/
def wordOf (b : ByteAddr) : WordAddr := b.extractLsb' 2 22

/-- The virtual page of a word address: the high 8 bits of its low 17 (R119, R120). -/
def pageOf (v : WordAddr) : BitVec 8 := v.extractLsb' 9 8

/-- The memory map entry of a page (R58). -/
def mapOf (s : State) (p : BitVec 8) : BitVec 13 := s.map[p.toNat]'p.isLt

/-- The access protection code of a page (R59). -/
def accOf (s : State) (p : BitVec 8) : BitVec 2 := s.acc[p.toNat]'p.isLt

/-- The write lock of a real address before Homespace bias: 00 beyond 128K (R60, R130). -/
def lockOf (s : State) (a : WordAddr) : BitVec 2 :=
  if a.toNat < 131072 then s.lock[(pageOf a).toNat]'(pageOf a).isLt else 0

/-- `HomespaceBias` (R124). -/
def homespaceBias (s : State) (a : WordAddr) : WordAddr :=
  if a.extractLsb' 10 12 = 0#12 then 0#2 ++ s.inst.homespaceBias ++ a.extractLsb' 0 14 else a

/-- A page through the map (R120). -/
def mapped (s : State) (v : WordAddr) : WordAddr := mapOf s (pageOf v) ++ v.extractLsb' 0 9

/-- The actual address of a virtual address, before Homespace bias (R119). -/
def actualAddr (s : State) (v : WordAddr) : WordAddr := if s.psd.mm then mapped s v else v

/-! ### The access path -/

/-- The three kinds of access (R119). -/
inductive Access where
  | read | write | fetch
deriving DecidableEq, Repr

/-- `Allowed(code, kind)` (R128). -/
def allowed (code : BitVec 2) : Access → Bool
  | .write => code == 0b00#2
  | .read => code != 0b11#2
  | .fetch => code == 0b00#2 || code == 0b01#2

/-- `KeyOpens(key, lock)` (R130). -/
def keyOpens (key lock : BitVec 2) : Bool := lock == 0 || key == 0 || key == lock

/-- Where an access lands: a register of the current block or a real word (R118, R119). -/
inductive Loc where
  | reg (n : BitVec 4)
  | mem (a : WordAddr)
deriving DecidableEq, Repr

/-- The nonallowed operation trap of a storage access: TCC2 nonexistent, TCC4 protected, TSF the page if protected
(60_exceptions R651). -/
def storageTrap (nonexistent violation : Bool) (page : BitVec 8) : Trap where
  loc := 0x40#8
  tcc := 0#1 ++ BitVec.ofBool nonexistent ++ 0#1 ++ BitVec.ofBool violation
  tsf := if violation then page else 0

/-- A virtual address that is not a register's, tested and translated (R119). -/
def locateMemory (s : State) (v : WordAddr) (k : Access) : Except Trap WordAddr :=
  let a := actualAddr s v
  let violation := (protectionOn s && !allowed (accOf s (pageOf v)) k) ||
    (k == .write && !keyOpens s.psd.wk (lockOf s a))
  let real := homespaceBias s a
  if violation || !memExists s real then .error (storageTrap (!memExists s real) violation (pageOf v))
  else .ok real

/-- The access path of every operand and instruction reference: virtual addresses 0-15 are registers (R118, R119). -/
def locate (s : State) (v : WordAddr) (k : Access) : Except Trap Loc :=
  if v.toNat < 16 then .ok (.reg (v.extractLsb' 0 4))
  else match locateMemory s v k with
    | .ok a => .ok (.mem a)
    | .error t => .error t

/-- A real address as the entry sequences form it: no register, no map, no access protection, the write lock of the
page consulted for a store (R116, R129, D12). -/
def locateReal (s : State) (a : WordAddr) (k : Access) : Except Trap Loc :=
  let violation := k == .write && !keyOpens s.psd.wk (lockOf s a)
  let real := homespaceBias s a
  if violation || !memExists s real then .error (storageTrap (!memExists s real) violation (pageOf a))
  else .ok (.mem real)

/-- The word of a real address has bad parity. -/
def parityBad (s : State) (a : WordAddr) : Bool := s.badParity.contains a.toNat

/-- The memory parity error trap (60_exceptions R659): X'4C', TCC 0000; the bank notes the fault bit and snapshots the
address. -/
def parityTrap (bits : Word) (a : WordAddr) : Trap where
  loc := 0x4C#8
  fault := some .memoryParity
  bankFault := some (bits, a)

/-- Status word 0 bit 1, data parity error on a read (R535). -/
def swReadParity : Word := 0x40000000#32
/-- Status word 0 bit 2, data parity error on a partial write (R535). -/
def swPartialParity : Word := 0x20000000#32
/-- Status word 0 bit 8, LMS with a reserved code (R535, R537). -/
def swReservedCode : Word := 0x00800000#32

/-- The bit of status word 0 for a parity error (R535 bits 1-4 and 6). -/
def ParityError.statusBit : ParityError → Word
  | .read => swReadParity
  | .partialWrite => swPartialParity
  | .addressBus => 0x10000000#32
  | .dataBus => 0x08000000#32
  | .portSelection => 0x02000000#32

/-- The bit of status word 0 for a memory fault (R535 bits 1-7). -/
def MemoryFault.statusBit : MemoryFault → Word
  | .parity k => k.statusBit
  | .loopCheck => 0x04000000#32
  | .power => 0x01000000#32

/-- Reading where an access landed; a word of bad parity gives the parity error trap, the bank noting `bits` (R132,
R659). -/
def readLocNoting (bits : Word) (s : State) : Loc → Except Trap Word
  | .reg n => .ok (getReg s n)
  | .mem a => if parityBad s a then .error (parityTrap bits a) else .ok (readWordAt s.mem a)

/-- Reading where an access landed. -/
def readLoc (s : State) (l : Loc) : Except Trap Word := readLocNoting swReadParity s l

/-- Storing a whole word where an access landed: memory writes good parity with it (R132), and a word on watch has been
stored into (R715). -/
def writeLoc (l : Loc) (w : Word) (s : State) : State :=
  match l with
  | .reg n => setReg n w s
  | .mem a =>
    { s with
      mem := writeWordAt s.mem a w
      badParity := s.badParity.filter (· != a.toNat)
      watch := s.watch.filter (· != a.toNat) }

/-- `MemRead` of a word (R119). -/
def readWord (s : State) (v : WordAddr) : Except Trap Word :=
  match locate s v .read with
  | .ok l => readLoc s l
  | .error t => .error t

/-- `MemWrite` of a word (R119). -/
def writeWord (s : State) (v : WordAddr) (w : Word) : Except Trap State :=
  match locate s v .write with
  | .ok l => .ok (writeLoc l w s)
  | .error t => .error t

/-- A word read by an instruction that will also store into it: write access is needed (R128), and is tested before
the word is read. That AWM, XW, STS, and MTB, MTH and MTW with R nonzero, so report a write violation rather than bad parity
of the same word is a DESIGN CHOICE (R240, R245, R280-R283 write the read first, log 44). -/
def readForUpdate (bits : Word) (s : State) (v : WordAddr) : Except Trap (Loc × Word) :=
  match locate s v .write with
  | .ok l => match readLocNoting bits s l with
    | .ok w => .ok (l, w)
    | .error t => .error t
  | .error t => .error t

/-- `MemRead` of a byte (R101, R119). -/
def readByte (s : State) (b : ByteAddr) : Except Trap Byte :=
  match readWord s (wordOf b) with
  | .ok w => .ok (byteOf w (b.extractLsb' 0 2))
  | .error t => .error t

/-- `MemRead` of a halfword (R101, R119). -/
def readHalf (s : State) (b : ByteAddr) : Except Trap Half :=
  match readWord s (wordOf b) with
  | .ok w => .ok (halfOf w (b.extractLsb' 1 1))
  | .error t => .error t

/-- `MemRead` of a doubleword at an even word address, even word first (R105, D9). -/
def readDword (s : State) (v : WordAddr) : Except Trap Dword :=
  match readWord s v with
  | .ok hi => match readWord s (v ||| 1#22) with
    | .ok lo => .ok (hi ++ lo)
    | .error t => .error t
  | .error t => .error t

/-- `MemWrite` of a byte: a partial write of the word, which finds bad parity and then leaves memory unchanged (R106,
R659). -/
def writeByte (s : State) (b : ByteAddr) (x : Byte) : Except Trap State :=
  match readForUpdate swPartialParity s (wordOf b) with
  | .ok (l, w) => .ok (writeLoc l (withByte w (b.extractLsb' 0 2) x) s)
  | .error t => .error t

/-- `MemWrite` of a halfword: a partial write (R106, R659). -/
def writeHalf (s : State) (b : ByteAddr) (x : Half) : Except Trap State :=
  match readForUpdate swPartialParity s (wordOf b) with
  | .ok (l, w) => .ok (writeLoc l (withHalf w (b.extractLsb' 1 1) x) s)
  | .error t => .error t

/-- The access test of one location alone, as the both-ends test makes it (60_exceptions R668). -/
def testAccess (s : State) (v : WordAddr) (k : Access) : Except Trap Unit :=
  match locate s v k with
  | .ok _ => .ok ()
  | .error t => .error t

end Sys2Proof.Machine
end

