-- ==== Sys2Proof/Machine/Flags.lean ====
section
/-! DEFINITION. The condition code: its bits (10_state R45) and every way the families set it (40 R210, 41 R266-R267, 42
R300, R321, 43 R358). -/

namespace Sys2Proof.Machine

open Sys2Proof

/-- CC1-CC4 as a number, CC1 leftmost (R45). -/
def ccOf (s : State) : BitVec 4 :=
  BitVec.ofBool s.psd.cc1 ++ BitVec.ofBool s.psd.cc2 ++ BitVec.ofBool s.psd.cc3 ++ BitVec.ofBool s.psd.cc4

/-- CC1-CC4 loaded whole. -/
def setCC (v : BitVec 4) (s : State) : State :=
  { s with psd := { s.psd with
      cc1 := v.getLsbD 3, cc2 := v.getLsbD 2, cc3 := v.getLsbD 1, cc4 := v.getLsbD 0 } }

/-- CC1 alone. -/
def setCC1 (a : Bool) (s : State) : State := { s with psd := { s.psd with cc1 := a } }

/-- CC2 alone. -/
def setCC2 (a : Bool) (s : State) : State := { s with psd := { s.psd with cc2 := a } }

/-- CC1 and CC2. -/
def setCC12 (a b : Bool) (s : State) : State := { s with psd := { s.psd with cc1 := a, cc2 := b } }

/-- CC3 alone. -/
def setCC3 (a : Bool) (s : State) : State := { s with psd := { s.psd with cc3 := a } }

/-- CC4 alone. -/
def setCC4 (a : Bool) (s : State) : State := { s with psd := { s.psd with cc4 := a } }

/-- CC3 and CC4. -/
def setCC34 (a b : Bool) (s : State) : State := { s with psd := { s.psd with cc3 := a, cc4 := b } }

/-- CC1, CC2 and CC3 (the I/O instructions, 49 R580). -/
def setCC123 (a b c : Bool) (s : State) : State := { s with psd := { s.psd with cc1 := a, cc2 := b, cc3 := c } }

/-- CC3 CC4 of a signed result: 00 zero, 01 negative, 10 positive (40 R210). -/
def signCC {w : Nat} (v : BitVec w) (s : State) : State := setCC34 (!v.msb && v != 0) v.msb s

/-- CC3 CC4 of a comparison: 00 equal, 01 less, 10 greater (42 R300). -/
def orderCC34 (less greater : Bool) (s : State) : State := setCC34 greater less s

/-- CC1 CC2 of a comparison: 00 equal, 01 less, 10 greater (42 R307, R308). -/
def orderCC12 (less greater : Bool) (s : State) : State := setCC12 greater less s

/-- A sum of two `w`-bit numbers: the result, the carry out of bit 0, and overflow (41 R266, R267). -/
def addFlags {w : Nat} (a b : BitVec w) : BitVec w × Bool × Bool :=
  (a + b, decide (2 ^ w ≤ a.toNat + b.toNat), a.msb == b.msb && (a + b).msb != a.msb)

/-- A difference, as the sum with the two's complement of the subtrahend: the result, the carry out of bit 0 of
a + ~b + 1, and overflow (41 R266, R267). -/
def subFlags {w : Nat} (a b : BitVec w) : BitVec w × Bool × Bool :=
  (a - b, decide (2 ^ w ≤ a.toNat + (~~~ b).toNat + 1), a.msb != b.msb && (a - b).msb != a.msb)

/-- CC1 carry, CC2 overflow, CC3 CC4 the sign of the result (41 R266). -/
def arithCC {w : Nat} (r : BitVec w × Bool × Bool) (s : State) : State := signCC r.1 (setCC12 r.2.1 r.2.2 s)

end Sys2Proof.Machine
end

