-- ==== Sys2Proof/Machine/Operands.lean ====
section
/-! DEFINITION. Effective addresses and operands (20_memory R108-R117). -/

namespace Sys2Proof.Machine

open Sys2Proof

/-- Index alignment: how far the index register is shifted (R109). -/
def alignByte : Nat := 0
/-- Halfword index alignment (R109). -/
def alignHalf : Nat := 1
/-- Word index alignment (R109). -/
def alignWord : Nat := 2
/-- Doubleword index alignment (R109). -/
def alignDword : Nat := 3

/-- The direct address that an indirect word gives in real extended addressing: its three forms (R112). -/
def extendedIndirect (s : State) (w : Word) : WordAddr :=
  if !bit w 0 then field w 10 31
  else if !bit w 15 then 0#6 ++ field w 16 31
  else s.psd.ea ++ field w 16 31

/-- The reference address of an instruction before indirection (R110, R112). -/
def directRef (s : State) (m : MR) : WordAddr :=
  if realExtended s then (if m.addr.getLsbD 16 then s.psd.ea else 0#6) ++ m.addr.extractLsb' 0 16
  else m.addr.zeroExtend 22

/-- The direct address that an indirect word gives (R110, R112). -/
def indirectRef (s : State) (w : Word) : WordAddr :=
  if realExtended s then extendedIndirect s w else (field w 15 31).zeroExtend 22

/-- The reference address after indirection, the indirect word read by `rd` (R108, R110, R112). -/
def refAddrWith (rd : WordAddr → Except Trap Word) (s : State) (m : MR) : Except Trap WordAddr :=
  if m.ind then
    match rd (directRef s m) with
    | .ok w => .ok (indirectRef s w)
    | .error t => .error t
  else .ok (directRef s m)

/-- Indexing and adjustment of a reference address: the effective byte address (R109, R110, R112). -/
def indexed (s : State) (m : MR) (align : Nat) (ref : WordAddr) : ByteAddr :=
  let b : ByteAddr := ref ++ 0#2
  let b := if m.x = 0 then b else wrapByte s (b + ((getReg s (0#1 ++ m.x)).truncate 24 <<< align))
  if align = 3 then b &&& 0xFFFFFB#24 else b

/-- The effective virtual address as a byte address (R110, R112); the indirect word is an operand read (R114). -/
def effAddr (s : State) (m : MR) (align : Nat) : Except Trap ByteAddr :=
  match refAddrWith (readWord s) s m with
  | .ok ref => .ok (indexed s m align ref)
  | .error t => .error t

/-- The effective virtual address as a word address. -/
def effWordAddr (s : State) (m : MR) (align : Nat) : Except Trap WordAddr :=
  match effAddr s m align with
  | .ok b => .ok (wordOf b)
  | .error t => .error t

/-- The effective byte, EB. -/
def operandByte (s : State) (m : MR) : Except Trap Byte :=
  match effAddr s m alignByte with
  | .ok b => readByte s b
  | .error t => .error t

/-- The effective halfword, EH. -/
def operandHalf (s : State) (m : MR) : Except Trap Half :=
  match effAddr s m alignHalf with
  | .ok b => readHalf s b
  | .error t => .error t

/-- The effective word, EW. -/
def operandWord (s : State) (m : MR) : Except Trap Word :=
  match effWordAddr s m alignWord with
  | .ok v => readWord s v
  | .error t => .error t

/-- The effective doubleword, ED (R105). -/
def operandDword (s : State) (m : MR) : Except Trap Dword :=
  match effWordAddr s m alignDword with
  | .ok v => readDword s v
  | .error t => .error t

/-- The immediate value extended by its sign (R172, R183). -/
def immediate (i : Imm) : Word := i.value.signExtend 32

end Sys2Proof.Machine
end

