-- ==== Sys2Proof/Machine/Ops.lean ====
section
/-! DEFINITION. The shared operations: how a meaning is composed and run, the instruction address, the PSD image, the
interrupt levels, taking a trap or an interrupt, and the return from one. -/

namespace Sys2Proof.Machine

open Sys2Proof Sys2Proof.Config

/-! ### Composing a meaning -/

/-- How an instruction ends before its own end: a trap, or a fault of the machine. -/
inductive Stop where
  | trap (t : Trap)
  | fault (f : Fault)
deriving DecidableEq, Repr

/-- A part of a meaning: it changes the state and may stop, the state at the stop being kept. -/
abbrev Act (α : Type) := EStateM Stop State α

/-- Look at the state. -/
def look {α : Type} (f : State → α) : Act α := fun s => .ok (f s) s

/-- Change the state. -/
def change (f : State → State) : Act Unit := fun s => .ok () (f s)

/-- A value computed from the state, or the trap met in computing it. -/
def need {α : Type} (f : State → Except Trap α) : Act α := fun s =>
  match f s with
  | .ok a => .ok a s
  | .error t => .error (.trap t) s

/-- A change of the state, or the trap met in making it. -/
def commit (f : State → Except Trap State) : Act Unit := fun s =>
  match f s with
  | .ok s' => .ok () s'
  | .error t => .error (.trap t) s

/-- A change of the state that keeps what it has done when it meets a trap. -/
def attempt (f : State → Except (Trap × State) State) : Act Unit := fun s =>
  match f s with
  | .ok s' => .ok () s'
  | .error (t, s') => .error (.trap t) s'

/-- Trap. -/
def raise {α : Type} (t : Trap) : Act α := fun s => .error (.trap t) s

/-- Stop the machine. -/
def stopWith {α : Type} (f : Fault) : Act α := fun s => .error (.fault f) s

/-- The part is run with RA set in any trap it raises (R667). -/
def altering {α : Type} (a : Act α) : Act α := fun s =>
  match a s with
  | .error (.trap t) s' => .error (.trap { t with ra := true }) s'
  | r => r

/-- A fresh free value of `w` bits (93_implementation_defined, `any value`; log 6). -/
def draw (w : Nat) : Act (BitVec w) := fun s =>
  .ok (freeValue w s.free) { s with free := s.free + 1 }

/-! ### The instruction address (R47) -/

/-- `pc`: the word address of the next instruction (R47). -/
def pc (s : State) : WordAddr :=
  if realExtended s then (if s.psd.ia.getLsbD 16 then s.psd.ea else 0#6) ++ s.psd.ia.extractLsb' 0 16
  else s.psd.ia.zeroExtend 22

/-- The instruction address plus 1 modulo 2^17, in real extended addressing modulo 2^16 within bits 16-31 (R47). -/
def incrementedIa (s : State) : BitVec 17 :=
  if realExtended s then s.psd.ia.extractLsb' 16 1 ++ (s.psd.ia.extractLsb' 0 16 + 1#16) else s.psd.ia + 1#17

/-- The updated instruction address `UIA` (R490); with the INSTR ADDR switch in HOLD nothing is added to it (70 R714,
log 42). -/
def nextIa (s : State) : BitVec 17 := if s.inst.addressHold then s.psd.ia else incrementedIa s

/-- The instruction address moved to the next instruction in sequence (R490). -/
def advance (s : State) : State := { s with psd := { s.psd with ia := nextIa s } }

/-- The instruction is complete and the next in sequence follows. -/
def done : Act Unit := change advance

/-- Completion of an instruction that may have overflowed: the overflow trap of a completed instruction is taken after it,
with the address of the next instruction (R212, R267, R645, R656). -/
def doneWithOverflow : Act Unit := fun s =>
  let s' := advance s
  if s'.psd.cc2 && s'.psd.am then .error (.trap { loc := 0x43#8 }) s' else .ok () s'

/-! ### The PSD image (R52) -/

/-- `StorePSD()`, bits 0-31 (R52, R521). -/
def psdWord1 (p : Psd) : Word :=
  BitVec.ofBool p.cc1 ++ BitVec.ofBool p.cc2 ++ BitVec.ofBool p.cc3 ++ BitVec.ofBool p.cc4 ++ 0#1 ++
    BitVec.ofBool p.fs ++ BitVec.ofBool p.fz ++ BitVec.ofBool p.fn ++ BitVec.ofBool p.ms ++ BitVec.ofBool p.mm ++
    BitVec.ofBool p.dm ++ BitVec.ofBool p.am ++ BitVec.ofBool p.ansi ++ 0#2 ++ p.ia

/-- `StorePSD()`, bits 32-63, with the trapped status field and the register altered bit (R52, R53, R55, R521). -/
def psdWord2 (p : Psd) (tsf : BitVec 8) (ra : Bool) : Word :=
  0#2 ++ p.wk ++ 0#1 ++ BitVec.ofBool p.ci ++ BitVec.ofBool p.ii ++ BitVec.ofBool p.ei ++ BitVec.ofBool p.ma ++
    0#1 ++ p.ea ++ tsf ++ p.rp ++ BitVec.ofBool ra ++ 0#3

/-- Bits 0-31 of a doubleword loaded into the PSD (R522, R523); undefined positions ignored (R56). -/
def loadPsd1 (d : Word) (p : Psd) : Psd :=
  { p with
    cc1 := bit d 0, cc2 := bit d 1, cc3 := bit d 2, cc4 := bit d 3, fs := bit d 5, fz := bit d 6, fn := bit d 7,
    ms := bit d 8, mm := bit d 9, dm := bit d 10, am := bit d 11, ansi := bit d 12, ia := field d 15 31 }

/-- `RPInvalid`: the pointer names a block that is not installed (R54, D6). -/
def rpInvalid (s : State) (rp : BitVec 4) : Bool :=
  rp.extractLsb' 2 2 != 0 || decide (s.inst.nblocks ≤ (rp.extractLsb' 0 2).toNat)

/-! ### Interrupt levels (R62, R63, R671-R677) -/

/-- Where the flip-flops of a level are. -/
inductive LevelGroup where
  | power
  | internal
  | external (g : Fin 14)
deriving DecidableEq, Repr

/-- An interrupt level: its flip-flops' group and its bit in it, bit 0 leftmost. -/
structure Level where
  group : LevelGroup
  bit : Fin 16
deriving DecidableEq, Repr

/-- The mask of one level of a group. -/
def levelMask (k : Fin 16) : BitVec 16 := 0x8000#16 >>> k.val

/-- The Homespace location of a level (R671). -/
def Level.loc (l : Level) : WordAddr :=
  match l.group with
  | .power => BitVec.ofNat 22 (0x50 + l.bit.val)
  | .internal => BitVec.ofNat 22 (0x52 + l.bit.val)
  | .external g => BitVec.ofNat 22 (0x60 + 16 * g.val + l.bit.val)

/-- The group's flip-flops. -/
def groupOf (i : Interrupts) : LevelGroup → IntGroup
  | .power => i.power
  | .internal => i.internal
  | .external g => i.external[g.val]

/-- The interrupt system with the flip-flops of one group changed. -/
def updateGroup (i : Interrupts) (g : LevelGroup) (f : IntGroup → IntGroup) : Interrupts :=
  match g with
  | .power => { i with power := f i.power }
  | .internal => { i with internal := f i.internal }
  | .external k => { i with external := i.external.set k.val (f i.external[k.val]) }

/-- A signal, or a WD trigger: armed levels become waiting, the others ignore it (R672-R675). -/
def IntGroup.signal (m : BitVec 16) (g : IntGroup) : IntGroup := { g with wa := g.wa ||| (m &&& g.aw) }

/-- Waiting levels become active (R675). -/
def IntGroup.acknowledge (m : BitVec 16) (g : IntGroup) : IntGroup :=
  { g with aw := g.aw &&& ~~~ m, wa := g.wa ||| m }

/-- Armed or waiting levels become active, as WD code 000 does (R556, R675). -/
def IntGroup.setActive (m : BitVec 16) (g : IntGroup) : IntGroup :=
  { g with aw := g.aw &&& ~~~ m, wa := g.wa ||| (m &&& g.aw) }

/-- Any state to armed (R556, R688). -/
def IntGroup.arm (m : BitVec 16) (g : IntGroup) : IntGroup := { g with aw := g.aw ||| m, wa := g.wa &&& ~~~ m }

/-- Any state to disarmed (R556, R688). -/
def IntGroup.disarm (m : BitVec 16) (g : IntGroup) : IntGroup :=
  { g with aw := g.aw &&& ~~~ m, wa := g.wa &&& ~~~ m }

/-- The active levels: waiting-or-active and not armed-or-waiting (R545). -/
def IntGroup.active (g : IntGroup) : BitVec 16 := g.wa &&& ~~~ g.aw

/-- The waiting levels (R545). -/
def IntGroup.waiting (g : IntGroup) : BitVec 16 := g.wa &&& g.aw

/-- The levels of group X'0' that exist: X'52', X'53', X'58', X'59' only with `COUNTERS_1_2` (R62, R671). -/
def internalInstalled (s : State) : BitVec 16 := if s.inst.counters12 then 0xFFF0#16 else 0x3CF0#16

/-- The levels of a group that exist (R62, R686). -/
def installed (s : State) : LevelGroup → BitVec 16
  | .power => 0xC000#16
  | .internal => internalInstalled s
  | .external g => s.inst.extInstalled[g.val]

/-- A signal to one level (R672-R675). -/
def signalLevel (l : Level) (s : State) : State :=
  { s with ints := updateGroup s.ints l.group (IntGroup.signal (levelMask l.bit)) }

/-- The I/O level X'5C' (R671). -/
def levelIo : Level := ⟨.internal, 10⟩
/-- The control panel level X'5D' (R671). -/
def levelPanel : Level := ⟨.internal, 11⟩
/-- The processor fault level X'56' (R671). -/
def levelProcessorFault : Level := ⟨.internal, 4⟩
/-- The memory fault level X'57' (R671). -/
def levelMemoryFault : Level := ⟨.internal, 5⟩

/-- A stretch of the priority chain (R676): the levels of `mask` in a group. -/
structure Segment where
  group : LevelGroup
  mask : BitVec 16
  inhibited : Bool
deriving DecidableEq, Repr

/-- The stretch of the chain for a group that `GROUP_PRIORITY` orders, with its inhibit (R676, R677). -/
def chainSegment (s : State) : Chain → Segment
  | .counterZero => ⟨.internal, 0x03C0#16, s.psd.ci⟩
  | .inputOutput => ⟨.internal, 0x0030#16, s.psd.ii⟩
  | .external g => ⟨.external g, 0xFFFF#16, s.psd.ei⟩

/-- The priority chain, highest first: the override group, of which PDF inhibits X'52'-X'57' (R664, D50), then
`GROUP_PRIORITY` (R676). -/
def priorityChain (s : State) : List Segment :=
  ⟨.power, 0xC000#16, false⟩ :: ⟨.internal, 0xFC00#16, s.pdf⟩ :: s.inst.groupPriority.map (chainSegment s)

/-- The leftmost 1 of a mask. -/
def leftmost (m : BitVec 16) : Option (Fin 16) := (List.finRange 16).find? (fun k => m.getLsbD (15 - k.val))

/-- `Eligible` over a stretch of the chain (R677). -/
def eligibleIn (s : State) (g : Segment) : BitVec 16 :=
  if g.inhibited then 0 else (groupOf s.ints g.group).waiting &&& (groupOf s.ints g.group).en &&& g.mask

/-- The active levels of a stretch of the chain. -/
def activeIn (s : State) (g : Segment) : BitVec 16 := (groupOf s.ints g.group).active &&& g.mask

/-- `NextInterrupt`: the first level of the chain that is active or eligible, if it is eligible (R677). -/
def nextInterruptFrom (s : State) : List Segment → Option Level
  | [] => none
  | g :: rest =>
    match leftmost (eligibleIn s g ||| activeIn s g) with
    | none => nextInterruptFrom s rest
    | some k => if (activeIn s g).getLsbD (15 - k.val) then none else some ⟨g.group, k⟩

/-- `NextInterrupt` (R677). -/
def nextInterrupt (s : State) : Option Level := nextInterruptFrom s (priorityChain s)

/-- The highest-priority active level of the chain (R688). -/
def highestActiveFrom (s : State) : List Segment → Option Level
  | [] => none
  | g :: rest =>
    match leftmost (activeIn s g) with
    | none => highestActiveFrom s rest
    | some k => some ⟨g.group, k⟩

/-- The highest-priority active level is cleared: armed, or disarmed if `arm` is false; the power levels are armed either
way (R63, R688). -/
def clearHighestActive (arm : Bool) (s : State) : State :=
  match highestActiveFrom s (priorityChain s) with
  | none => s
  | some l =>
    let f := if arm || l.group == .power then IntGroup.arm (levelMask l.bit) else IntGroup.disarm (levelMask l.bit)
    { s with ints := updateGroup s.ints l.group f }

/-! ### Exchanging the PSD (R116, R522, R523) -/

/-- An address that an entry sequence or an instruction forms: of the current addressing type, or real (R116). -/
inductive Via where
  | virtual (v : WordAddr)
  | real (a : WordAddr)
deriving DecidableEq, Repr

/-- The address `n` words on, within its width (D8). -/
def Via.add (s : State) (n : WordAddr) : Via → Via
  | .virtual v => .virtual (wrapWord s (v + n))
  | .real a => .real (a + n)

/-- The access path of either kind of address (R119, R116). -/
def locateVia (s : State) (k : Access) : Via → Except Trap Loc
  | .virtual v => locate s v k
  | .real a => locateReal s a k

/-- The instruction exception trap X'4D' (R662). -/
def exceptionTrap (tcc : BitVec 4) (tsf : BitVec 8) : Trap where
  loc := 0x4D#8
  tcc := tcc
  tsf := tsf
  fault := some .instructionException

/-- The places of the old PSD's two words and the new PSD's two words, all four tested (R523, D9). -/
def exchangePlaces (s : State) (a : Via) : Except Trap (Loc × Loc × Loc × Loc) := do
  let l0 ← locateVia s .write a
  let l1 ← locateVia s .write (a.add s 1)
  let l2 ← locateVia s .read (a.add s 2)
  let l3 ← locateVia s .read (a.add s 3)
  .ok (l0, l1, l2, l3)

/-- Two words read one after the other. -/
def readTwo (s : State) (l2 l3 : Loc) : Except Trap (Word × Word) := do
  let n1 ← readLoc s l2
  let n2 ← readLoc s l3
  .ok (n1, n2)

/-- The program status after an XPSD has loaded `n1` and `n2`: bits 0-35, 40 and 42-47 are replaced, bits 37-39 ORed, bits
56-59 replaced when LP = 1 (R523). -/
def exchangedPsd (p : Psd) (n1 n2 : Word) (lp : Bool) : Psd :=
  { loadPsd1 n1 p with
    wk := field n2 2 3
    ci := p.ci || bit n2 5
    ii := p.ii || bit n2 6
    ei := p.ei || bit n2 7
    ma := bit n2 8
    ea := field n2 10 15
    rp := if lp then field n2 24 27 else p.rp }

/-- The trap of an XPSD that names a register block not installed: in an entry sequence with the low byte of its location
(R523, R662). -/
def pointerTrap : Option (BitVec 8) → Trap
  | some e => exceptionTrap 0b1000#4 e
  | none => exceptionTrap 0b0000#4 0

/-- XPSD's exchange (R523, R138, D9): the four accesses are tested; the old PSD, `old`, is stored even word first and then
the new one read, even word first, so that bad parity in it finds the old one stored (RA = 1, R55); a register pointer
that names no installed block leaves everything as it was (D6). A trap comes with the state it leaves. `entry` is the low
byte of the trap or interrupt location. -/
def exchangePsd (s : State) (old : Psd) (a : Via) (lp : Bool) (entry : Option (BitVec 8)) (tsf : BitVec 8) (ra : Bool) :
    Except (Trap × State) State :=
  match exchangePlaces s a with
  | .error t => .error (t, s)
  | .ok (l0, l1, l2, l3) =>
    let stored := writeLoc l1 (psdWord2 old tsf ra) (writeLoc l0 (psdWord1 old) s)
    match readTwo stored l2 l3 with
    | .error t => .error ({ t with ra := true }, stored)
    | .ok (n1, n2) =>
      if lp && rpInvalid s (field n2 24 27) then .error (pointerTrap entry, s)
      else .ok { stored with psd := exchangedPsd s.psd n1 n2 lp, jumped := true }

/-- LPSD's load of the doubleword `d`: bits 0-39 replaced, MA and EA under `LPSD_LOADS_MA_EA`, the register pointer when
LP = 1 (R522). -/
def loadPsd (d : Dword) (lp : Bool) (s : State) : State :=
  let p := loadPsd1 (hiWord d) s.psd
  let w := loWord d
  { s with
    psd := { p with
      wk := field w 2 3
      ci := bit w 5
      ii := bit w 6
      ei := bit w 7
      ma := if s.inst.lpsdLoadsMaEa then bit w 8 else p.ma
      ea := if s.inst.lpsdLoadsMaEa then field w 10 15 else p.ea
      rp := if lp then field w 24 27 else p.rp }
    jumped := true }

/-! ### Entry sequences (R640, R646, R647, R678) -/

/-- The operation code of an instruction word (R183). -/
def opOf (w : Word) : BitVec 7 := field w 1 7

/-- A processor detected fault met inside an entry sequence is the instruction exception trap with TCC 1111; the bank
keeps its snapshot (R647). Other traps are taken in the ordinary way (D26). -/
def insideEntry (loc : WordAddr) (t : Trap) : Trap :=
  match t.fault with
  | some .memoryParity => { exceptionTrap 0b1111#4 (loc.extractLsb' 0 8) with ra := t.ra, bankFault := t.bankFault }
  | _ => t

/-- The instruction in a trap or interrupt location, read unmapped and unprotected at its Homespace address. A location
that no memory implements is taken as a processor detected fault of the sequence (log 10). -/
def entryWord (s : State) (loc : WordAddr) : Except Trap Word :=
  match locateReal s loc .read with
  | .error _ => .error (exceptionTrap 0b1111#4 (loc.extractLsb' 0 8))
  | .ok l =>
    match readLoc s l with
    | .ok w => .ok w
    | .error t => .error (insideEntry loc t)

/-- The fields of an instruction word as a memory reference. -/
def refOf (w : Word) : MR := ⟨bit w 0, field w 8 11, field w 12 14, field w 15 31⟩

/-- The 20-bit real address of an instruction in a trap or interrupt location, through its indirect word if bit 0 = 1
(R116). -/
def entryRealAddr (s : State) (w : Word) : Except Trap WordAddr :=
  let a : WordAddr := (field w 12 31).zeroExtend 22
  if bit w 0 then
    match locateReal s a .read with
    | .ok l =>
      match readLoc s l with
      | .ok d => .ok (extendedIndirect s d)
      | .error t => .error t
    | .error t => .error t
  else .ok a

/-- The effective doubleword address of an XPSD executed by an entry sequence (R116). -/
def entryAddress (s : State) (w : Word) : Except Trap Via :=
  if bit w 10 then
    match effWordAddr s (refOf w) alignDword with
    | .ok v => .ok (.virtual v)
    | .error t => .error t
  else
    match entryRealAddr s w with
    | .ok a => .ok (.real (a &&& 0x3FFFFE#22))
    | .error t => .error t

/-- The XPSD in a trap or interrupt location, executed by the entry sequence; a trap it meets comes with the state it
leaves (R523, R640, R647, R678). -/
def entryXpsd (s : State) (loc : WordAddr) (w : Word) (tsf : BitVec 8) (ra : Bool) : Except (Trap × State) State :=
  match entryAddress s w with
  | .error t => .error (insideEntry loc t, s)
  | .ok a =>
    match exchangePsd s s.psd a (bit w 8) (some (loc.extractLsb' 0 8)) tsf ra with
    | .error (t, s') => .error (insideEntry loc t, s')
    | .ok s' => .ok s'

/-- The traps whose TCC is ORed into the new condition code and may be added to the new address (R524). -/
def loadsTcc (loc : BitVec 8) : Bool :=
  loc == 0x40#8 || loc == 0x46#8 || loc == 0x48#8 || loc == 0x49#8 || loc == 0x4A#8 || loc == 0x4B#8 ||
    loc == 0x4C#8 || loc == 0x4D#8

/-- The additional operations of a trap XPSD on the new PSD (R524). `old` is the state the trap found, for the footnote
on real extended addressing. With bit 9 = 1 in a location whose trap loads no TCC the results are undefined: the new
instruction address is a free value (R524, U15, log 11). -/
def trapModify (old : State) (t : Trap) (w : Word) (s : State) : State :=
  if loadsTcc t.loc then
    let s1 := setCC (ccOf s ||| t.tcc) s
    if bit w 9 then
      let ia := if realExtended old && bit w 10
        then s1.psd.ia.extractLsb' 16 1 ++ (s1.psd.ia.extractLsb' 0 16 + t.tcc.zeroExtend 16)
        else s1.psd.ia + t.tcc.zeroExtend 17
      { s1 with psd := { s1.psd with ia := ia } }
    else s1
  else if bit w 9 then
    { s with psd := { s.psd with ia := freeValue 17 s.free }, free := s.free + 1 }
  else s

/-- The bit of the processor fault status register, bits 24-29 of the polled word (49_input_output R600). -/
def CpuFault.statusBit : CpuFault → BitVec 6
  | .instructionException => 0b100000#6
  | .dataBus => 0b010000#6
  | .memoryParity => 0b001000#6
  | .watchdog => 0b000100#6
  | .mapParity => 0b000010#6

/-- A memory-detected fault noted by its bank (R659, R682); bit 13 of status word 0 is a free value (R535, log 15). -/
def noteBankFault (f : Option (Word × WordAddr)) (s : State) : State :=
  match f with
  | none => s
  | some (bits, a) =>
    { s with
      banks := updateBanks (Bank.noteFault bits a (freeValue 1 s.free == 1#1)) a s.banks
      free := s.free + 1 }

/-- The entry sequence of a trap proper: the XPSD in its location, or the trap that the sequence itself meets, which the
next step takes (R640, R646, R647, log 9). That second trap, X'4D' for a location that holds no XPSD among them, stores the
RA of the sequence (0 unless its XPSD has stored the old PSD), not the RA of the first trap, of which the spec is silent
(DESIGN CHOICE, log 31). -/
def trapSequence (t : Trap) (s : State) : State :=
  match entryWord s (t.loc.zeroExtend 22) with
  | .error t' => { s with pend := .trap t' }
  | .ok w =>
    if opOf w = 0x0F#7 then
      match entryXpsd s (t.loc.zeroExtend 22) w t.tsf t.ra with
      | .error (t', s') => { s' with pend := .trap t' }
      | .ok s' => trapModify s t w s'
    else { s with pend := .trap (exceptionTrap 0b1100#4 t.loc) }

/-- The CPU has detected a parity error of memory or of the memory bus, at which the MEMORY FAULT switch can stop it
(R716). -/
def Trap.stopsClock (t : Trap) : Bool :=
  t.bankFault.isSome || t.fault == some .memoryParity || t.fault == some .dataBus

/-- TAKING A TRAP (R640). TCC is loaded (R66); a memory-detected fault is noted by its bank; with the MEMORY FAULT switch
in HALT a parity error stops the CPU there, the trap pending (R716, log 42); a trap of the PDF class sets PDF and its
fault status bit, or hangs the CPU just before its XPSD when PDF is already set (R664); then the entry sequence. -/
def enterTrap (t : Trap) (s : State) : State :=
  let s1 := noteBankFault t.bankFault { s with
    tcc := t.tcc, jumped := true, completed := false, stale := none, pend := .none }
  if s.inst.memoryFaultHalt && t.stopsClock then { s1 with halt := .memoryFault, pend := .trap { t with bankFault := none } }
  else match t.fault with
  | none => trapSequence t s1
  | some f =>
    if s1.pdf then { s1 with halt := .hung, pfiGenerated := true }
    else trapSequence t { s1 with pdf := true, faultStatus := s1.faultStatus ||| f.statusBit }

/-- A parity error that ANLZ reports instead of trapping: noted by its bank, and with the MEMORY FAULT switch in HALT the CPU
stops after it (R264, R716). -/
def reportBankFault (f : Option (Word × WordAddr)) (s : State) : State :=
  let s1 := noteBankFault f s
  if s.inst.memoryFaultHalt && f.isSome then { s1 with halt := .memoryFault } else s1

/-- A meaning run to its outcome: a trap is taken, a fault stops the machine. -/
def run (a : Act Unit) (s : State) : Host.Outcome State Fault Refusal :=
  match a s with
  | .ok _ s' => .next s'
  | .error (.trap t) s' => .next (enterTrap t s')
  | .error (.fault f) _ => .fault f

/-! ### Interrupt entry (R678-R681) -/

/-- Where a counter's operand lies, with no protection or lock test (R679, R680). -/
def locateUnprotected (s : State) (v : WordAddr) : Except Trap Loc :=
  if v.toNat < 16 then .ok (.reg (v.extractLsb' 0 4))
  else if memExists s (homespaceBias s (actualAddr s v)) then .ok (.mem (homespaceBias s (actualAddr s v)))
  else .error (storageTrap true false 0)

/-- A real location with no lock test: register addresses name memory here (R680). -/
def locateRealUnprotected (s : State) (a : WordAddr) : Except Trap Loc :=
  if memExists s (homespaceBias s a) then .ok (.mem (homespaceBias s a)) else .error (storageTrap true false 0)

/-- The indirect word of a counter 4 instruction, read with no protection test (R680). -/
def readUnprotected (s : State) (v : WordAddr) : Except Trap Word :=
  match locateUnprotected s v with
  | .ok l => readLoc s l
  | .error t => .error t

/-- The location and the byte within it that an MTB, MTH or MTW in an interrupt location modifies (R680). -/
def counterOperand (s : State) (loc : WordAddr) (w : Word) (align : Nat) : Except Trap (Loc × BitVec 2) :=
  if loc = 0x55#22 then
    match refAddrWith (readUnprotected s) s (refOf w) with
    | .error t => .error t
    | .ok ref =>
      let b := indexed s (refOf w) align ref
      match locateUnprotected s (wordOf b) with
      | .ok l => .ok (l, b.extractLsb' 0 2)
      | .error t => .error t
  else
    match entryRealAddr s w with
    | .error t => .error t
    | .ok a =>
      match locateRealUnprotected s a with
      | .ok l => .ok (l, 0#2)
      | .error t => .error t

/-- The modified word and whether the modified operand is zero, for the width that the operation code of a
modify-and-test instruction says: X'73' byte, X'53' halfword, else word (R679). -/
def counterResult (op : BitVec 7) (k : BitVec 2) (r : BitVec 4) (w : Word) : Word × Bool :=
  if op = 0x73#7 then
    let v := byteOf w k + r.signExtend 8
    (withByte w k v, v == 0)
  else if op = 0x53#7 then
    let v := halfOf w (k.extractLsb' 1 1) + r.signExtend 16
    (withHalf w (k.extractLsb' 1 1) v, v == 0)
  else (w + r.signExtend 32, w + r.signExtend 32 == 0)

/-- The index alignment of a modify-and-test operation code. -/
def counterAlign (op : BitVec 7) : Nat :=
  if op = 0x73#7 then alignByte else if op = 0x53#7 then alignHalf else alignWord

/-- The counter-equals-zero level of a count-pulse level (R681). -/
def counterZeroLevel (l : Level) : Option Level :=
  match l.group with
  | .internal => if h : l.bit.val < 4 then some ⟨.internal, ⟨l.bit.val + 6, by omega⟩⟩ else none
  | _ => none

/-- The single-instruction interrupt (R679): the operand is modified with no protection or lock test, the level is
cleared and armed, and a zero result of a count pulse signals the counter-equals-zero level. -/
def singleInstruction (l : Level) (w : Word) (s : State) : Except Trap State :=
  match counterOperand s l.loc w (counterAlign (opOf w)) with
  | .error t => .error t
  | .ok (at_, k) =>
    match readLoc s at_ with
    | .error t => .error t
    | .ok v =>
      let res := counterResult (opOf w) k (field w 8 11) v
      let s1 := if field w 8 11 = 0#4 then s else writeLoc at_ res.1 s
      let s2 := { s1 with ints := updateGroup s1.ints l.group (IntGroup.arm (levelMask l.bit)) }
      .ok (match counterZeroLevel l with
        | some z => if res.2 then signalLevel z s2 else s2
        | none => s2)

/-- The entry sequence of an interrupt whose level is active (R678). -/
def interruptSequence (l : Level) (s : State) : State :=
  let tsf : BitVec 8 := l.loc.extractLsb' 0 8
  match entryWord s l.loc with
  | .error t => { s with pend := .trap t }
  | .ok w =>
    if opOf w = 0x0F#7 then
      match entryXpsd s l.loc w 0 false with
      | .error (t, s') => { s' with pend := .trap t }
      | .ok s' => s'
    else if opOf w = 0x73#7 || opOf w = 0x53#7 || opOf w = 0x33#7 then
      match singleInstruction l w s with
      | .error t => { s with pend := .trap { exceptionTrap 0b1111#4 tsf with bankFault := t.bankFault } }
      | .ok s' => s'
    else { s with pend := .trap (exceptionTrap 0b1100#4 tsf) }

/-- TAKING AN INTERRUPT (R678): the level becomes active, the wait state ends (R689), and the instruction in the
interrupt location is executed. -/
def enterInterrupt (l : Level) (s : State) : State :=
  interruptSequence l
    { s with
      ints := updateGroup s.ints l.group (IntGroup.acknowledge (levelMask l.bit))
      halt := .none
      completed := true
      stale := none }

/-- The outcome of a meaning. -/
abbrev Result := Host.Outcome State Fault Refusal

/-! ### Tests that instructions share -/

/-- The privileged-instruction test, at decode (R652). -/
def requireMaster : Act Unit := fun s =>
  if s.psd.ms then .error (.trap { loc := 0x40#8, tcc := 0b0010#4 }) s else .ok () s

/-- The nonexistent-instruction trap (R650). -/
def nonexistentTrap : Trap where
  loc := 0x40#8
  tcc := 0b1000#4

/-- A part of an instruction that has altered something already: a trap it raises has RA = 1 (R667). -/
def onceAltered {α : Type} (altered : Bool) (a : Act α) : Act α := if altered then altering a else a

/-- Register `d` is named both by the run of `n` registers from `r` and by the `n` addresses from `v` (U1, U2). -/
def inOverlap (s : State) (v : WordAddr) (r : BitVec 4) (n : Nat) (d : BitVec 4) : Bool :=
  decide ((wrapWord s (d.zeroExtend 22 - v)).toNat < n) && decide ((d - r).toNat < n)

/-- Free values in the registers of the overlap among the registers below `k` (U1, U2, log 12). -/
def freeOverlap (v : WordAddr) (r : BitVec 4) (n : Nat) : Nat → Act Unit
  | 0 => pure ()
  | k + 1 => do
    freeOverlap v r n k
    if ← look (fun s => inOverlap s v r n (BitVec.ofNat 4 k)) then
      let w ← draw 32
      change (setReg (BitVec.ofNat 4 k) w)
    else pure ()

/-- The invalid register designation trap: no PDF (R662). -/
def registerTrap : Trap where
  loc := 0x4D#8
  tcc := 0b0001#4

/-- A doubleword instruction that traps on an odd R field (R662). -/
def requireEven (r : BitVec 4) : Act Unit := fun s =>
  if oddR r then .error (.trap registerTrap) s else .ok () s

/-- The decimal unit: on Model 3 the decimal instructions are nonexistent (D2); with the unit absent or overridden they
are unimplemented (R179, R654). -/
def requireDecimal : Act Unit := fun s =>
  if s.inst.model == .model3 then .error (.trap nonexistentTrap) s
  else if s.inst.decimalUnit == .present then .ok () s
  else .error (.trap { loc := 0x41#8 }) s

/-- The byte-string instructions other than EBS: nonexistent on Model 3 (D2). -/
def requireByteString : Act Unit := fun s =>
  if s.inst.model == .model3 then .error (.trap nonexistentTrap) s else .ok () s

end Sys2Proof.Machine
end

