-- ==== Sys2Proof/Machine/Events.lean ====
section
/-! DEFINITION. The external events of 00_scope R27 and what each does to the state (60_exceptions R664-R666, R681-R686; 70
R700-R716). -/

namespace Sys2Proof.Machine

open Sys2Proof Sys2Proof.Config

/-- CPU RESET (R77): every level disarmed and disabled (power on and off stay armed and enabled, R63), ALARM off, the PSD
zero but for IA = X'26', the wait state; PDF, the fault status, a hung state, a MEMORY FAULT halt and the snapshot's armed
flag cleared, and the PFI-generated flag with them (DESIGN CHOICE, log 37). What R78 lists keeps its value. -/
def cpuReset (s : State) : State :=
  { s with
    psd := Psd.reset
    ints := Interrupts.reset
    pdf := false
    faultStatus := 0
    pfiGenerated := false
    snapArmed := false
    alarm := false
    halt := .waiting
    pend := .none
    jumped := true
    completed := false
    stale := none
    stoppedAt := none }

/-- I/O RESET: the request line falls; the CPU is not affected (R712). -/
def ioReset (s : State) : State := { s with ioLine := false }

/-- The reset of this CPU by another processor's RIO (R666), hung or not (D32). -/
def rioReset (s : State) : State :=
  { s with
    psd := Psd.reset
    pdf := false
    faultStatus := 0
    pfiGenerated := false
    compute := .run
    halt := .none
    pend := .none
    jumped := true
    completed := false
    stale := none
    stoppedAt := none }

/-- Memory of any value: `n` bytes from the byte address `lo` on, each a free value (index `f` plus its address) where a bank
implements it. -/
def anyMemory (s : State) (f lo : Nat) : Nat → Memory
  | 0 => []
  | n + 1 =>
    if memExists s (BitVec.ofNat 22 (lo / 4)) && freeValue 8 (f + lo) != unwritten
    then (lo, freeValue 8 (f + lo)) :: anyMemory s f (lo + 1) n
    else anyMemory s f (lo + 1) n

/-- Words of bad parity after power-up: any of the words that a bank implements. -/
def anyParity (s : State) (f : Nat) : List Nat :=
  (List.range 4194304).filter (fun a => memExists s (BitVec.ofNat 22 a) && freeValue 1 (f + a) == 1#1)

/-- A bank's status of any value (D7): its fault bits, clock margins, address snapshot or what is read in its place, and its
fault signal; how it is configured stays. -/
def anyStatus (f : Nat) (b : Bank) : Bank :=
  { b with
    faults := freeValue 32 f &&& 0x7F8C0000#32
    margins := freeValue 5 (f + 1)
    snap := if freeValue 1 (f + 2) = 1#1 then some (freeValue 22 (f + 3)) else none
    sw2Idle := freeValue 22 (f + 4)
    mfi := freeValue 1 (f + 5) == 1#1 }

/-- The status of the banks after power-up, six free values for each. -/
def anyBanks (f : Nat) : List Bank → List Bank
  | [] => []
  | b :: rest => anyStatus f b :: anyBanks (f + 6) rest

/-- How many free values the memory and its parity take. -/
def memoryDraws : Nat := 16777216 + 4194304

/-- Power-up: the values of CPU RESET; everything that R78 and D7 list is a free value, main memory and memory status among
it, and so is the I/O request line (R700); with COMPUTE in RUN the power-on level is signalled (R685, R703, D7, D23, U22,
log 25). -/
def powerUp (s : State) : State :=
  let f := s.free
  let s1 := cpuReset s
  let g := f + 838 + memoryDraws
  let s2 : State :=
    { s1 with
      mem := anyMemory s (f + 838) 0 16777216
      badParity := anyParity s (f + 838 + 16777216)
      banks := anyBanks g s.banks
      ioLine := freeValue 1 (f + 837) == 1#1
      regs := Vector.ofFn (fun i => freeValue 32 (f + i.val))
      map := Vector.ofFn (fun i => freeValue 13 (f + 64 + i.val))
      acc := Vector.ofFn (fun i => freeValue 2 (f + 320 + i.val))
      lock := Vector.ofFn (fun i => freeValue 2 (f + 576 + i.val))
      snapControl := freeValue 32 (f + 832)
      snapSample := freeValue 32 (f + 833)
      pcf := freeValue 1 (f + 834) == 1#1
      clockMargin := freeValue 2 (f + 835)
      tcc := freeValue 4 (f + 836)
      free := g + 6 * s.banks.length }
  if s.compute = .run then signalLevel ⟨.power, 0⟩ s2 else s2

/-- The bootstrap words of locations X'22' to X'2B' (R722). -/
def bootstrap (s : State) (u : BitVec 13) : List Word :=
  let b : Word := s.inst.homespaceBias.zeroExtend 32
  [0x22110029#32, 0x64100023#32, 0x68000028#32, u.zeroExtend 32, 0x22000015#32 + (b <<< 13), 0xCC000025#32,
    0xCD000025#32, 0x69C00022#32, 0x020000A8#32 + (b <<< 16), 0x0E000058#32]

/-- A word put into a real location by the panel or by another agent: no lock, no map; nothing where no memory is. -/
def putReal (a : WordAddr) (w : Word) (s : State) : State :=
  if memExists s a then writeLoc (.mem a) w s else s

/-- Successive Homespace words stored from location `a` on (R721). -/
def putHomespace : WordAddr → List Word → State → State
  | _, [], s => s
  | a, w :: rest, s => putHomespace (a + 1) rest (putReal (homespaceBias s a) w s)

/-- STORE: the SELECT ADDRESS switches give an actual address of 22 bits, or with the map on a virtual address, which the
mode bits modify (log 40); 0-15 names a general register; protection is ignored (R714). -/
def panelStore (v : WordAddr) (w : Word) (s : State) : State :=
  let v := if s.psd.mm then wrapWord s v else v
  if v.toNat < 16 then setReg (v.extractLsb' 0 4) w s else putReal (homespaceBias s (actualAddr s v)) w s

/-- INSERT PSW2: the fields of the second PSD word (R714). The register pointer is loaded untested, whatever block it names
(DESIGN CHOICE, log 40). -/
def insertPsw2 (w : Word) (s : State) : State :=
  { s with psd := { s.psd with
      wk := field w 2 3
      ci := bit w 5
      ii := bit w 6
      ei := bit w 7
      ma := bit w 8
      ea := field w 10 15
      rp := field w 24 27 } }

/-- A switch moved (R73, R714-R716). The MEMORY FAULT switch set to CONT ends the halt it has made. -/
def moveSwitch (v : SwitchSetting) (s : State) : State :=
  match v with
  | .sense x => { s with inst := { s.inst with sense := x } }
  | .decimalOverride on =>
    if s.inst.decimalUnit = .absent then s
    else { s with inst := { s.inst with decimalUnit := if on then .overridden else .present } }
  | .watchdogOverride on => { s with inst := { s.inst with watchdogOverride := on } }
  | .powerNormal on => { s with inst := { s.inst with powerNormal := on } }
  | .homespaceBias x => { s with inst := { s.inst with homespaceBias := x } }
  | .memoryFaultHalt on =>
    { s with
      inst := { s.inst with memoryFaultHalt := on }
      halt := if !on && s.halt == .memoryFault then .none else s.halt }
  | .addressHold on => { s with inst := { s.inst with addressHold := on } }
  | .addressStop x => { s with stopSwitches := x }

/-- The CPU executes instructions (R72 `running`). -/
def running (s : State) : Bool := s.compute != .idle && s.halt == .none

/-- The trap of the first-phase watchdog runout: TCC1 (R657). -/
def runoutTrap : Trap where
  loc := 0x46#8
  tcc := 0b1000#4
  fault := some .watchdog

/-- A running CPU at a boundary at which no trap but a first-phase runout is pending. -/
def canInject (s : State) : Bool := running s && (s.pend == .none || s.pend == .trap runoutTrap)

/-- A hardware fault injected into a running CPU: its trap is taken at this boundary (R659, D25). The first one stands, but
a first-phase runout gives way to any other, in whichever order they come (R657, U19). -/
def injectTrap (t : Trap) (s : State) : State := if canInject s then { s with pend := .trap t } else s

/-- The first-phase watchdog trap is inhibited while PDF is set, while power on or off is waiting or active, and with the
timer overridden (R657). -/
def watchdogInhibited (s : State) : Bool :=
  s.pdf || s.ints.power.wa != 0 || s.inst.watchdogOverride

/-- A first-phase runout is taken: the timer is not inhibited, and it is of an instruction that has completed with no trap
of its own and with none pending (R657, U19). -/
def firstPhaseCounts (s : State) : Bool := !watchdogInhibited s && s.completed && s.pend == .none

/-- The memory never answers the CPU: the watchdog trap with TCC3, the instruction address that it stores being a free value,
since the return address is not valid then (R657); with the timer overridden the CPU stays there until a reset (log 21). -/
def memoryBusHangs (altered : Bool) (s : State) : State :=
  if !canInject s then s
  else if s.inst.watchdogOverride then { s with halt := .hung, pend := .none }
  else injectTrap { loc := 0x46#8, tcc := 0b0010#4, ra := altered, fault := some .watchdog }
    { s with psd := { s.psd with ia := freeValue 17 s.free }, free := s.free + 1 }

/-- The halt conditions that COMPUTE in IDLE clears: the wait and the ADDRESS STOP halt (R710), not a hung state (R664) nor a
MEMORY FAULT halt (R716). -/
def clearedHalt : Halt → Halt
  | .hung => .hung
  | .memoryFault => .memoryFault
  | _ => .none

/-- The CPU stands still until a reset, an RIO or the MEMORY FAULT switch: hung (R664) or its clock stopped (R716). -/
def stopped (s : State) : Bool := s.halt == .hung || s.halt == .memoryFault

/-- A memory fault that a memory unit notes (R535, R537, R682); bit 13 of status word 0 is a free value. The loop check and
the temperature or power faults (status bits 5 and 7), which are not among the six conditions of R659 and R682, raise the
memory fault interrupt signal like them and take the address snapshot (DESIGN CHOICE, log 27). -/
def memoryNotes (k : MemoryFault) (a : WordAddr) (s : State) : State := noteBankFault (some (k.statusBit, a)) s

/-- An action that the panel takes only with COMPUTE in IDLE (R73, R714). -/
def whenIdle (f : State → State) (s : State) : State := if s.compute = .idle then f s else s

/-- What an event does (R27). STEP of a CPU that stands still executes nothing, and the switch is momentary, so that it is idle
as before (R710). -/
def applyEvent (e : Event) (s : State) : State :=
  match e with
  | .countPulse n => signalLevel ⟨.internal, n.castLE (by decide)⟩ s
  | .externalLine g k => signalLevel ⟨.external g, k⟩ s
  | .ioLine up => { s with ioLine := up }
  | .processorFault => signalLevel levelProcessorFault s
  | .memoryFault k a => memoryNotes k a s
  | .interruptButton => signalLevel levelPanel s
  | .powerOff => signalLevel ⟨.power, 1⟩ s
  | .powerOn => powerUp s
  | .rioReset => rioReset s
  | .polled => { s with faultStatus := 0, pfiGenerated := false }
  | .idle => { s with compute := .idle, halt := clearedHalt s.halt }
  | .run => whenIdle (fun s => { s with compute := .run, halt := clearedHalt s.halt }) s
  | .stepOne => whenIdle (fun s => if stopped s then s else { s with compute := .step, halt := clearedHalt s.halt }) s
  | .cpuReset => whenIdle cpuReset s
  | .ioReset => ioReset s
  | .sysReset => whenIdle (fun s => ioReset (cpuReset s)) s
  | .memoryClear => whenIdle (fun s => { s with mem := [], badParity := [] }) s
  | .load u => whenIdle (fun s => putHomespace 0x22#22 (bootstrap s u) s) s
  | .insert1 w => whenIdle (fun s => { s with psd := loadPsd1 w s.psd }) s
  | .insert2 w => whenIdle (insertPsw2 w) s
  | .store a w => whenIdle (panelStore a w) s
  | .incrementAddress => whenIdle (fun s => { s with psd := { s.psd with ia := incrementedIa s } }) s
  | .snapEnter w => whenIdle (fun s => { s with snapControl := w, snapArmed := true }) s
  | .switch v => moveSwitch v s
  | .agentStore a w => putReal a w s
  | .mapParity => injectTrap { loc := 0x4C#8, tcc := 0b0100#4, fault := some .mapParity } s
  | .dataBusCheck => injectTrap { loc := 0x4C#8, tcc := 0b0010#4, fault := some .dataBus } s
  | .memoryParity k a => injectTrap (parityTrap k.statusBit a) s
  | .memoryBusHang altered => memoryBusHangs altered s
  | .watchdogPhase1 => if firstPhaseCounts s then injectTrap runoutTrap s else s

/-- The events of one boundary, in order. -/
def applyEvents : List Event → State → State
  | [], s => s
  | e :: rest, s => applyEvents rest (applyEvent e s)

/-- The level lines: while the I/O request line is up it signals X'5C', while a bank's memory fault signal is up it
signals X'57' (R682, R683). -/
def levelLines (s : State) : State :=
  let s1 := if s.ioLine then signalLevel levelIo s else s
  if s1.banks.any (fun b => b.mfi) then signalLevel levelMemoryFault s1 else s1

/-- The events that come before this step, and the lines they leave up. -/
def takeInputs (s : State) : State :=
  match s.inputs with
  | [] => levelLines s
  | now :: later => levelLines (applyEvents now { s with inputs := later })

end Sys2Proof.Machine
end

