-- ==== Sys2Proof/Machine/Cycle.lean ====
section
/-! DEFINITION. The instruction cycle around the execution of one instruction: fetch, the traps of decoding, what is
pending at an instruction boundary (47 R490, 60 R642, R687, R691; 70 R735). -/

namespace Sys2Proof.Machine

open Sys2Proof Sys2Proof.Config

/-- The privileged instructions (30_encoding R178). -/
def privileged : Instr → Bool
  | .lpsd _ | .xpsd _ | .lra _ | .lms _ | .wait _ | .lrp _ | .sio _ | .tio _ | .tdv _ | .hio _ | .rio _ | .polp _
  | .polr _ | .rd _ | .wd _ | .aio _ | .mmc _ => true
  | _ => false

/-- The decimal and byte-string instructions, which Model 3 does not have (R2, D2). -/
def notOnModel3 : Instr → Bool
  | .pack _ | .unpk _ | .ds _ | .da _ | .dd _ | .dm _ | .dsa _ | .dc _ | .dl _ | .dst _ | .ttbs _ | .tbs _ | .cbs _
  | .mbs _ | .ebs _ => true
  | _ => false

/-- The trap of a word that is no instruction (R650, R653). -/
def decodeErrorTrap (s : State) : DecodeError → Trap
  | .unassigned privileged => { nonexistentTrap with tcc := if privileged && s.psd.ms then 0b1010#4 else 0b1000#4 }
  | .truncated => nonexistentTrap
  | .indirectImmediate => nonexistentTrap

/-- The trap to X'40' that decoding a word gives, if it gives one (R642 step 2). -/
def decodeTrap (s : State) (w : Word) : Option Trap :=
  match decodeWord w with
  | .error e => some (decodeErrorTrap s e)
  | .ok i =>
    if privileged i && s.psd.ms then some { loc := 0x40#8, tcc := 0b0010#4 }
    else if notOnModel3 i && s.inst.model == .model3 then some nonexistentTrap
    else none

/-- `Fetch()` (R115): the word at `pc`, an instruction access. -/
def fetchWord (s : State) : Except Trap Word :=
  match locate s (pc s) .fetch with
  | .ok l => readLoc s l
  | .error t => .error t

/-- The next instruction is the register that the last one altered: old or new content is a free choice (R735, U3). -/
def staleNow (s : State) : Option Word :=
  match s.stale with
  | none => none
  | some (n, old) => if pc s = n.zeroExtend 22 then some old else none

/-- The word that executes when the word fetched is `w` (R735, log 19). -/
def chosenWord (s : State) (w : Word) : Word :=
  match staleNow s with
  | none => w
  | some old => if freeValue 1 s.free = 1#1 then old else w

/-- The state in which the fetched instruction executes: the choice of R735 is drawn, and no sequence change is noted
yet. -/
def startInstruction (s : State) : State :=
  { s with
    free := if (staleNow s).isSome then s.free + 1 else s.free
    stale := none
    stoppedAt := none
    jumped := false
    completed := true }

/-- The armed snapshot fires: PSD bits 15-31 equal the address field of its control register; the sample is a free
value, and with the interrupt flag the control panel level is signalled (R553, R691, U12). The point of the instruction at
which it fires is its start, before its fetch is tested (DESIGN CHOICE, log 39). -/
def fireSnapshot (s : State) : State :=
  if s.snapArmed && s.psd.ia == field s.snapControl 15 31 then
    let s1 := { s with snapSample := freeValue 32 s.free, free := s.free + 1, snapArmed := false }
    if bit s.snapControl 8 then signalLevel levelPanel s1 else s1
  else s

/-- The hazard of R735 noted after an instruction taken from register `n`: it altered register n + 1 of the block it ran
in (U3; log 19). -/
def noteStale (before after : State) : State :=
  let n := (pc before).extractLsb' 0 4
  if (pc before).toNat < 15 && after.psd.rp == before.psd.rp && getReg after (n + 1#4) != getReg before (n + 1#4)
  then { after with stale := some (n + 1#4, getReg before (n + 1#4)) } else after

/-- With COMPUTE in STEP the machine is idle again after the one instruction and the trap entry it may have caused, or when
the MEMORY FAULT switch has stopped it before that entry (R710, R716). -/
def settle (s : State) : State :=
  if s.compute = .step && (s.pend == .none || s.halt == .memoryFault) then { s with compute := .idle } else s

/-- The trap of the next instruction's fetch or decode that comes before a waiting interrupt (R642, D49). -/
def anticipatedTrap (s : State) : Option Trap :=
  if s.jumped then none
  else match fetchWord s with
    | .error t => if t.loc = 0x40#8 then some t else none
    | .ok w => decodeTrap s (chosenWord s w)

/-- The ADDRESS STOP switches in INSTR match the address of the next instruction: the 17 least significant SELECT ADDRESS
switches, with PAGE all but the last nine of them. Not while the snapshot is armed, and not for the instruction at which the
halt has been made already (R715, log 42). In real extended addressing the 17 bits compared are the low ones of the 22-bit
address, not PSD bits 15-31 (ES and the displacement): R715 does not say which are the instruction's virtual address (DESIGN
CHOICE, log 42). -/
def stopsHere (s : State) : Bool :=
  let difference : BitVec 17 := (pc s ^^^ s.stopSwitches.select).extractLsb' 0 17
  s.stopSwitches.mode == .instr && !s.snapArmed && s.stoppedAt != some (pc s) &&
    (if s.stopSwitches.page then difference.extractLsb' 9 8 == 0 else difference == 0)

/-- What an instruction boundary does before an instruction is fetched. -/
inductive Boundary where
  /-- Nothing happens (idle, halted, waiting with no interrupt). -/
  | rest
  | trap (t : Trap)
  | interrupt (l : Level)
  | instruction
  /-- The ADDRESS STOP halt instead of the next instruction (R715). -/
  | stop
deriving DecidableEq, Repr

/-- What comes next at an instruction boundary: no interrupt is taken in the idle, address stop and hung states and while
stepping; the wait state ends at an interrupt only (R687, R689, R710). Two points the spec leaves open. The interrupt that
ends a wait is taken without the anticipated-trap test of the instruction after the WAIT (R642, R678, R689; DESIGN CHOICE, log
28). An interrupt that waits when COMPUTE returns to RUN after an ADDRESS STOP halt comes before the displayed instruction, as
at any boundary (R687), although R715 calls that instruction the next one executed; in INSTR the halt is then made again when
the handler returns to it (DESIGN CHOICE, log 42). -/
def boundary (s : State) : Boundary :=
  match s.compute, s.halt with
  | .idle, _ => .rest
  | _, .hung => .rest
  | _, .addressStop => .rest
  | _, .memoryFault => .rest
  | .step, _ => .instruction
  | .run, .waiting =>
    match nextInterrupt s with
    | some l => .interrupt l
    | none => .rest
  | .run, .none =>
    match nextInterrupt s with
    | some l =>
      match anticipatedTrap s with
      | some t => .trap t
      | none => .interrupt l
    | none => if stopsHere s then .stop else .instruction

/-! ### ADDRESS STOP in MEM REF (R715) -/

/-- The outcome with its next state changed. -/
def mapNext (f : State → State) (o : Host.Outcome State Fault Refusal) : Host.Outcome State Fault Refusal :=
  match o with
  | .next s => .next (f s)
  | .fault r => .fault r
  | .refused r => .refused r

/-- The real words that the SELECT ADDRESS switches name: one, or with PAGE the 512 of its page (R715). -/
def selectedWords (s : State) : List Nat :=
  if s.stopSwitches.page then (List.range 512).map (s.stopSwitches.select.toNat / 512 * 512 + ·)
  else [s.stopSwitches.select.toNat]

/-- The parity of the words `ws` inverted. -/
def invertParity (ws : List Nat) (s : State) : State :=
  { s with badParity := ws.filter (!s.badParity.contains ·) ++ s.badParity.filter (!ws.contains ·) }

/-- The same state, the list of words of bad parity being read as a set. -/
def alike (s t : State) : Bool :=
  decide ({ s with badParity := [] } = { t with badParity := [] }) && s.badParity.all (t.badParity.contains ·) &&
    t.badParity.all (s.badParity.contains ·)

/-- No bank has a fault noted, so that each is ready to take the address of the next one (R537). -/
def faultsCleared (s : State) : State :=
  { s with banks := s.banks.map (fun b => { b with faults := 0, snap := none }) }

/-- The activity `f` of the CPU reads or stores one of the words `ws`: it goes otherwise when their parity is inverted, since
a read of bad parity traps or is reported (R659, R534) and a store makes the parity good (R132). Both trials begin with no
fault noted, so that a trap of bad parity elsewhere, at which both end, shows another address in its bank. LMS with a reserved
condition code, which the memory takes as a read-type instruction (R537), is no such access here: R715 does not say whether
MEM REF stops at it (DESIGN CHOICE, log 42). -/
def accesses (f : State → Host.Outcome State Fault Refusal) (ws : List Nat) (s : State) : Bool :=
  match f (faultsCleared s), f (invertParity ws (faultsCleared s)) with
  | .next a, .next b => !alike a (invertParity ws b)
  | .fault _, .fault _ => false
  | .refused _, .refused _ => false
  | _, _ => true

/-- The activity `f` stores into one of the words `ws`: they are put on watch, and a store takes a word off. That
LMS 0010, which restores the word with bad parity (R534), is no store here, nor a partial write that the memory refuses for
bad parity (R659), is a DESIGN CHOICE (log 42). -/
def storesInto (f : State → Host.Outcome State Fault Refusal) (ws : List Nat) (s : State) : Bool :=
  match f { s with watch := ws } with
  | .next t => t.watch != ws
  | .fault _ => false
  | .refused _ => false

/-- The ADDRESS STOP switches are in MEM REF, COMPUTE is in RUN and the snapshot is not armed (R715). -/
def watchesReferences (s : State) : Bool :=
  s.stopSwitches.mode == .memRef && s.compute == .run && !s.snapArmed

/-- The activity `f` makes a memory reference at which the switches stop: with WRT a store, else any access (R715). -/
def meetsSwitches (f : State → Host.Outcome State Fault Refusal) (s : State) : Bool :=
  watchesReferences s &&
    (if s.stopSwitches.write then storesInto f (selectedWords s) s else accesses f (selectedWords s) s)

/-- The ADDRESS STOP halt at the end of an activity; a stopped CPU clock stays as it is. -/
def haltAtReference (s : State) : State :=
  match s.halt with
  | .hung => s
  | .memoryFault => s
  | _ => { s with halt := .addressStop }

/-- An activity of the CPU, an instruction, a trap entry or an interrupt entry, with the ADDRESS STOP halt after it if it
makes such a reference; one that has been made by an EXU holds for its subject (R715, log 42). -/
def withReferenceStop (f : State → Host.Outcome State Fault Refusal) (s : State) : Host.Outcome State Fault Refusal :=
  if s.halt == .addressStop || meetsSwitches f s then mapNext haltAtReference (f s) else f s

end Sys2Proof.Machine
end

