-- ==== Sys2Proof/Machine/Branch.lean ====
section
/-! DEFINITION. Execute, branch and call instructions (47_execute_branch_call). -/

namespace Sys2Proof.Machine

open Sys2Proof

/-- `BranchTargetTest(EWA)`: an instruction access to the target, registers excepted (R492). -/
def branchTargetTest (s : State) (v : WordAddr) : Except Trap Unit := testAccess s v .fetch

/-- The instruction address of a branch target: in real extended addressing a target outside the first 64K loads EA and
sets ES, one inside it clears ES (R491). -/
def branchTo (v : WordAddr) (s : State) : State :=
  if realExtended s then
    if v.extractLsb' 16 6 = 0#6 then
      { s with psd := { s.psd with ia := 0#1 ++ v.extractLsb' 0 16 }, jumped := true }
    else
      { s with psd := { s.psd with ia := 1#1 ++ v.extractLsb' 0 16, ea := v.extractLsb' 16 6 }, jumped := true }
  else { s with psd := { s.psd with ia := v.extractLsb' 0 17 }, jumped := true }

/-- A branch that is taken if `taken`: only then is its indirect word read and its target tested (R491, R492, D43). The
register change `reg` is made after the test, with the branch or without it. -/
def branchIf (taken : Bool) (m : MR) (reg : State → State) : Act Unit :=
  if taken then do
    let v ← need (effWordAddr · m alignWord)
    need (branchTargetTest · v)
    change (fun s => branchTo v (reg s))
  else do
    change reg
    done

/-- EXU (R493): the subject instruction is fetched by an instruction access and executed next, at the address of the EXU
(log 8). -/
def execExu (m : MR) (s : State) : Result := run (do
  let v ← need (effWordAddr · m alignWord)
  let l ← need (locate · v .fetch)
  let w ← need (readLoc · l)
  change (fun s => { s with pend := .subject w })) s

/-- BCS (R494). -/
def execBcs (m : MR) (s : State) : Result := run (do
  let taken ← look (fun s => ccOf s &&& m.r != 0)
  branchIf taken m id) s

/-- BCR (R495). -/
def execBcr (m : MR) (s : State) : Result := run (do
  let taken ← look (fun s => ccOf s &&& m.r == 0)
  branchIf taken m id) s

/-- BIR (R496). -/
def execBir (m : MR) (s : State) : Result := run (do
  let v ← look (fun s => getReg s m.r + 1#32)
  branchIf v.msb m (setReg m.r v)) s

/-- BDR (R497). -/
def execBdr (m : MR) (s : State) : Result := run (do
  let v ← look (fun s => getReg s m.r - 1#32)
  branchIf (!v.msb && v != 0) m (setReg m.r v)) s

/-- The link word of BAL: the address of the word after it, with the INSTR ADDR switch in HOLD as well (R498, log 42). -/
def linkWord (s : State) : Word :=
  if realExtended s then
    0#10 ++ (if s.psd.ia.getLsbD 16 then s.psd.ea else 0#6) ++ (incrementedIa s).extractLsb' 0 16
  else 0#15 ++ incrementedIa s

/-- BAL (R498): the effective address is formed first, the link register is loaded before the target is tested, and a
trap of that test has RA = 1. -/
def execBal (m : MR) (s : State) : Result := run (do
  let v ← need (effWordAddr · m alignWord)
  change (fun s => setReg m.r (linkWord s) s)
  altering (need (branchTargetTest · v))
  change (branchTo v)) s

/-- A CALL: its indirect word is read, and it traps as a completed instruction with the R field as TCC (R499, R661). -/
def call (loc : BitVec 8) (m : MR) : Act Unit := do
  let _ ← need (fun s => refAddrWith (readWord s) s m)
  done
  raise { loc := loc, tcc := m.r }

/-- CAL1 (R499). -/
def execCal1 (m : MR) (s : State) : Result := run (call 0x48#8 m) s

/-- CAL2 (R500). -/
def execCal2 (m : MR) (s : State) : Result := run (call 0x49#8 m) s

/-- CAL3 (R501). -/
def execCal3 (m : MR) (s : State) : Result := run (call 0x4A#8 m) s

/-- CAL4 (R502). -/
def execCal4 (m : MR) (s : State) : Result := run (call 0x4B#8 m) s

end Sys2Proof.Machine
end

