-- ==== Sys2Proof/Machine/LoadStore.lean ====
section
/-! DEFINITION. Load and store instructions (40_load_store). -/

namespace Sys2Proof.Machine

open Sys2Proof

/-- Register R loaded, CC3 CC4 by its sign (R210). -/
def loadWord (r : BitVec 4) (w : Word) (s : State) : State := signCC w (setReg r w s)

/-- R and Ru1 loaded, CC3 CC4 by the 64-bit value (R213). -/
def loadDword (r : BitVec 4) (d : Dword) (s : State) : State := signCC d (setRegPair r d s)

/-- LI (R220). -/
def execLi (i : Imm) (s : State) : Result := run (do
  change (loadWord i.r (immediate i))
  done) s

/-- LB (R221). -/
def execLb (m : MR) (s : State) : Result := run (do
  let b ← need (operandByte · m)
  change (loadWord m.r (b.zeroExtend 32))
  done) s

/-- LH (R222). -/
def execLh (m : MR) (s : State) : Result := run (do
  let h ← need (operandHalf · m)
  change (loadWord m.r (h.signExtend 32))
  done) s

/-- LW (R223). -/
def execLw (m : MR) (s : State) : Result := run (do
  let w ← need (operandWord · m)
  change (loadWord m.r w)
  done) s

/-- LD (R224). -/
def execLd (m : MR) (s : State) : Result := run (do
  let d ← need (operandDword · m)
  change (loadDword m.r d)
  done) s

/-- LCH (R225). -/
def execLch (m : MR) (s : State) : Result := run (do
  let h ← need (operandHalf · m)
  change (loadWord m.r (-(h.signExtend 32)))
  done) s

/-- The absolute value as a bit string: the two's complement of a negative number (R226, R228, R230). -/
def absolute {w : Nat} (v : BitVec w) : BitVec w := if v.msb then -v else v

/-- LAH (R226). -/
def execLah (m : MR) (s : State) : Result := run (do
  let h ← need (operandHalf · m)
  change (loadWord m.r (absolute (h.signExtend 32)))
  done) s

/-- LCW (R227). -/
def execLcw (m : MR) (s : State) : Result := run (do
  let w ← need (operandWord · m)
  change (fun s => setCC2 (w == 0x80000000#32) (loadWord m.r (-w) s))
  doneWithOverflow) s

/-- LAW (R228). -/
def execLaw (m : MR) (s : State) : Result := run (do
  let w ← need (operandWord · m)
  change (fun s => setCC2 (w == 0x80000000#32) (loadWord m.r (absolute w) s))
  doneWithOverflow) s

/-- LCD (R229). -/
def execLcd (m : MR) (s : State) : Result := run (do
  let d ← need (operandDword · m)
  change (fun s => setCC2 (d == 0x8000000000000000#64) (loadDword m.r (-d) s))
  doneWithOverflow) s

/-- LAD (R230). -/
def execLad (m : MR) (s : State) : Result := run (do
  let d ← need (operandDword · m)
  change (fun s => setCC2 (d == 0x8000000000000000#64) (loadDword m.r (absolute d) s))
  doneWithOverflow) s

/-- Load and set at a virtual word address: always memory, a write access, one indivisible step (R231, R107). -/
def loadAndSet (v : WordAddr) : Act Word := do
  let a ← need (fun s => locateMemory s v .write)
  let w ← need (fun s => readLoc s (.mem a))
  change (writeLoc (.mem a) (w ||| 0x80000000#32))
  pure w

/-- LAS (R231). -/
def execLas (m : MR) (s : State) : Result := run (do
  let v ← need (effWordAddr · m alignWord)
  let w ← loadAndSet v
  change (loadWord m.r w)
  done) s

/-- The word that LS leaves in register R (R234). -/
def selected (s : State) (r : BitVec 4) (w : Word) : Word :=
  if oddR r then w &&& getReg s r
  else (w &&& getReg s (ru1 r)) ||| (getReg s r &&& ~~~ getReg s (ru1 r))

/-- LS (R234). -/
def execLs (m : MR) (s : State) : Result := run (do
  let w ← need (operandWord · m)
  change (fun s => loadWord m.r (selected s m.r w) s)
  done) s

/-- The count of LM, STM, PLM and PSM: the condition code, 0 meaning 16 (R236). -/
def multipleCount (s : State) : Nat := if ccOf s = 0 then 16 else (ccOf s).toNat

/-- The address `k` words past `v`, within the width of the addressing type (D8). -/
def wordPlus (s : State) (v : WordAddr) (k : Nat) : WordAddr := wrapWord s (v + BitVec.ofNat 22 k)

/-- A word with its word address field replaced, 17 bits or in real extended addressing 22, the bits beside it unchanged
(46 R461, 48 R527, D42, D46). -/
def withWordAddress (s : State) (w : Word) (a : WordAddr) : Word :=
  if realExtended s then w.extractLsb' 22 10 ++ a else w.extractLsb' 17 15 ++ a.extractLsb' 0 17

/-- Both ends of `n` words from `v` tested for an access (60_exceptions R668). -/
def testEnds (v : WordAddr) (n : Nat) (k : Access) : Act Unit := do
  need (fun s => testAccess s v k)
  need (fun s => testAccess s (wordPlus s v (n - 1)) k)

/-- `n` successive words loaded into successive registers, modulo 16 (R236). -/
def loadMultiple (altered : Bool) (v : WordAddr) (r : BitVec 4) : Nat → Act Unit
  | 0 => pure ()
  | n + 1 => do
    let w ← onceAltered altered (need (readWord · v))
    change (setReg r w)
    let v' ← look (fun s => wordPlus s v 1)
    loadMultiple true v' (r + 1) n

/-- `n` successive registers, modulo 16, stored into successive words (R246). -/
def storeMultiple (altered : Bool) (v : WordAddr) (r : BitVec 4) : Nat → Act Unit
  | 0 => pure ()
  | n + 1 => do
    onceAltered altered (commit (fun s => writeWord s v (getReg s r)))
    let v' ← look (fun s => wordPlus s v 1)
    storeMultiple true v' (r + 1) n

/-- LM (R236); registers both loaded and read as words at addresses 0-15 hold free values (U1). -/
def execLm (m : MR) (s : State) : Result := run (do
  let v ← need (effWordAddr · m alignWord)
  let n ← look multipleCount
  testEnds v n .read
  loadMultiple false v m.r n
  freeOverlap v m.r n 16
  done) s

/-- LCFI's and LCF's loading of the condition code (bit 10) and the floating controls (bit 11) from a byte (R238,
R239). -/
def loadControl (r : BitVec 4) (b : Byte) (s : State) : State :=
  let s1 := if r.getLsbD 1 then setCC (b.extractLsb' 4 4) s else s
  if r.getLsbD 0 then
    { s1 with psd := { s1.psd with fs := b.getLsbD 2, fz := b.getLsbD 1, fn := b.getLsbD 0 } }
  else s1

/-- LCFI (R238). -/
def execLcfi (i : Imm) (s : State) : Result := run (do
  change (loadControl i.r (i.value.extractLsb' 0 8))
  done) s

/-- LCF (R239). With instruction bits 10 and 11 both 0 the effective byte is read all the same, and its access can trap:
R239 does not say whether it is (DESIGN CHOICE, log 43). -/
def execLcf (m : MR) (s : State) : Result := run (do
  let b ← need (operandByte · m)
  change (loadControl m.r b)
  done) s

/-- XW (R240): write access is tested before anything changes. -/
def execXw (m : MR) (s : State) : Result := run (do
  let v ← need (effWordAddr · m alignWord)
  let (l, w) ← need (readForUpdate swReadParity · v)
  change (fun s => writeLoc l (getReg s m.r) s)
  change (loadWord m.r w)
  done) s

/-- STB (R241). -/
def execStb (m : MR) (s : State) : Result := run (do
  let b ← need (effAddr · m alignByte)
  commit (fun s => writeByte s b ((getReg s m.r).truncate 8))
  done) s

/-- The register does not fit a halfword: bits 0-16 are not all equal (R242). -/
def exceedsHalf (w : Word) : Bool := field w 0 16 != 0 && field w 0 16 != BitVec.allOnes 17

/-- STH (R242): CC2 judges the register as it was before the store, should the store be into it (DESIGN CHOICE, log 38). -/
def execSth (m : MR) (s : State) : Result := run (do
  let b ← need (effAddr · m alignHalf)
  let w ← look (getReg · m.r)
  commit (fun s => writeHalf s b (w.truncate 16))
  change (setCC2 (exceedsHalf w))
  done) s

/-- STW (R243). -/
def execStw (m : MR) (s : State) : Result := run (do
  let v ← need (effWordAddr · m alignWord)
  commit (fun s => writeWord s v (getReg s m.r))
  done) s

/-- A doubleword stored, odd word first (R105, R244); a fault of the second store has RA = 1. -/
def storeDword (v : WordAddr) (d : Dword) : Act Unit := do
  commit (fun s => writeWord s (v ||| 1#22) (loWord d))
  altering (commit (fun s => writeWord s v (hiWord d)))

/-- STD (R244). -/
def execStd (m : MR) (s : State) : Result := run (do
  let v ← need (effWordAddr · m alignDword)
  let d ← look (getRegPair · m.r)
  storeDword v d
  done) s

/-- The word that STS stores (R245). -/
def merged (s : State) (r : BitVec 4) (w : Word) : Word :=
  if oddR r then getReg s r ||| w
  else (getReg s r &&& getReg s (ru1 r)) ||| (w &&& ~~~ getReg s (ru1 r))

/-- STS (R245): write access is tested before anything changes. -/
def execSts (m : MR) (s : State) : Result := run (do
  let v ← need (effWordAddr · m alignWord)
  let (l, w) ← need (readForUpdate swReadParity · v)
  change (fun s => writeLoc l (merged s m.r w) s)
  done) s

/-- STM (R246); words stored at addresses 0-15 that are also registers of the run hold free values (U1). -/
def execStm (m : MR) (s : State) : Result := run (do
  let v ← need (effWordAddr · m alignWord)
  let n ← look multipleCount
  testEnds v n .write
  storeMultiple false v m.r n
  freeOverlap v m.r n 16
  done) s

/-- PSD bits 0-7 (R247). -/
def controlByte (p : Psd) : Byte :=
  BitVec.ofBool p.cc1 ++ BitVec.ofBool p.cc2 ++ BitVec.ofBool p.cc3 ++ BitVec.ofBool p.cc4 ++ 0#1 ++
    BitVec.ofBool p.fs ++ BitVec.ofBool p.fz ++ BitVec.ofBool p.fn

/-- STCF (R247). -/
def execStcf (m : MR) (s : State) : Result := run (do
  let b ← need (effAddr · m alignByte)
  commit (fun s => writeByte s b (controlByte s.psd))
  done) s

end Sys2Proof.Machine
end

