-- ==== Sys2Proof/Machine/Decimal.lean ====
section
/-! DEFINITION. Decimal instructions but for EBS (44_decimal). A packed decimal number of any length is held expanded to
16 bytes (32 nibbles); the appended high-order zeros are legal digits and change neither its legality nor its value. -/

namespace Sys2Proof.Machine

open Sys2Proof

/-! ### Packed numbers (R381-R386, R389) -/

/-- The low `n` nibbles are all digit codes (R386). -/
def allDigits : Nat → Nat → Bool
  | 0, _ => true
  | n + 1, v => decide (v % 16 < 10) && allDigits n (v / 16)

/-- One of the low `n` nibbles is a sign code (R386). -/
def anySign : Nat → Nat → Bool
  | 0, _ => false
  | n + 1, v => decide (10 ≤ v % 16) || anySign n (v / 16)

/-- The decimal value of the low `n` nibbles (R389). -/
def digitValue : Nat → Nat → Nat
  | 0, _ => 0
  | n + 1, v => v % 16 + 10 * digitValue n (v / 16)

/-- The low `n` decimal digits of a magnitude, as nibbles (R389). -/
def toDigits : Nat → Nat → Nat
  | 0, _ => 0
  | n + 1, m => m % 10 + 16 * toDigits n (m / 10)

/-- `Legal` (R386). -/
def legalPacked (v : Nat) : Bool := decide (10 ≤ v % 16) && allDigits 31 (v / 16)

/-- The sign of `Val`: X'B' and X'D' are negative (R381, R389). -/
def packedNeg (v : Nat) : Bool := v % 16 == 11 || v % 16 == 13

/-- The magnitude of `Val` (R389). -/
def packedMag (v : Nat) : Nat := digitValue 31 (v / 16)

/-- The value of a packed number, a negative zero being zero. -/
def packedInt (v : Nat) : Int := if packedNeg v then -(packedMag v : Int) else packedMag v

/-- `SignCode` (R383). -/
def signCode (ansi neg : Bool) : Nat := if ansi then (if neg then 11 else 10) else (if neg then 13 else 12)

/-- `Zone` (R383). -/
def zoneCode (ansi : Bool) : Nat := if ansi then 3 else 15

/-- `MakeDec`, of `n` bytes (R389). -/
def makeDec (ansi neg : Bool) (mag n : Nat) : Nat := 16 * toDigits (2 * n - 1) mag + signCode ansi neg

/-- `DecCC34`: CC1 CC2 as given, CC3 CC4 by the value (R388). -/
def decimalCC (cc1 cc2 neg : Bool) (mag : Nat) : BitVec 4 :=
  BitVec.ofBool cc1 ++ BitVec.ofBool cc2 ++ BitVec.ofBool (!neg && mag != 0) ++ BitVec.ofBool (neg && mag != 0)

/-- `Len`: the L field, 0 meaning 16 (R385). -/
def decimalLength (m : MR) : Nat := if m.r = 0 then 16 else m.r.toNat

/-- The decimal accumulator, registers 12-15 (R384). -/
def getDeca (s : State) : BitVec 128 := getReg s 12 ++ getReg s 13 ++ getReg s 14 ++ getReg s 15

/-- The decimal accumulator loaded (R384). -/
def setDeca (v : BitVec 128) (s : State) : State :=
  setReg 15 (v.extractLsb' 0 32) (setReg 14 (v.extractLsb' 32 32)
    (setReg 13 (v.extractLsb' 64 32) (setReg 12 (v.extractLsb' 96 32) s)))

/-! ### Byte strings in memory -/

/-- The byte address `k` bytes past `b`, within the width of the addressing type (R385, D8). -/
def bytePlus (s : State) (b : ByteAddr) (k : Nat) : ByteAddr := wrapByte s (b + BitVec.ofNat 24 k)

/-- The first and last of `n` bytes tested for an access (R389, 60_exceptions R668). -/
def testByteEnds (b : ByteAddr) (n : Nat) (k : Access) : Act Unit := do
  need (fun s => testAccess s (wordOf b) k)
  need (fun s => testAccess s (wordOf (bytePlus s b (n - 1))) k)

/-- `MemRead` of `n` bytes, the first the most significant, behind those already read. -/
def readBytes (s : State) (b : ByteAddr) : Nat → Nat → Except Trap Nat
  | 0, acc => .ok acc
  | n + 1, acc =>
    match readByte s b with
    | .error t => .error t
    | .ok x => readBytes s (bytePlus s b 1) n (acc * 256 + x.toNat)

/-- The low `n` bytes of a number, the most significant first. -/
def bytesOf : Nat → Nat → List Byte
  | 0, _ => []
  | n + 1, v => BitVec.ofNat 8 (v / 256 ^ n) :: bytesOf n v

/-- `MemWrite` of bytes at ascending addresses; a trap after the first store has RA = 1 (R389, R667). -/
def storeBytes (altered : Bool) (b : ByteAddr) : List Byte → Act Unit
  | [] => pure ()
  | x :: rest => do
    onceAltered altered (commit (fun s => writeByte s b x))
    let b' ← look (fun s => bytePlus s b 1)
    storeBytes true b' rest

/-! ### Ends of a decimal instruction -/

/-- `DecFault`: CC1 illegal digit or sign, CC2 overflow, and the decimal arithmetic trap if DM = 1 (R387,
60_exceptions R660). -/
def decimalFault (illegal : Bool) : Act Unit := do
  change (setCC12 illegal (!illegal))
  if ← look (fun s => s.psd.dm) then raise { loc := 0x45#8 } else done

/-- How a decimal instruction on the accumulator ends (R387): with the new accumulator and condition code, or in one of
the two faults. -/
inductive DecimalEnd where
  | value (deca : Nat) (cc : BitVec 4)
  | illegal
  | overflow
  /-- The `require` of R394 and R395 fails. -/
  | indeterminate
deriving DecidableEq, Repr

/-- The indeterminate result of DM and DD: CC1 and CC2 reset, the accumulator, CC3 and CC4 free values (R394, R395, U6,
U7, log 14). -/
def indeterminateResult : Act Unit := do
  let v ← draw 128
  let c ← draw 2
  change (fun s => setCC (0#2 ++ c) (setDeca v s))
  done

/-- The end of a decimal instruction on the accumulator (R387, R389). -/
def decimalFinish : DecimalEnd → Act Unit
  | .value v cc => do
    change (fun s => setCC cc (setDeca (BitVec.ofNat 128 v) s))
    done
  | .illegal => decimalFault true
  | .overflow => decimalFault false
  | .indeterminate => indeterminateResult

/-- The beginning that the decimal instructions with a memory operand share: the decimal unit, the effective byte
address, and both ends of its `n` bytes (R389). -/
def decimalOperand (m : MR) (n : Nat) (k : Access) : Act ByteAddr := do
  requireDecimal
  let b ← need (effAddr · m alignByte)
  testByteEnds b n k
  pure b

/-- The effective decimal operand, EDO (R385). -/
def readDecimal (m : MR) : Act Nat := do
  let b ← decimalOperand m (decimalLength m) .read
  need (fun s => readBytes s b (decimalLength m) 0)

/-! ### The computations -/

/-- DL (R390) and, once packed, PACK (R400): the sign of a zero is kept. -/
def decimalLoad (ansi : Bool) (v : Nat) : DecimalEnd :=
  if legalPacked v then
    .value (makeDec ansi (packedNeg v) (packedMag v) 16) (decimalCC false false (packedNeg v) (packedMag v))
  else .illegal

/-- A signed sum put into the accumulator, a zero positive (R392, R393). -/
def decimalSum (ansi : Bool) (x : Int) : DecimalEnd :=
  if 10 ^ 31 ≤ x.natAbs then .overflow
  else .value (makeDec ansi (decide (x < 0)) x.natAbs 16) (decimalCC false false (decide (x < 0)) x.natAbs)

/-- DA (R392). -/
def decimalAdd (ansi : Bool) (a b : Nat) : DecimalEnd :=
  if legalPacked b && legalPacked a then decimalSum ansi (packedInt a + packedInt b) else .illegal

/-- DS (R393). -/
def decimalSubtract (ansi : Bool) (a b : Nat) : DecimalEnd :=
  if legalPacked b && legalPacked a then decimalSum ansi (packedInt a - packedInt b) else .illegal

/-- DM and DD accept L = 1 to 8 (R386). -/
def shortLength (m : MR) : Bool := decide (1 ≤ m.r.toNat) && decide (m.r.toNat ≤ 8)

/-- DM (R394). -/
def decimalMultiply (ansi : Bool) (a b : Nat) : DecimalEnd :=
  if legalPacked b && anySign 32 a then
    if legalPacked a && decide (a < 2 ^ 64) then
      let p := packedMag a * packedMag b
      let neg := (packedNeg a != packedNeg b) && p != 0
      .value (makeDec ansi neg p 16) (decimalCC false false neg p)
    else .indeterminate
  else .illegal

/-- DD (R395). -/
def decimalDivide (ansi : Bool) (a b : Nat) : DecimalEnd :=
  if legalPacked b && anySign 32 a then
    if legalPacked a then
      if packedMag b = 0 ∨ packedMag b ≤ packedMag a / 10 ^ 15 then .overflow
      else
        let q := packedMag a / packedMag b
        let neg := (packedNeg a != packedNeg b) && q != 0
        .value (2 ^ 64 * makeDec ansi (packedNeg a) (packedMag a % packedMag b) 8 + makeDec ansi neg q 8)
          (decimalCC false false neg q)
    else .indeterminate
  else .illegal

/-- DSA by `c` digit positions, left if positive (R397). -/
def decimalShift (ansi : Bool) (c : Int) (a : Nat) : DecimalEnd :=
  if legalPacked a then
    let t := if 0 ≤ c then packedMag a * 10 ^ c.toNat else packedMag a / 10 ^ (-c).toNat
    .value (makeDec ansi (packedNeg a) (t % 10 ^ 31) 16)
      (decimalCC false (decide (10 ^ 31 ≤ t)) (packedNeg a) (t % 10 ^ 31))
  else .illegal

/-- The shift count of DSA from the low 16 bits of its effective address, within -31 to 31 (R397). -/
def decimalShiftCount (c : Half) : Int := max (-31) (min 31 c.toInt)

/-- The low nibbles of `n` zoned bytes, in order (R400). -/
def packDigits : Nat → Nat → Nat
  | 0, _ => 0
  | n + 1, z => z % 16 + 16 * packDigits n (z / 256)

/-- The packed number, before its check, of an `n`-byte zoned number: its digits, then the zone of its last byte as the
sign (R400). -/
def packZoned (n z : Nat) : Nat := 16 * packDigits n z + z / 16 % 16

/-- The low `n` decimal digits of a magnitude as bytes with a zone (R401). -/
def zonedDigits (zone : Nat) : Nat → Nat → Nat
  | 0, _ => 0
  | n + 1, m => 16 * zone + m % 10 + 256 * zonedDigits zone n (m / 10)

/-- The `n`-byte zoned number of a sign and magnitude, the sign as the zone of the last byte (R401). -/
def zonedNumber (ansi neg : Bool) (mag n : Nat) : Nat :=
  256 * zonedDigits (zoneCode ansi) (n - 1) (mag / 10) + 16 * signCode ansi neg + mag % 10

/-! ### The instructions -/

/-- DM and DD: both ends of the operand are tested, then its length, and only then is it read (R389, R394, R395, 60
R642). -/
def decimalOnShort (m : MR) (f : Bool → Nat → Nat → DecimalEnd) : Act Unit := do
  let b ← decimalOperand m (decimalLength m) .read
  if shortLength m then do
    let v ← need (fun s => readBytes s b (decimalLength m) 0)
    let e ← look (fun s => f s.psd.ansi (getDeca s).toNat v)
    decimalFinish e
  else decimalFault true

/-- An instruction that computes a new accumulator from the old one and the effective decimal operand. -/
def decimalOn (m : MR) (f : Bool → Nat → Nat → DecimalEnd) : Act Unit := do
  let b ← readDecimal m
  let e ← look (fun s => f s.psd.ansi (getDeca s).toNat b)
  decimalFinish e

/-- DL (R390). -/
def execDl (m : MR) (s : State) : Result := run (decimalOn m (fun ansi _ b => decimalLoad ansi b)) s

/-- DA (R392). -/
def execDa (m : MR) (s : State) : Result := run (decimalOn m decimalAdd) s

/-- DS (R393). -/
def execDs (m : MR) (s : State) : Result := run (decimalOn m decimalSubtract) s

/-- DM (R394), executed in one step (R399, D21). -/
def execDm (m : MR) (s : State) : Result := run (decimalOnShort m decimalMultiply) s

/-- DD (R395), executed in one step (R399, D21). -/
def execDd (m : MR) (s : State) : Result := run (decimalOnShort m decimalDivide) s

/-- DC (R396). -/
def execDc (m : MR) (s : State) : Result := run (do
  let b ← readDecimal m
  let a ← look (fun s => (getDeca s).toNat)
  if legalPacked b && legalPacked a then
    change (fun s => orderCC34 (decide (packedInt a < packedInt b)) (decide (packedInt b < packedInt a))
      (setCC12 false false s))
    done
  else decimalFault true) s

/-- A number stored from the effective byte on, when the accumulator is legal: CC1 reset, CC2 digits lost (R391, R401). -/
def decimalStore (m : MR) (n digits : Nat) (f : Bool → Bool → Nat → Nat) : Act Unit := do
  let b ← decimalOperand m n .write
  let a ← look (fun s => (getDeca s).toNat)
  let ansi ← look (fun s => s.psd.ansi)
  if legalPacked a then do
    storeBytes false b (bytesOf n (f ansi (packedNeg a) (packedMag a)))
    change (setCC12 false (decide (10 ^ digits ≤ packedMag a)))
    done
  else decimalFault true

/-- DST (R391). -/
def execDst (m : MR) (s : State) : Result := run (
  decimalStore m (decimalLength m) (2 * decimalLength m - 1)
    (fun ansi neg mag => makeDec ansi neg mag (decimalLength m))) s

/-- The shift count field before indexing: bits 16-31 of the instruction or of its indirect word (R397). -/
def shiftField (s : State) (m : MR) : Except Trap Half :=
  if m.ind then
    match readWord s (directRef s m) with
    | .ok w => .ok (w.extractLsb' 0 16)
    | .error t => .error t
  else .ok (m.addr.extractLsb' 0 16)

/-- DSA (R397). -/
def execDsa (m : MR) (s : State) : Result := run (do
  requireDecimal
  let d ← need (shiftField · m)
  let e ← look (fun s =>
    let c := if m.x = 0 then d else d + (getReg s (0#1 ++ m.x)).extractLsb' 2 16
    decimalShift s.psd.ansi (decimalShiftCount c) (getDeca s).toNat)
  decimalFinish e) s

/-- PACK (R400). -/
def execPack (m : MR) (s : State) : Result := run (do
  let n := 2 * decimalLength m - 1
  let b ← decimalOperand m n .read
  let z ← need (fun s => readBytes s b n 0)
  let e ← look (fun s => decimalLoad s.psd.ansi (packZoned n z))
  decimalFinish e) s

/-- UNPK (R401), executed in one step (R399, D21). -/
def execUnpk (m : MR) (s : State) : Result := run (
  decimalStore m (2 * decimalLength m - 1) (2 * decimalLength m - 1)
    (fun ansi neg mag => zonedNumber ansi neg mag (2 * decimalLength m - 1))) s

end Sys2Proof.Machine
end

