-- ==== Sys2Proof/Machine/ByteString.lean ====
section
/-! DEFINITION. Byte-string instructions (45_byte_string). Each is one step (R427, D21); its control registers are
updated byte by byte, so that a trap leaves them at the byte reached. The addresses and the count are taken from the
registers once, at the start, and written back into their fields after each byte (R422, R424; log 23). -/

namespace Sys2Proof.Machine

open Sys2Proof

/-! ### Control registers (R421, R422) -/

/-- The address field of a control register: 19 or 24 bits (R421). -/
def addressField (s : State) (w : Word) : ByteAddr := wrapByte s (w.truncate 24)

/-- A control register with its address field replaced, the bits beside it as they were (R421, D8). -/
def withAddress (s : State) (w : Word) (a : ByteAddr) : Word :=
  if realExtended s then w.extractLsb' 24 8 ++ a else w.extractLsb' 19 13 ++ a.extractLsb' 0 19

/-- The byte `count` in bits 0-7 of a control register (R421). -/
def withCount (w : Word) (c : Byte) : Word := c ++ w.extractLsb' 0 24

/-- The count C in register Ru1 (R421). -/
def countOf (s : State) (b : Bs) : Byte := (getReg s (ru1 b.r)).extractLsb' 24 8

/-- The destination address in register Ru1 (R421). -/
def destination (s : State) (b : Bs) : ByteAddr := addressField s (getReg s (ru1 b.r))

/-- The source address field: register R, or 0 when R is 0 (R422). -/
def sourceField (s : State) (b : Bs) : ByteAddr := if b.r = 0 then 0 else addressField s (getReg s b.r)

/-- The displacement added to a source address (R421). -/
def withDisplacement (s : State) (b : Bs) (sa : ByteAddr) : ByteAddr := wrapByte s (sa + b.disp.signExtend 24)

/-- The source advances with the string in cases I and II, not in case III (R422, R424). -/
def sourceStep (b : Bs) : Nat := if b.r = 0 then 0 else 1

/-- The control registers written back after a byte of MBS or CBS: Ru1, and in case I also R (R424, R426). -/
def putProgress (b : Bs) (sa da : ByteAddr) (c : Byte) (s : State) : State :=
  let s1 := setReg (ru1 b.r) (withCount (withAddress s (getReg s (ru1 b.r)) da) c) s
  if b.r = 0 ∨ oddR b.r then s1 else setReg b.r (withAddress s1 (getReg s1 b.r) sa) s1

/-- Register Ru1 alone written back after a byte (R428, R430, R438). -/
def putDestination (b : Bs) (da : ByteAddr) (c : Byte) (s : State) : State :=
  setReg (ru1 b.r) (withCount (withAddress s (getReg s (ru1 b.r)) da) c) s

/-- The start that MBS and CBS share: both strings tested at both ends when the count is not 0 (R422, R423). -/
def testStrings (b : Bs) (k : Access) : Act Unit := do
  let n ← look (fun s => (countOf s b).toNat)
  if n = 0 then pure ()
  else do
    let src ← look (fun s => withDisplacement s b (sourceField s b))
    let dst ← look (destination · b)
    testByteEnds src (if b.r = 0 then 1 else n) .read
    testByteEnds dst n k

/-- The start of TBS, TTBS and EBS: the destination string tested at both ends (R423, C20). -/
def testDestination (b : Bs) (k : Access) : Act Unit := do
  let n ← look (fun s => (countOf s b).toNat)
  if n = 0 then pure ()
  else do
    let dst ← look (destination · b)
    testByteEnds dst n k

/-! ### MBS and CBS -/

/-- The loop of MBS over `n` remaining bytes (R424). -/
def moveBytes (altered : Bool) (b : Bs) (sa da : ByteAddr) : Nat → Act Unit
  | 0 => pure ()
  | n + 1 => do
    onceAltered altered (do
      let x ← need (fun s => readByte s (withDisplacement s b sa))
      commit (fun s => writeByte s da x))
    let da' ← look (fun s => bytePlus s da 1)
    let sa' ← look (fun s => bytePlus s sa (sourceStep b))
    change (putProgress b sa' da' (BitVec.ofNat 8 n))
    moveBytes true b sa' da' n

/-- MBS (R424). -/
def execMbs (b : Bs) (s : State) : Result := run (do
  requireByteString
  testStrings b .write
  let sa ← look (sourceField · b)
  let da ← look (destination · b)
  let n ← look (fun s => (countOf s b).toNat)
  moveBytes false b sa da n
  done) s

/-- The loop of CBS over `n` remaining bytes; CC3 CC4 are written at its end only, so that a trap inside it finds the
condition code from before the instruction (R426, R643, D35). With count 0, CC3 CC4 = 00 (D41). -/
def compareBytes (altered : Bool) (b : Bs) (sa da : ByteAddr) : Nat → Act Unit
  | 0 => change (setCC34 false false)
  | n + 1 => do
    let (x, y) ← onceAltered altered (do
      let x ← need (fun s => readByte s (withDisplacement s b sa))
      let y ← need (fun s => readByte s da)
      pure (x, y))
    if x = y then do
      let da' ← look (fun s => bytePlus s da 1)
      let sa' ← look (fun s => bytePlus s sa (sourceStep b))
      change (putProgress b sa' da' (BitVec.ofNat 8 n))
      compareBytes true b sa' da' n
    else change (orderCC34 (decide (x.toNat < y.toNat)) (decide (y.toNat < x.toNat)))

/-- CBS (R426). -/
def execCbs (b : Bs) (s : State) : Result := run (do
  requireByteString
  testStrings b .read
  let sa ← look (sourceField · b)
  let da ← look (destination · b)
  let n ← look (fun s => (countOf s b).toNat)
  compareBytes false b sa da n
  done) s

/-! ### TBS and TTBS -/

/-- The translation of a byte: the table begins at the source address plus the displacement (R428). -/
def translate (s : State) (b : Bs) (sa : ByteAddr) (d : Byte) : Except Trap Byte :=
  readByte s (wrapByte s (withDisplacement s b sa + d.zeroExtend 24))

/-- The loop of TBS over `n` remaining bytes (R428). -/
def translateBytes (altered : Bool) (b : Bs) (sa da : ByteAddr) : Nat → Act Unit
  | 0 => pure ()
  | n + 1 => do
    onceAltered altered (do
      let d ← need (fun s => readByte s da)
      let t ← need (fun s => translate s b sa d)
      commit (fun s => writeByte s da t))
    let da' ← look (fun s => bytePlus s da 1)
    change (putDestination b da' (BitVec.ofNat 8 n))
    translateBytes true b sa da' n

/-- TBS (R428). -/
def execTbs (b : Bs) (s : State) : Result := run (do
  requireByteString
  requireEven b.r
  testDestination b .write
  let sa ← look (sourceField · b)
  let da ← look (destination · b)
  let n ← look (fun s => (countOf s b).toNat)
  translateBytes false b sa da n
  done) s

/-- The loop of TTBS over `n` remaining bytes; CC4 is written at its end only (R430, R643, D35). -/
def translateTest (altered : Bool) (b : Bs) (mask : Byte) (sa da : ByteAddr) : Nat → Act Unit
  | 0 => change (setCC4 false)
  | n + 1 => do
    let t ← onceAltered altered (do
      let d ← need (fun s => readByte s da)
      need (fun s => translate s b sa d))
    if t &&& mask = 0 then do
      let da' ← look (fun s => bytePlus s da 1)
      change (putDestination b da' (BitVec.ofNat 8 n))
      translateTest true b mask sa da' n
    else
      change (fun s => setCC4 true (if b.r = 0 then s else setReg b.r (withCount (getReg s b.r) (t &&& mask)) s))

/-- TTBS (R430); with R = 0 the mask is all ones and register 0 is not written (D41). -/
def execTtbs (b : Bs) (s : State) : Result := run (do
  requireByteString
  requireEven b.r
  testDestination b .read
  let mask ← look (fun s => if b.r = 0 then 0xFF#8 else (getReg s b.r).extractLsb' 24 8)
  let sa ← look (sourceField · b)
  let da ← look (destination · b)
  let n ← look (fun s => (countOf s b).toNat)
  translateTest false b mask sa da n
  done) s

/-! ### EBS -/

/-- What register 1 receives after a pattern byte (R438, step 2f). -/
inductive EditMark where
  | none | here | next
deriving DecidableEq, Repr

/-- What one pattern byte does: the byte stored, if any, the new condition code, how far the source advances, and the
mark (R438). -/
structure EditStep where
  put : Option Byte
  cc : BitVec 4
  advance : Nat
  mark : EditMark
deriving DecidableEq, Repr

/-- The pattern byte asks for a digit: ds X'20', ss X'21', si X'23' (R437, R438 step 2). -/
def wantsDigit (p : Byte) : Bool := p == 0x20#8 || p == 0x21#8 || p == 0x23#8

/-- `Zoned(x)` (R438). -/
def zonedByte (ansi : Bool) (x : BitVec 4) : Byte := BitVec.ofNat 4 (zoneCode ansi) ++ x

/-- Step 2 of EBS: a digit of the decimal byte `d` under the pattern byte `p`; none is EbsFault (R438, R439). CC1-CC4 are
bits 3 to 0 of `cc`. -/
def editDigit (ansi : Bool) (fill p d : Byte) (cc : BitVec 4) : Option EditStep :=
  let hi : BitVec 4 := d.extractLsb' 4 4
  let lo : BitVec 4 := d.extractLsb' 0 4
  let right := cc.getLsbD 2
  let x := if right then lo else hi
  if 10 ≤ hi.toNat ∨ (right = true ∧ 10 ≤ x.toNat) then none
  else
    let nonzero := cc.getLsbD 1 || x != 0
    let sig := cc.getLsbD 0
    let marked : EditMark :=
      if p = 0x23#8 then .here
      else if sig then .none
      else if x != 0 then .here
      else if p = 0x21#8 then .next
      else .none
    let put := if p = 0x23#8 ∨ sig = true ∨ x ≠ 0 then zonedByte ansi x else fill
    let sig' := p == 0x23#8 || sig || x != 0 || p == 0x21#8
    let ended := !right && decide (10 ≤ lo.toNat)
    let negative := lo == 11 || lo == 13
    let cc1 := if ended then true else cc.getLsbD 3
    let cc2 := if ended then right else !right
    let cc4 := if ended then negative else sig'
    some {
      put := some put
      cc := BitVec.ofBool cc1 ++ BitVec.ofBool cc2 ++ BitVec.ofBool nonzero ++ BitVec.ofBool cc4
      advance := if ended || right then 1 else 0
      mark := marked }

/-- `Blank` (R438). -/
def blank (ansi : Bool) : Byte := if ansi then 0x20#8 else 0x40#8

/-- Steps 3 and 4 of EBS: a field separator, or any other pattern byte (R438). -/
def editOther (ansi : Bool) (fill p : Byte) (cc : BitVec 4) : EditStep :=
  if p = 0x22#8 then ⟨some fill, cc &&& 0b0100#4, 0, .none⟩
  else if cc.getLsbD 0 then ⟨none, cc, 0, .none⟩
  else if cc.getLsbD 3 then ⟨some (blank ansi), cc, 0, .none⟩
  else ⟨some fill, cc, 0, .none⟩

/-- Register 1 marked with a byte address: the bits beside the field are unpredictable (R438 step 2f, U8, log 18). -/
def markRegister (mark : EditMark) (da : ByteAddr) : Act Unit :=
  match mark with
  | .none => pure ()
  | .here => do
    let w ← draw 32
    change (fun s => setReg 1 (withAddress s w da) s)
  | .next => do
    let w ← draw 32
    change (fun s => setReg 1 (withAddress s w (bytePlus s da 1)) s)

/-- EbsFault: the condition code keeps the editing state (R439, C19). -/
def editFault (altered : Bool) : Act Unit := do
  if ← look (fun s => s.psd.dm) then onceAltered altered (raise { loc := 0x45#8 }) else done

/-- The effect of one pattern byte, and the control registers written back (R438 steps 2d to 5). -/
def applyEdit (altered : Bool) (b : Bs) (e : EditStep) (sa da : ByteAddr) (n : Nat) : Act Unit := do
  match e.put with
  | some x => onceAltered altered (commit (fun s => writeByte s da x))
  | none => pure ()
  change (setCC e.cc)
  change (fun s => setReg b.r (withAddress s (getReg s b.r) (bytePlus s sa e.advance)) s)
  markRegister e.mark da
  change (fun s => putDestination b (bytePlus s da 1) (BitVec.ofNat 8 n) s)

/-- The loop of EBS over `n` remaining pattern bytes; it ends the instruction (R438, R439). -/
def editBytes (altered : Bool) (b : Bs) (fill : Byte) (sa da : ByteAddr) : Nat → Act Unit
  | 0 => done
  | n + 1 => do
    let p ← onceAltered altered (need (fun s => readByte s da))
    let ansi ← look (fun s => s.psd.ansi)
    let cc ← look ccOf
    let da' ← look (fun s => bytePlus s da 1)
    if wantsDigit p then do
      let d ← onceAltered altered (need (fun s => readByte s (withDisplacement s b sa)))
      match editDigit ansi fill p d cc with
      | none => editFault altered
      | some e => do
        applyEdit altered b e sa da n
        let sa' ← look (fun s => bytePlus s sa e.advance)
        editBytes true b fill sa' da' n
    else do
      applyEdit altered b (editOther ansi fill p cc) sa da n
      editBytes true b fill sa da' n

/-- EBS (R436-R440); R must be even and not 0. -/
def execEbs (b : Bs) (s : State) : Result := run (do
  requireDecimal
  if b.r = 0 ∨ oddR b.r = true then raise registerTrap
  else do
    testDestination b .write
    let fill ← look (fun s => (getReg s b.r).extractLsb' 24 8)
    let sa ← look (sourceField · b)
    let da ← look (destination · b)
    let n ← look (fun s => (countOf s b).toNat)
    editBytes false b fill sa da n) s

end Sys2Proof.Machine
end

