-- ==== Sys2Proof/Machine/CompareLogical.lean ====
section
/-! DEFINITION. Comparison, logical, shift and conversion instructions (42_comparison_logical_shift_conversion). -/

namespace Sys2Proof.Machine

open Sys2Proof

/-! ### Comparison -/

/-- CC3 CC4 of a signed comparison (R300). -/
def compareSigned {w : Nat} (a b : BitVec w) (s : State) : State := orderCC34 (a.slt b) (b.slt a) s

/-- CC3 CC4 of a comparison of magnitudes (R300). -/
def compareUnsigned {w : Nat} (a b : BitVec w) (s : State) : State := orderCC34 (a.ult b) (b.ult a) s

/-- CC3 CC4 the comparison, CC2 whether the operands have a 1 in common (R301-R304). -/
def compareWithBits (a b : Word) (s : State) : State := setCC2 (a &&& b != 0) (compareSigned a b s)

/-- CI (R301). -/
def execCi (i : Imm) (s : State) : Result := run (do
  change (fun s => compareWithBits (getReg s i.r) (immediate i) s)
  done) s

/-- CB (R302). -/
def execCb (m : MR) (s : State) : Result := run (do
  let b ← need (operandByte · m)
  change (fun s =>
    let a : Byte := (getReg s m.r).truncate 8
    setCC2 (a &&& b != 0) (compareUnsigned a b s))
  done) s

/-- CH (R303). -/
def execCh (m : MR) (s : State) : Result := run (do
  let h ← need (operandHalf · m)
  change (fun s => compareWithBits (getReg s m.r) (h.signExtend 32) s)
  done) s

/-- CW (R304). -/
def execCw (m : MR) (s : State) : Result := run (do
  let w ← need (operandWord · m)
  change (fun s => compareWithBits (getReg s m.r) w s)
  done) s

/-- CD (R305). -/
def execCd (m : MR) (s : State) : Result := run (do
  let d ← need (operandDword · m)
  change (fun s => compareSigned (getRegPair s m.r) d s)
  done) s

/-- CS (R306). -/
def execCs (m : MR) (s : State) : Result := run (do
  let w ← need (operandWord · m)
  change (fun s =>
    let mask := if oddR m.r then getReg s m.r else getReg s (ru1 m.r)
    compareUnsigned (getReg s m.r &&& mask) (w &&& mask) s)
  done) s

/-- CC3 CC4 and CC1 CC2 of the two comparisons with limits (R307, R308). -/
def compareLimits (a1 b1 a2 b2 : Word) (s : State) : State :=
  orderCC12 (a2.slt b2) (b2.slt a2) (compareSigned a1 b1 s)

/-- CLR (R307). -/
def execClr (m : MR) (s : State) : Result := run (do
  let w ← need (operandWord · m)
  change (fun s => compareLimits (getReg s m.r) w (getReg s (ru1 m.r)) w s)
  done) s

/-- CLM (R308). -/
def execClm (m : MR) (s : State) : Result := run (do
  let d ← need (operandDword · m)
  change (fun s => compareLimits (getReg s m.r) (hiWord d) (getReg s m.r) (loWord d) s)
  done) s

/-! ### Logical -/

/-- OR (R310). -/
def execOr (m : MR) (s : State) : Result := run (do
  let w ← need (operandWord · m)
  change (fun s => loadWord m.r (getReg s m.r ||| w) s)
  done) s

/-- EOR (R311). -/
def execEor (m : MR) (s : State) : Result := run (do
  let w ← need (operandWord · m)
  change (fun s => loadWord m.r (getReg s m.r ^^^ w) s)
  done) s

/-- AND (R312). -/
def execAnd (m : MR) (s : State) : Result := run (do
  let w ← need (operandWord · m)
  change (fun s => loadWord m.r (getReg s m.r &&& w) s)
  done) s

/-! ### Shift -/

/-- The shift control word: bits 15-31 of the instruction, or of its indirect word (R315). -/
def shiftControl (s : State) (m : MR) : Except Trap (BitVec 17) :=
  if m.ind then
    match readWord s (directRef s m) with
    | .ok w => .ok (field w 15 31)
    | .error t => .error t
  else .ok m.addr

/-- The shift count: bits 25-31 of the control word plus those of the index register, modulo 128, as a signed 7-bit
number (R315). -/
def shiftCount (s : State) (m : MR) (d : BitVec 17) : BitVec 7 :=
  if m.x = 0 then d.extractLsb' 0 7 else d.extractLsb' 0 7 + (getReg s (0#1 ++ m.x)).truncate 7

/-- One step of a left shift: the new value and the bit that left bit 0 (R317-R319). -/
def leftOne {w : Nat} (circular : Bool) (v : BitVec w) : BitVec w :=
  if circular then v.rotateLeft 1 else v <<< 1

/-- `n` left steps with CC1 (parity of the 1 bits that left) and CC2 (the sign changed at some step) (R321). -/
def leftSteps {w : Nat} (circular : Bool) : Nat → BitVec w × Bool × Bool → BitVec w × Bool × Bool
  | 0, x => x
  | n + 1, (v, odd, ovf) =>
    let v' := leftOne circular v
    leftSteps circular n (v', odd != v.msb, ovf || v'.msb != v.msb)

/-- The type of a shift, bits 21-23 of the control word, without the single/double bit (R316). -/
inductive ShiftType where
  | logical | circular | arithmetic | searching
deriving DecidableEq, Repr

/-- The shift type of bits 21 and 22 (R316). -/
def shiftTypeOf (t : BitVec 2) : ShiftType :=
  if t = 0b00#2 then .logical else if t = 0b01#2 then .circular else if t = 0b10#2 then .arithmetic else .searching

/-- A right shift of `n` places (R317-R319). -/
def rightShift {w : Nat} (t : ShiftType) (v : BitVec w) (n : Nat) : BitVec w :=
  match t with
  | .logical => v >>> n
  | .circular => v.rotateRight n
  | .arithmetic => v.sshiftRight n
  | .searching => v

/-- A logical, circular or arithmetic shift by the signed count: result, CC1, CC2 (R317-R321). -/
def plainShift {w : Nat} (t : ShiftType) (v : BitVec w) (c : BitVec 7) : BitVec w × Bool × Bool :=
  if c.msb then (rightShift t v (-c).toNat, false, false)
  else leftSteps (t == .circular) c.toNat (v, false, false)

/-- A searching shift of at most `n` steps: the value and how many steps were taken (R320). -/
def searchSteps {w : Nat} (right : Bool) : Nat → BitVec w → BitVec w × Nat
  | 0, v => (v, 0)
  | n + 1, v =>
    if v.msb then (v, 0)
    else
      let r := searchSteps right n (if right then v.rotateRight 1 else v.rotateLeft 1)
      (r.1, r.2 + 1)

/-- What a shift delivers: the value, the condition code change, and for a searching shift the remaining count. -/
structure ShiftResult (w : Nat) where
  value : BitVec w
  cc1 : Option Bool
  cc2 : Bool
  cc4 : Option Bool
  rem : Option (BitVec 7)
deriving DecidableEq, Repr

/-- A shift of any type (R316-R321, D36). -/
def shiftValue {w : Nat} (t : ShiftType) (v : BitVec w) (c : BitVec 7) : ShiftResult w :=
  match t with
  | .searching =>
    let r := searchSteps c.msb (if c.msb then (-c).toNat else c.toNat) v
    { value := r.1
      cc1 := none
      cc2 := !v.msb && r.1.msb
      cc4 := some r.1.msb
      rem := some (if c.msb then c + BitVec.ofNat 7 r.2 else c - BitVec.ofNat 7 r.2) }
  | t =>
    let r := plainShift t v c
    { value := r.1, cc1 := some r.2.1, cc2 := r.2.2, cc4 := none, rem := none }

/-- The condition code of a shift (R320, R321). -/
def shiftCC {w : Nat} (r : ShiftResult w) (s : State) : State :=
  let s1 := setCC2 r.cc2 s
  let s2 := match r.cc1 with
    | some b => setCC1 b s1
    | none => s1
  match r.cc4 with
  | some b => setCC4 b s2
  | none => s2

/-- Register 1 receives the remaining count of a searching shift, after everything else (R320, D36). -/
def shiftRemainder (rem : Option (BitVec 7)) (s : State) : State :=
  match rem with
  | some c => setReg 1 (c.zeroExtend 32) s
  | none => s

/-- A double-register result written back: R the high word, Ru1 the low word if R is even (R316, R323). -/
def putShifted (r : BitVec 4) (d : Dword) (s : State) : State :=
  if oddR r then setReg r (hiWord d) s else setReg (ru1 r) (loWord d) (setReg r (hiWord d) s)

/-- The effect of S for a control word (R316). -/
def shift (r : BitVec 4) (d : BitVec 17) (c : BitVec 7) (s : State) : State :=
  let t := shiftTypeOf (d.extractLsb' 9 2)
  if d.getLsbD 8 then
    let x := shiftValue t (getRegPair s r) c
    shiftRemainder x.rem (shiftCC x (putShifted r x.value s))
  else
    let x := shiftValue t (getReg s r) c
    shiftRemainder x.rem (shiftCC x (setReg r x.value s))

/-- S (R315-R323). -/
def execS (m : MR) (s : State) : Result := run (do
  let d ← need (shiftControl · m)
  change (fun s => shift m.r d (shiftCount s m d) s)
  done) s

/-! ### Floating shift -/

/-- The leading hexadecimal digit of a fraction is not zero. -/
def normalizedFraction {f : Nat} (v : BitVec f) : Bool := v.extractLsb' (f - 4) 4 != 0

/-- Left steps of SF: characteristic, fraction and CC2 (R325). -/
def floatLeftSteps {f : Nat} : Nat → BitVec 7 × BitVec f × Bool → BitVec 7 × BitVec f × Bool
  | 0, x => x
  | n + 1, (ch, v, under) =>
    if normalizedFraction v || under then (ch, v, under)
    else floatLeftSteps n (ch - 1#7, v <<< 4, ch == 0)

/-- Right steps of SF: characteristic, fraction and CC2 (R326). -/
def floatRightSteps {f : Nat} : Nat → BitVec 7 × BitVec f × Bool → BitVec 7 × BitVec f × Bool
  | 0, x => x
  | n + 1, (ch, v, full) =>
    if full then (ch, v, full) else floatRightSteps n (ch + 1#7, v >>> 4, ch == 127#7)

/-- What SF makes of a number of `f` fraction bits: the number, CC1 and CC2 (R324-R326, D37). -/
def floatShift {f : Nat} (v : BitVec (1 + 7 + f)) (c : BitVec 7) : BitVec (1 + 7 + f) × Bool × Bool :=
  let a := if v.msb then -v else v
  let sign : BitVec 1 := a.extractLsb' (7 + f) 1
  let ch : BitVec 7 := a.extractLsb' f 7
  let fr : BitVec f := a.extractLsb' 0 f
  let finish (x : BitVec 7 × BitVec f × Bool) : BitVec (1 + 7 + f) :=
    if x.2.1 = 0 then 0
    else
      let n := sign ++ x.1 ++ x.2.1
      if v.msb then -n else n
  if c.msb then
    let x := floatRightSteps (-c).toNat (ch, fr, false)
    (finish x, false, x.2.2)
  else if fr = 0 then (0, true, false)
  else
    let x := floatLeftSteps c.toNat (ch, fr, false)
    (finish x, normalizedFraction x.2.1, x.2.2)

/-- The condition code of SF: CC1 CC2 of the shift, CC3 CC4 the sign of the value written back (R327). -/
def floatShiftCC {w : Nat} (v : BitVec w) (cc1 cc2 : Bool) (s : State) : State := signCC v (setCC12 cc1 cc2 s)

/-- The effect of SF for a control word: bit 23 selects the long format (R324). -/
def floatingShift (r : BitVec 4) (d : BitVec 17) (c : BitVec 7) (s : State) : State :=
  if d.getLsbD 8 then
    let x := floatShift (f := 56) (getRegPair s r) c
    floatShiftCC x.1 x.2.1 x.2.2 (putShifted r x.1 s)
  else
    let x := floatShift (f := 24) (getReg s r) c
    floatShiftCC x.1 x.2.1 x.2.2 (setReg r x.1 s)

/-- SF (R324-R327). -/
def execSf (m : MR) (s : State) : Result := run (do
  let d ← need (shiftControl · m)
  change (fun s => floatingShift m.r d (shiftCount s m d) s)
  done) s

/-! ### Conversion -/

/-- CVA's sum over the conversion words from number `32 - n` on, each read only if its bit of the selector is 1: the sum
and whether it exceeded 2^32 - 1 (R330). -/
def convertAdd (s : State) (v : WordAddr) (sel : Word) : Nat → Word × Bool → Except Trap (Word × Bool)
  | 0, x => .ok x
  | n + 1, (a, ovf) =>
    if sel.getLsbD n then
      match readWord s (wordPlus s v (31 - n)) with
      | .ok w => convertAdd s v sel n (a + w, ovf || decide (2 ^ 32 ≤ a.toNat + w.toNat))
      | .error t => .error t
    else convertAdd s v sel n (a, ovf)

/-- CVA (R330). -/
def execCva (m : MR) (s : State) : Result := run (do
  let v ← need (effWordAddr · m alignWord)
  let x ← need (fun s => convertAdd s v (getReg s (ru1 m.r)) 32 (0, false))
  change (fun s => setCC1 x.2 (loadWord m.r x.1 s))
  done) s

/-- CVS's subtractions from number `32 - n` on: the remainder and the converted quantity (R331). -/
def convertSubtract (s : State) (v : WordAddr) : Nat → Word × Word → Except Trap (Word × Word)
  | 0, x => .ok x
  | n + 1, (a, b) =>
    match readWord s (wordPlus s v (31 - n)) with
    | .ok w =>
      if w.ule a then convertSubtract s v n (a - w, b ||| (1#32 <<< n)) else convertSubtract s v n (a, b)
    | .error t => .error t

/-- CVS (R331): R the remainder, then Ru1 the converted quantity. -/
def execCvs (m : MR) (s : State) : Result := run (do
  let v ← need (effWordAddr · m alignWord)
  let x ← need (fun s => convertSubtract s v 32 (getReg s m.r, 0))
  change (fun s => loadWord (ru1 m.r) x.2 (setReg m.r x.1 s))
  done) s

end Sys2Proof.Machine
end

