-- ==== Sys2Proof/Machine/Control.lean ====
section
/-! DEFINITION. Control instructions (48_control). -/

namespace Sys2Proof.Machine

open Sys2Proof Sys2Proof.Config

/-! ### LPSD, XPSD, LRP -/

/-- The control action of LPSD: CL = 1 clears the highest-priority active level, armed if AD = 1; CL = 0 with AD = 1
clears PDF and the fault status register (R522, 60 R664, R688), and the PFI-generated flag with them (DESIGN CHOICE, log
37). -/
def pswControl (cl ad : Bool) (s : State) : State :=
  if cl then clearHighestActive ad s
  else if ad then { s with pdf := false, faultStatus := 0, pfiGenerated := false }
  else s

/-- LPSD (R522): LP, CL and AD are instruction bits 8, 10 and 11. -/
def execLpsd (m : MR) (s : State) : Result := run (do
  requireMaster
  let d ← need (operandDword · m)
  let lp := m.r.getLsbD 3
  if ← look (fun s => lp && rpInvalid s (field (loWord d) 24 27)) then raise (exceptionTrap 0 0)
  else change (fun s => pswControl (m.r.getLsbD 1) (m.r.getLsbD 0) (loadPsd d lp s))) s

/-- XPSD as a normal instruction (R523): the old PSD is stored with the updated instruction address; bits 9 and 10 have
no effect. -/
def execXpsd (m : MR) (s : State) : Result := run (do
  requireMaster
  let v ← need (effWordAddr · m alignDword)
  attempt (fun s => exchangePsd s (advance s).psd (.virtual v) (m.r.getLsbD 3) none 0 false)) s

/-- LRP (R525). -/
def execLrp (m : MR) (s : State) : Result := run (do
  requireMaster
  let w ← need (operandWord · m)
  if ← look (fun s => decide (s.inst.nblocks ≤ (field w 26 27).toNat)) then raise (exceptionTrap 0 0)
  else do
    change (fun s => { s with psd := { s.psd with rp := 0#2 ++ field w 26 27 } })
    done) s

/-! ### MMC -/

/-- A map entry loaded (R58). -/
def setMap (p : BitVec 8) (v : BitVec 13) (s : State) : State := { s with map := s.map.set p.toNat v p.isLt }

/-- An access protection code loaded (R59). -/
def setAcc (p : BitVec 8) (v : BitVec 2) (s : State) : State := { s with acc := s.acc.set p.toNat v p.isLt }

/-- A write lock loaded (R60). -/
def setLock (p : BitVec 8) (v : BitVec 2) (s : State) : State := { s with lock := s.lock.set p.toNat v p.isLt }

/-- The block of memory control registers that MMC loads (R526). -/
inductive ControlBlock where
  | locks | access | map8 | map13
deriving DecidableEq, Repr

/-- The block that instruction bits 12-14 name (R526). -/
def controlBlock (x : BitVec 3) : Option ControlBlock :=
  if x = 0b001#3 then some .locks
  else if x = 0b010#3 then some .access
  else if x = 0b100#3 then some .map8
  else if x = 0b101#3 then some .map13
  else none

/-- How many registers of the block one image word loads (R528-R531). -/
def ControlBlock.step : ControlBlock → BitVec 8
  | .locks => 16
  | .access => 16
  | .map8 => 4
  | .map13 => 2

/-- The low `n` of the sixteen 2-bit codes of an image word, from page `p` on, modulo 256 (R530, R531). -/
def putCodes (put : BitVec 8 → BitVec 2 → State → State) (p : BitVec 8) (w : Word) : Nat → State → State
  | 0, s => s
  | n + 1, s => put (p + BitVec.ofNat 8 n) (w.extractLsb' (30 - 2 * n) 2) (putCodes put p w n s)

/-- `Load(P, W)` (R528-R531, D15). -/
def loadControlWord (b : ControlBlock) (p : BitVec 8) (w : Word) (s : State) : State :=
  match b with
  | .locks => putCodes setLock p w 16 s
  | .access => putCodes setAcc p w 16 s
  | .map8 =>
    setMap (p + 3) (0#5 ++ byteOf w 3) (setMap (p + 2) (0#5 ++ byteOf w 2)
      (setMap (p + 1) (0#5 ++ byteOf w 1) (setMap p (0#5 ++ byteOf w 0) s)))
  | .map13 =>
    setMap (p + 1) (w.extractLsb' (19 - s.inst.map13Second) 13) (setMap p (w.extractLsb' (19 - s.inst.map13First) 13) s)

/-- Registers R and Ru1 of an MMC whose image begins at `v` and whose Ru1 was `c`, once `k` words have been loaded: the image
address and the page are advanced, the count is what is left, 0 at the end (R527); the other bits stay (D46). -/
def imageProgress (r : BitVec 4) (b : ControlBlock) (v : WordAddr) (c : Word) (k : Nat) (s : State) : State :=
  setReg (ru1 r) ((field c 0 7 - BitVec.ofNat 8 k) ++ field c 8 14 ++ (field c 15 22 + BitVec.ofNat 8 k * b.step) ++
    field c 23 31) (setReg r (withWordAddress s (getReg s r) (wordPlus s v k)) s)

/-- Image word `k`. Its trap has RA = 1, a parity error in the first word too: R532 sets the indicator for a parity error in
any image word, while R667 sets it only once something has been written (DESIGN CHOICE, log 31). At a word that is
nonexistent or protected, inside the image or because the MMC has remapped its own image page, R and Ru1 show the point
reached, as R668 wants, although R527 writes them at the end only and R532 leaves them unaltered when the test beforehand
fails (DESIGN CHOICE, log 29); at a parity error they keep their initial values (R532). -/
def imageWord (r : BitVec 4) (b : ControlBlock) (v : WordAddr) (c : Word) (k : Nat) : Act Word := fun s =>
  match readWord s (wordPlus s v k) with
  | .ok w => .ok w s
  | .error t => .error (.trap { t with ra := true }) (if t.loc = 0x40#8 then imageProgress r b v c k s else s)

/-- The image words from number `k` on loaded, `n` of them (R527). -/
def loadImage (r : BitVec 4) (b : ControlBlock) (v : WordAddr) (c : Word) (k : Nat) : Nat → Act Unit
  | 0 => pure ()
  | n + 1 => do
    let w ← imageWord r b v c k
    change (loadControlWord b (field c 15 22 + BitVec.ofNat 8 k * b.step) w)
    loadImage r b v c (k + 1) n

/-- The image word count: bits 0-7 of Ru1, 0 meaning 256 (R527). -/
def imageCount (w : Word) : Nat := if field w 0 7 = 0 then 256 else (field w 0 7).toNat

/-- MMC (R526, R527): no effective address is formed. What R and Ru1 hold when a later image word cannot be read is a DESIGN
CHOICE between R527, R532 and R668, settled in `imageWord` (log 29). -/
def execMmc (m : MR) (s : State) : Result := run (do
  requireMaster
  requireEven m.r
  match controlBlock m.x with
  | none => raise (exceptionTrap 0b0010#4 0)
  | some b => do
    let v ← look (fun s => wrapWord s ((getReg s m.r).truncate 22))
    let c ← look (fun s => getReg s (ru1 m.r))
    testEnds v (imageCount c) .read
    loadImage m.r b v c 0 (imageCount c)
    change (imageProgress m.r b v c (imageCount c))
    done) s

/-! ### LRA -/

/-- The virtual word address in the effective word of LRA, for the addressing type CC1 CC2: byte, halfword, word,
doubleword (R533). -/
def realSource (t : BitVec 2) (w : Word) : WordAddr :=
  if t = 0 then (field w 13 29).zeroExtend 22
  else if t = 1 then (field w 14 30).zeroExtend 22
  else if t = 2 then (field w 15 31).zeroExtend 22
  else (field w 16 31 ++ 0#1).zeroExtend 22

/-- A real word address shifted back to the alignment, with the low bits of the effective word (R533). -/
def realAligned (t : BitVec 2) (a : WordAddr) (w : Word) : BitVec 24 :=
  if t = 0 then a ++ field w 30 31
  else if t = 1 then 0#1 ++ a ++ field w 31 31
  else if t = 2 then a.zeroExtend 24
  else (a.extractLsb' 1 21).zeroExtend 24

/-- The word and the condition code that LRA leaves (R533). -/
def loadRealAddress (s : State) (w : Word) : Word × BitVec 4 :=
  let t : BitVec 2 := (ccOf s).extractLsb' 2 2
  let v := realSource t w
  if v.toNat < 16 then (w, 0b1100#4)
  else
    let a := mapped s v
    let real := homespaceBias s a
    (0#1 ++ BitVec.ofBool (decide (a.toNat < 1024)) ++ 0#4 ++ lockOf s a ++ realAligned t real w,
      (if memExists s real then 0b00#2 else 0b11#2) ++ accOf s (pageOf v))

/-- LRA (R533): the traps of the effective word only. -/
def execLra (m : MR) (s : State) : Result := run (do
  requireMaster
  let w ← need (operandWord · m)
  let (v, cc) ← look (fun s => loadRealAddress s w)
  change (fun s => setCC cc (setReg m.r v s))
  done) s

/-! ### LMS -/

/-- Memory status word 0: the fault bits 1-8, 12 and 13, the bank number in bits 14-15, the rest fixed per bank (R535). -/
def statusWord0 (b : Bank) : Word :=
  (b.sw0Other &&& 0x8070FFFF#32) ||| (b.faults &&& 0x7F8C0000#32) ||| (b.number.zeroExtend 32 <<< 16)

/-- Memory status word 1: the clock margins in bits 14-18, the rest configuration (R536). -/
def statusWord1 (b : Bank) : Word := (b.sw1Config &&& 0xFFFC1FFF#32) ||| (b.margins.zeroExtend 32 <<< 13)

/-- Memory status word 2: the address snapshot, while there is none a value that the spec leaves open (R537, U11, log
15). -/
def statusWord2 (b : Bank) : Word := b.sw2Other ++ b.snap.getD b.sw2Idle

/-- A status word of the bank that holds a real address. -/
def bankStatus (f : Bank → Word) (s : State) (a : WordAddr) : Word :=
  match bankAt s a with
  | some b => f b
  | none => 0

/-- The status bits of a bank cleared, with its memory fault signal; `idle` is what status word 2 reads from then on (R534
actions 1100 and 1110). -/
def clearBank (idle : WordAddr) (b : Bank) : Bank := { b with faults := 0, snap := none, sw2Idle := idle, mfi := false }

/-- The actions of LMS (R534). -/
inductive LmsAction where
  | loadAndSet | inhibitParity | setBadParity | setMargins | status (f : Bank → Word) (clear : Bool) | clearMemory
  | reserved

/-- The action of the initial condition code (R534). -/
def lmsAction (cc : BitVec 4) : LmsAction :=
  if cc = 0b0000#4 then .loadAndSet
  else if cc = 0b0001#4 then .inhibitParity
  else if cc = 0b0010#4 then .setBadParity
  else if cc = 0b0111#4 then .setMargins
  else if cc = 0b1000#4 then .status statusWord0 false
  else if cc = 0b1001#4 then .status statusWord1 false
  else if cc = 0b1010#4 then .status statusWord2 false
  else if cc = 0b1100#4 then .status statusWord0 true
  else if cc = 0b1110#4 then .status statusWord2 true
  else if cc = 0b1111#4 then .clearMemory
  else .reserved

/-- The condition code that LMS leaves: CC1 a parity error that "read and inhibit parity" found, CC3 the parity bit that
memory returns, a free value (R534, D45, log 15). -/
def finishLms (parity : Bool) : Act Unit := do
  let c ← draw 1
  change (setCC (BitVec.ofBool parity ++ 0#1 ++ c ++ 0#1))
  done

/-- The register loaded with the result of an LMS action. -/
def lmsResult (r : BitVec 4) (w : Word) : Act Unit := do
  change (setReg r w)
  finishLms false

/-- LMS (R534-R537): always memory, even below address 16. -/
def execLms (m : MR) (s : State) : Result := run (do
  requireMaster
  let v ← need (effWordAddr · m alignWord)
  match lmsAction (← look ccOf) with
  | .loadAndSet => do
    let w ← loadAndSet v
    lmsResult m.r w
  | .inhibitParity => do
    let a ← need (fun s => locateMemory s v .read)
    let bad ← look (fun s => parityBad s a)
    change (fun s => setReg m.r (readWordAt s.mem a) s)
    finishLms bad
  | .setBadParity => do
    let a ← need (fun s => locateMemory s v .read)
    let w ← need (fun s => readLoc s (.mem a))
    change (fun s => { s with badParity := a.toNat :: s.badParity })
    lmsResult m.r w
  | .setMargins => do
    let a ← need (fun s => locateMemory s v .read)
    change (fun s => { s with
      banks := updateBanks (fun b => { b with margins := field (getReg s m.r) 8 12 }) a s.banks })
    finishLms false
  | .status f clear => do
    let a ← need (fun s => locateMemory s v .read)
    let w ← look (fun s => bankStatus f s a)
    lmsResult m.r w
    if clear then
      let idle ← draw 22
      change (fun s => { s with banks := updateBanks (clearBank idle) a s.banks })
    else pure ()
  | .clearMemory => do
    let a ← need (fun s => locateMemory s v .write)
    change (writeLoc (.mem a) 0)
    finishLms false
  | .reserved => do
    let a ← need (fun s => locateMemory s v .read)
    change (setReg m.r 0)
    altering (raise (parityTrap swReservedCode a))) s

/-! ### WAIT -/

/-- WAIT (R538): the indirect bit and the address are not used, no indirect word is read (log 41). -/
def execWait (_ : MR) (s : State) : Result := run (do
  requireMaster
  done
  change (fun s => { s with halt := .waiting })) s

/-! ### RD and WD -/

/-- The lines that an external element never answers (60 R657, TCC4): the watchdog trap, or no end at all with the timer
overridden (log 21). -/
def busHangs {α : Type} (tcc : BitVec 4) : Act α := do
  if ← look (fun s => s.inst.watchdogOverride) then stopWith .busHang
  else raise { loc := 0x46#8, tcc := tcc, fault := some .watchdog }

/-- `DIO_READ` and `DIO_WRITE`: the address, and for WD the data, presented on the RD/WD lines, and the answer of the
element there: data, CC3 and CC4; with nothing attached free values (R539, R546, D30, U13, log 17). -/
def dioRespond (q : DioRequest) : Act (Word × Bool × Bool) := do
  change (fun s => { s with dioRequest := some q })
  match ← look (fun s => s.dioScript) with
  | [] => do
    let d ← draw 32
    let c ← draw 2
    pure (d, c.getLsbD 1, c.getLsbD 0)
  | .answer d c3 c4 :: rest => do
    change (fun s => { s with dioScript := rest })
    pure (d, c3, c4)
  | .silent :: rest => do
    change (fun s => { s with dioScript := rest })
    busHangs 0b0001#4

/-- Register R loaded by RD: not when R is 0 (R539). -/
def rdLoad (r : BitVec 4) (w : Word) (s : State) : State := if r = 0 then s else setReg r w s

/-- The word of the internal controls (R542). -/
def internalControls (s : State) : Word :=
  0#6 ++ s.inst.cpuNumber ++ s.clockMargin ++ 0#1 ++ BitVec.ofBool s.inst.powerNormal ++ s.inst.homespaceBias ++
    s.inst.model.code ++ 0#12

/-- The inhibits as three bits (R543). -/
def inhibits (s : State) : BitVec 3 :=
  BitVec.ofBool s.psd.ci ++ BitVec.ofBool s.psd.ii ++ BitVec.ofBool s.psd.ei

/-- The inhibits loaded from three bits (R548, R549, R552). -/
def setInhibits (v : BitVec 3) (s : State) : State :=
  { s with psd := { s.psd with ci := v.getLsbD 2, ii := v.getLsbD 1, ei := v.getLsbD 0 } }

/-- RD of the snapshot sample register (R544, U12, log 16). -/
def rdSnapshot (r : BitVec 4) : Act Unit := do
  let w ← draw 32
  change (rdLoad r w)
  if ← look (fun s => s.snapArmed) then
    change (fun s => setCC34 true false { s with snapArmed := false })
  else do
    let c ← draw 1
    change (setCC34 false (c.getLsbD 0))

/-- RD mode 0, internal computer control (R540-R544, D16). -/
def rdInternal (r : BitVec 4) (a : Half) : Act Unit :=
  if a = 0x0000#16 then change (fun s => setCC s.inst.sense s)
  else if a = 0x0045#16 then change (fun s => rdLoad r (internalControls s) s)
  else if a = 0x0048#16 then change (fun s => rdLoad r ((inhibits s).zeroExtend 32) s)
  else if a = 0x0049#16 then rdSnapshot r
  else pure ()

/-- The flip-flops of the group that bits 28-31 of the effective address name, as a mask over register bits 16-31; group 0
lies in bits 16-27, the power levels in it have no bit there (R545, R671). -/
def controlGroup (a : Half) : Option LevelGroup :=
  let g : BitVec 4 := a.extractLsb' 0 4
  if g = 0 then some .internal
  else if g = 1 then none
  else if h : g.toNat - 2 < 14 then some (.external ⟨g.toNat - 2, h⟩)
  else none

/-- The mask that RD reads from a group (R545). -/
def rdMask (code : BitVec 3) (g : IntGroup) : Option (BitVec 16) :=
  if code = 0b001#3 then some g.aw
  else if code = 0b010#3 then some g.wa
  else if code = 0b100#3 then some g.en
  else none

/-- RD mode 1, interrupt control (R545, D16). -/
def rdInterrupt (r : BitVec 4) (a : Half) (s : State) : State :=
  match controlGroup a with
  | none => s
  | some g =>
    if installed s g = 0 then s
    else match rdMask (a.extractLsb' 8 3) (groupOf s.ints g) with
      | none => s
      | some k => rdLoad r ((k &&& installed s g).zeroExtend 32) s

/-- RD (R539). -/
def execRd (m : MR) (s : State) : Result := run (do
  requireMaster
  let v ← need (effWordAddr · m alignWord)
  let a : Half := v.extractLsb' 0 16
  if a.extractLsb' 12 4 = 0#4 then rdInternal m.r a
  else if a.extractLsb' 12 4 = 1#4 then change (rdInterrupt m.r a)
  else do
    let (d, c3, c4) ← dioRespond ⟨a, none⟩
    change (fun s => setCC34 c3 c4 (setCC12 false false (rdLoad m.r d s)))
  done) s

/-- The data that WD transmits: zeros when R is 0 (R546). -/
def wdData (s : State) (r : BitVec 4) : Word := if r = 0 then 0 else getReg s r

/-- WD mode 0, internal computer control (R547-R555, D16). -/
def wdInternal (data : Word) (a : Half) (s : State) : State :=
  if a.extractLsb' 3 13 = 0b0000000000100#13 then setInhibits (inhibits s &&& ~~~ (a.extractLsb' 0 3)) s
  else if a.extractLsb' 3 13 = 0b0000000000110#13 then setInhibits (inhibits s ||| a.extractLsb' 0 3) s
  else if a = 0x0040#16 then { s with alarm := false }
  else if a = 0x0041#16 then { s with alarm := true }
  else if a = 0x0042#16 then { s with pcf := !s.pcf, alarm := false }
  else if a = 0x0045#16 then { s with clockMargin := field data 8 9 }
  else if a = 0x0046#16 then { s with psd := { s.psd with ma := false } }
  else if a = 0x0047#16 then { s with psd := { s.psd with ma := true } }
  else if a = 0x0048#16 then setInhibits (field data 29 31) s
  else if a = 0x0049#16 then { s with snapControl := data, snapArmed := true }
  else s

/-- The function of WD mode 1 on the levels `m` of a group whose installed levels are `all` (R556, R672-R675). -/
def IntGroup.control (code : BitVec 3) (m all : BitVec 16) (g : IntGroup) : IntGroup :=
  if code = 0b000#3 then IntGroup.setActive m g
  else if code = 0b001#3 then IntGroup.disarm m g
  else if code = 0b010#3 then IntGroup.arm m { g with en := g.en ||| m }
  else if code = 0b011#3 then IntGroup.arm m { g with en := g.en &&& ~~~ m }
  else if code = 0b100#3 then { g with en := g.en ||| m }
  else if code = 0b101#3 then { g with en := g.en &&& ~~~ m }
  else if code = 0b110#3 then { g with en := (g.en &&& ~~~ all) ||| m }
  else IntGroup.signal m g

/-- WD mode 1, interrupt control (R556). -/
def wdInterrupt (data : Word) (a : Half) (s : State) : State :=
  match controlGroup a with
  | none => s
  | some g =>
    let f := IntGroup.control (a.extractLsb' 8 3) (field data 16 31 &&& installed s g) (installed s g)
    { s with ints := updateGroup s.ints g f }

/-- WD (R546). The updated instruction address is that of the mode in which the instruction began (R490). -/
def execWd (m : MR) (s : State) : Result := run (do
  requireMaster
  let v ← need (effWordAddr · m alignWord)
  let a : Half := v.extractLsb' 0 16
  if a.extractLsb' 12 4 = 0#4 then do
    done
    change (fun s => wdInternal (wdData s m.r) a s)
  else if a.extractLsb' 12 4 = 1#4 then do
    done
    change (fun s => wdInterrupt (wdData s m.r) a s)
  else do
    let data ← look (wdData · m.r)
    let (_, c3, c4) ← dioRespond ⟨a, some data⟩
    change (fun s => setCC34 c3 c4 (setCC12 false false s))
    done) s

end Sys2Proof.Machine
end

