-- ==== Sys2Proof/Machine/FixedPoint.lean ====
section
/-! DEFINITION. Analyze, interpret and fixed-point arithmetic (41_analyze_interpret_fixed_point). -/

namespace Sys2Proof.Machine

open Sys2Proof

/-! ### Analyze and interpret -/

/-- The addressing-type groups of ANLZ (R261). -/
inductive AddressGroup where
  | byte | immediateByte | half | word | immediateWord | dword
deriving DecidableEq, Repr

/-- CC1, CC2 and CC4 of a group (R261). -/
def AddressGroup.code : AddressGroup → Bool × Bool × Bool
  | .byte => (false, false, false)
  | .immediateByte => (false, false, true)
  | .half => (false, true, false)
  | .word => (true, false, false)
  | .immediateWord => (true, false, true)
  | .dword => (true, true, false)

/-- The index alignment of a group, none for the immediate groups (R260, R263). -/
def AddressGroup.align : AddressGroup → Option Nat
  | .byte => some alignByte
  | .immediateByte => none
  | .half => some alignHalf
  | .word => some alignWord
  | .immediateWord => none
  | .dword => some alignDword

/-- The group of an operation code, the unassigned codes going with the cells around them (R261, R262, D27). -/
def groupOfOp (op : BitVec 7) : AddressGroup :=
  let n := op.toNat
  if n < 0x08 then (if n = 0x02 then .immediateWord else .word)
  else if n < 0x20 then .dword
  else if n < 0x24 then .immediateWord
  else if n < 0x40 then .word
  else if n < 0x44 then .immediateByte
  else if n < 0x50 then .word
  else if n < 0x60 then .half
  else if n < 0x64 then .immediateByte
  else if n < 0x70 then .word
  else .byte

/-- `master_protected` (10_state R48). -/
def masterProtected (s : State) : Bool := !s.psd.ms && s.psd.mm && s.psd.ma

/-- What an ANLZ in master-protected mode delivers instead of trapping: the code of R5-R7 and the address (R264); a memory
fault is noted by its bank all the same (R659). -/
structure AnalyzeStop where
  code : BitVec 3
  address : WordAddr
  bankFault : Option (Word × WordAddr)
deriving DecidableEq, Repr

/-- A step of ANLZ that can meet a trap: in master-protected mode a trap ends the analysis with a code, in the other
modes it is taken (R260, R264). -/
def analyzeAccess {α : Type} (s : State) (code : BitVec 3) (address : WordAddr) (e : Except Trap α) :
    Except (Trap ⊕ AnalyzeStop) α :=
  match e with
  | .ok a => .ok a
  | .error t => .error (if masterProtected s then .inr ⟨code, address, t.bankFault⟩ else .inl t)

/-- The word ANLZ analyzes (R260, R264). -/
def analyzedWord (s : State) (m : MR) : Except (Trap ⊕ AnalyzeStop) Word := do
  let v ← analyzeAccess s 0b111#3 (directRef s m) (effWordAddr s m alignWord)
  analyzeAccess s 0b011#3 v (readWord s v)

/-- The effective address of the analyzed instruction, aligned as a displacement of its group's size (R260, R263). -/
def analyzedAddress (s : State) (a : Word) (align : Nat) : Except (Trap ⊕ AnalyzeStop) Word := do
  let b ← analyzeAccess s 0b001#3 (directRef s (refOf a)) (effAddr s (refOf a) align)
  pure ((b >>> align).zeroExtend 32)

/-- The register of an ANLZ that stopped: the code in bits 5-7 and the word address in bits 8-31, bits 0-4 zero (R264,
D29). -/
def analyzeStopWord (x : AnalyzeStop) : Word := 0#5 ++ x.code ++ 0#2 ++ x.address

/-- The condition code of the analyzed word (R261). -/
def analyzeCC (a : Word) (s : State) : State :=
  let c := (groupOfOp (opOf a)).code
  setCC34 (bit a 0) c.2.2 (setCC12 c.1 c.2.1 s)

/-- The register of ANLZ once the word has been fetched. -/
def analyzeRegister (m : MR) (a : Word) : Act Unit :=
  match (groupOfOp (opOf a)).align with
  | none => pure ()
  | some align => fun s =>
    match analyzedAddress s a align with
    | .ok v => .ok () (setReg m.r v s)
    | .error (.inr x) => .ok () (setReg m.r (analyzeStopWord x) (reportBankFault x.bankFault s))
    | .error (.inl t) => .error (.trap t) s

/-- ANLZ (R260-R264). When the word to analyze could not be fetched the condition code is free (U4, log 13). -/
def execAnlz (m : MR) (s : State) : Result := run (do
  match ← look (analyzedWord · m) with
  | .ok a =>
    analyzeRegister m a
    change (analyzeCC a)
  | .error (.inr x) =>
    change (fun s => setReg m.r (analyzeStopWord x) (reportBankFault x.bankFault s))
    let cc ← draw 4
    change (setCC cc)
  | .error (.inl t) => raise t
  done) s

/-- INT (R265): R first, then Ru1. -/
def execInt (m : MR) (s : State) : Result := run (do
  let w ← need (operandWord · m)
  change (fun s => setReg (ru1 m.r) ((field w 16 31).zeroExtend 32) (setReg m.r ((field w 4 15).zeroExtend 32) s))
  change (setCC (field w 0 3))
  done) s

/-! ### Add and subtract -/

/-- Register R receives a sum or difference and the condition code its flags (R266). -/
def putResult (r : BitVec 4) (x : Word × Bool × Bool) (s : State) : State := arithCC x (setReg r x.1 s)

/-- R and Ru1 receive a 64-bit sum or difference (R266, R271). -/
def putResultPair (r : BitVec 4) (x : Dword × Bool × Bool) (s : State) : State := arithCC x (setRegPair r x.1 s)

/-- AI (R268). -/
def execAi (i : Imm) (s : State) : Result := run (do
  change (fun s => putResult i.r (addFlags (getReg s i.r) (immediate i)) s)
  doneWithOverflow) s

/-- AH (R269). -/
def execAh (m : MR) (s : State) : Result := run (do
  let h ← need (operandHalf · m)
  change (fun s => putResult m.r (addFlags (getReg s m.r) (h.signExtend 32)) s)
  doneWithOverflow) s

/-- AW (R270). -/
def execAw (m : MR) (s : State) : Result := run (do
  let w ← need (operandWord · m)
  change (fun s => putResult m.r (addFlags (getReg s m.r) w) s)
  doneWithOverflow) s

/-- AD (R271). -/
def execAd (m : MR) (s : State) : Result := run (do
  requireEven m.r
  let d ← need (operandDword · m)
  change (fun s => putResultPair m.r (addFlags (getRegPair s m.r) d) s)
  doneWithOverflow) s

/-- SH (R272). -/
def execSh (m : MR) (s : State) : Result := run (do
  let h ← need (operandHalf · m)
  change (fun s => putResult m.r (subFlags (getReg s m.r) (h.signExtend 32)) s)
  doneWithOverflow) s

/-- SW (R273). -/
def execSw (m : MR) (s : State) : Result := run (do
  let w ← need (operandWord · m)
  change (fun s => putResult m.r (subFlags (getReg s m.r) w) s)
  doneWithOverflow) s

/-- SD (R274). -/
def execSd (m : MR) (s : State) : Result := run (do
  requireEven m.r
  let d ← need (operandDword · m)
  change (fun s => putResultPair m.r (subFlags (getRegPair s m.r) d) s)
  doneWithOverflow) s

/-! ### Multiply and divide -/

/-- The 64-bit product of two signed words (R277). -/
def product (a b : Word) : Dword := a.signExtend 64 * b.signExtend 64

/-- R the high word and then Ru1 the low word of a product; CC2 if Ru1 alone does not hold it, CC3 CC4 its sign (R275,
R277). -/
def putProduct (r : BitVec 4) (p : Dword) (s : State) : State :=
  setCC2 (p != (loWord p).signExtend 64) (signCC p (setReg (ru1 r) (loWord p) (setReg r (hiWord p) s)))

/-- MI (R275). -/
def execMi (i : Imm) (s : State) : Result := run (do
  change (fun s => putProduct i.r (product (getReg s (ru1 i.r)) (immediate i)) s)
  done) s

/-- MH (R276). -/
def execMh (m : MR) (s : State) : Result := run (do
  let h ← need (operandHalf · m)
  change (fun s => loadWord (ru1 m.r) (((getReg s m.r).truncate 16).signExtend 32 * h.signExtend 32) s)
  done) s

/-- MW (R277). -/
def execMw (m : MR) (s : State) : Result := run (do
  let w ← need (operandWord · m)
  change (fun s => putProduct m.r (product (getReg s (ru1 m.r)) w) s)
  done) s

/-- The quotient and remainder of a division truncated toward zero, unless the divisor is 0 or the quotient does not fit
32 bits (R278, R279, D34). -/
def divide (n d : Int) : Option (Int × Int) :=
  if d = 0 then none
  else if Int.tdiv n d < -2147483648 ∨ 2147483647 < Int.tdiv n d then none
  else some (Int.tdiv n d, Int.tmod n d)

/-- The overflow of DH and DW: only CC2 changes, and with AM = 1 the instruction traps as an aborted one (R278, R279,
R656). -/
def divideOverflow : Act Unit := do
  change (setCC2 true)
  if ← look (·.psd.am) then raise { loc := 0x43#8 } else done

/-- DH (R278). -/
def execDh (m : MR) (s : State) : Result := run (do
  let h ← need (operandHalf · m)
  match ← look (fun s => divide (getReg s m.r).toInt h.toInt) with
  | some (q, _) =>
    change (fun s => setCC2 false (loadWord m.r (BitVec.ofInt 32 q) s))
    done
  | none => divideOverflow) s

/-- The dividend of DW (R279). -/
def dividend (s : State) (r : BitVec 4) : Int :=
  if oddR r then (getReg s r).toInt else (getRegPair s r).toInt

/-- DW (R279): R the remainder, then Ru1 the quotient. -/
def execDw (m : MR) (s : State) : Result := run (do
  let w ← need (operandWord · m)
  match ← look (fun s => divide (dividend s m.r) w.toInt) with
  | some (q, rem) =>
    change (fun s => setCC2 false (loadWord (ru1 m.r) (BitVec.ofInt 32 q) (setReg m.r (BitVec.ofInt 32 rem) s)))
    done
  | none => divideOverflow) s

/-! ### Memory-modifying arithmetic -/

/-- AWM (R280). -/
def execAwm (m : MR) (s : State) : Result := run (do
  let v ← need (effWordAddr · m alignWord)
  let (l, w) ← need (readForUpdate swReadParity · v)
  let x ← look (fun s => addFlags w (getReg s m.r))
  change (writeLoc l x.1)
  change (arithCC x)
  doneWithOverflow) s

/-- The operand of a modify-and-test instruction: write access only if the R field is nonzero; a read of its own before
the write, which a word of bad parity meets as a read error (R281-R284). -/
def modifyOperand (r : BitVec 4) (v : WordAddr) : Act (Loc × Word) :=
  if r = 0 then do
    let w ← need (readWord · v)
    pure (.reg 0, w)
  else need (readForUpdate swReadParity · v)

/-- The modified word stored, unless the R field is zero (R281-R283). -/
def modifyStore (r : BitVec 4) (l : Loc) (w : Word) (s : State) : State := if r = 0 then s else writeLoc l w s

/-- MTB (R281): unsigned, no overflow. -/
def execMtb (m : MR) (s : State) : Result := run (do
  let b ← need (effAddr · m alignByte)
  let (l, w) ← modifyOperand m.r (wordOf b)
  let x := addFlags (byteOf w (b.extractLsb' 0 2)) (m.r.signExtend 8)
  change (modifyStore m.r l (withByte w (b.extractLsb' 0 2) x.1))
  change (fun s => setCC34 (x.1 != 0) false (setCC12 x.2.1 false s))
  done) s

/-- MTH (R282). -/
def execMth (m : MR) (s : State) : Result := run (do
  let b ← need (effAddr · m alignHalf)
  let (l, w) ← modifyOperand m.r (wordOf b)
  let x := addFlags (halfOf w (b.extractLsb' 1 1)) (m.r.signExtend 16)
  change (modifyStore m.r l (withHalf w (b.extractLsb' 1 1) x.1))
  change (arithCC x)
  doneWithOverflow) s

/-- MTW (R283). -/
def execMtw (m : MR) (s : State) : Result := run (do
  let v ← need (effWordAddr · m alignWord)
  let (l, w) ← modifyOperand m.r v
  let x := addFlags w (m.r.signExtend 32)
  change (modifyStore m.r l x.1)
  change (arithCC x)
  doneWithOverflow) s

end Sys2Proof.Machine
end

