-- ==== Sys2Proof/Machine/Floating.lean ====
section
/-! DEFINITION. Floating-point arithmetic instructions (43_floating_point). Numbers are computed exactly on magnitudes
and integers, as R344 says, and packed at the end; `d` is the number of fraction digits, 6 short and 14 long. -/

namespace Sys2Proof.Machine

open Sys2Proof

/-- A floating-point number unpacked: its sign, its characteristic, which a computation may take outside 0-127, and its
fraction as an integer (R344). -/
structure FloatNum where
  neg : Bool
  ch : Int
  fr : Nat
deriving DecidableEq, Repr

/-- `Unpack` (R344). -/
def unpack {w : Nat} (d : Nat) (v : BitVec w) : FloatNum :=
  let m := (if v.msb then -v else v).toNat
  { neg := v.msb, ch := ((m / 16 ^ d) % 128 : Nat), fr := m % 16 ^ d }

/-- `Pack` of a characteristic within 0-127 and a nonzero fraction (R344). -/
def pack (w d : Nat) (x : FloatNum) : BitVec w :=
  let m := BitVec.ofNat w (x.ch.toNat * 16 ^ d + x.fr)
  if x.neg then -m else m

/-- How a floating-point operation ends: with a value and a condition code, or with the fault trap and the condition
code that gives its reason (R343). -/
inductive FloatEnd (w : Nat) where
  | value (v : BitVec w) (cc : BitVec 4)
  | trap (cc : BitVec 4)
deriving DecidableEq, Repr

/-- `a b (not neg) neg`, the condition codes of R346 and R349. -/
def floatCC (a b neg : Bool) : BitVec 4 :=
  BitVec.ofBool a ++ BitVec.ofBool b ++ BitVec.ofBool (!neg) ++ BitVec.ofBool neg

/-- `FAddCore` (R345, D38): guard digits, alignment with truncation, the exact signed sum, one right shift on a carry. -/
def floatSum (d g : Nat) (a b : FloatNum) : FloatNum :=
  let fa := a.fr * 16 ^ g
  let fb := b.fr * 16 ^ g
  let ga := if b.ch ≤ a.ch then fa else fa / 16 ^ (b.ch - a.ch).toNat
  let gb := if b.ch ≤ a.ch then fb / 16 ^ (a.ch - b.ch).toNat else fb
  let c := if b.ch ≤ a.ch then a.ch else b.ch
  let s : Int := (if a.neg then -(ga : Int) else ga) + (if b.neg then -(gb : Int) else gb)
  let m := s.natAbs
  if 16 ^ (d + g) ≤ m then { neg := decide (s < 0), ch := c + 1, fr := m / 16 }
  else { neg := decide (s < 0), ch := c, fr := m }

/-- Left shifts, at most `n`, until the leading of `digits` digits is nonzero: the number and how many shifts (R346,
R347). -/
def normalizeSteps (digits : Nat) : Nat → FloatNum × Nat → FloatNum × Nat
  | 0, x => x
  | n + 1, (x, k) =>
    if x.fr < 16 ^ (digits - 1) then normalizeSteps digits n ({ x with fr := x.fr * 16, ch := x.ch - 1 }, k + 1)
    else (x, k)

/-- `FAddFinish` (R346). -/
def floatAddFinish (w d g : Nat) (p : Psd) (x : FloatNum) : FloatEnd w :=
  if 127 < x.ch then .trap (floatCC false true x.neg)
  else if p.fn then
    let f := x.fr / 16 ^ g
    if f = 0 then .value 0 0b0000#4 else .value (pack w d { x with fr := f }) (floatCC false false x.neg)
  else if x.fr = 0 then (if p.fs then .trap 0b1000#4 else .value 0 0b1000#4)
  else
    let n := normalizeSteps (d + g) (d + g) (x, 0)
    let under := decide (n.1.ch < 0)
    let signif := decide (2 < n.2)
    if under && p.fz then .trap (floatCC true true x.neg)
    else if signif && p.fs then .trap (floatCC true false x.neg)
    else if under then .value 0 0b1100#4
    else .value (pack w d { n.1 with fr := n.1.fr / 16 ^ g }) (floatCC signif false x.neg)

/-- Floating add of the register operand and the memory operand (R345, R346). -/
def floatAdd {w : Nat} (d g : Nat) (p : Psd) (a b : BitVec w) : FloatEnd w :=
  floatAddFinish w d g p (floatSum d g (unpack d a) (unpack d b))

/-- Prenormalization (R347, R348). -/
def prenormalize (d : Nat) (x : FloatNum) : FloatNum := (normalizeSteps d d (x, 0)).1

/-- `FMulDivFinish` (R349). -/
def floatMulDivFinish (w d : Nat) (p : Psd) (x : FloatNum) : FloatEnd w :=
  if 127 < x.ch then .trap (floatCC false true x.neg)
  else if x.ch < 0 then (if p.fz then .trap (floatCC true true x.neg) else .value 0 0b1100#4)
  else .value (pack w d x) (floatCC false false x.neg)

/-- `FMul` (R347). -/
def floatMul {w : Nat} (d : Nat) (p : Psd) (va vb : BitVec w) : FloatEnd w :=
  let a := unpack d va
  let b := unpack d vb
  if a.fr = 0 ∨ b.fr = 0 then .value 0 0b0000#4
  else
    let a := prenormalize d a
    let b := prenormalize d b
    let m := a.fr * b.fr
    let c := a.ch + b.ch - 64
    let neg := a.neg != b.neg
    if m < 16 ^ (2 * d - 1) then floatMulDivFinish w d p { neg := neg, ch := c - 1, fr := m * 16 / 16 ^ d }
    else floatMulDivFinish w d p { neg := neg, ch := c, fr := m / 16 ^ d }

/-- `FDiv` (R348). -/
def floatDiv {w : Nat} (d : Nat) (p : Psd) (va vb : BitVec w) : FloatEnd w :=
  let a := unpack d va
  let b := unpack d vb
  if b.fr = 0 then .trap 0b0100#4
  else if a.fr = 0 then .value 0 0b0000#4
  else
    let a := prenormalize d a
    let b := prenormalize d b
    let c := a.ch - b.ch + 64
    let neg := a.neg != b.neg
    if b.fr ≤ a.fr then
      floatMulDivFinish w d p { neg := neg, ch := c + 1, fr := a.fr * 16 ^ (d - 1) / b.fr }
    else floatMulDivFinish w d p { neg := neg, ch := c, fr := a.fr * 16 ^ d / b.fr }

/-- The end of a floating-point instruction: the value is put where it belongs with its condition code; or the condition
code gives the reason and the aborted instruction traps to X'44', registers unchanged (R343, R658). -/
def floatFinish {w : Nat} (put : BitVec w → State → State) (e : FloatEnd w) : Act Unit :=
  match e with
  | .value v cc => do
    change (fun s => setCC cc (put v s))
    done
  | .trap cc => do
    change (setCC cc)
    raise { loc := 0x44#8 }

/-- FAS (R350). -/
def execFas (m : MR) (s : State) : Result := run (do
  let w ← need (operandWord · m)
  let e ← look (fun s => floatAdd 6 1 s.psd (getReg s m.r) w)
  floatFinish (setReg m.r) e) s

/-- FAL (R351). -/
def execFal (m : MR) (s : State) : Result := run (do
  requireEven m.r
  let d ← need (operandDword · m)
  let e ← look (fun s => floatAdd 14 0 s.psd (getRegPair s m.r) d)
  floatFinish (setRegPair m.r) e) s

/-- FSS (R352). -/
def execFss (m : MR) (s : State) : Result := run (do
  let w ← need (operandWord · m)
  let e ← look (fun s => floatAdd 6 1 s.psd (getReg s m.r) (-w))
  floatFinish (setReg m.r) e) s

/-- FSL (R353). -/
def execFsl (m : MR) (s : State) : Result := run (do
  requireEven m.r
  let d ← need (operandDword · m)
  let e ← look (fun s => floatAdd 14 0 s.psd (getRegPair s m.r) (-d))
  floatFinish (setRegPair m.r) e) s

/-- FMS (R354). -/
def execFms (m : MR) (s : State) : Result := run (do
  let w ← need (operandWord · m)
  let e ← look (fun s => floatMul 6 s.psd (getReg s m.r) w)
  floatFinish (setReg m.r) e) s

/-- FML (R355). -/
def execFml (m : MR) (s : State) : Result := run (do
  requireEven m.r
  let d ← need (operandDword · m)
  let e ← look (fun s => floatMul 14 s.psd (getRegPair s m.r) d)
  floatFinish (setRegPair m.r) e) s

/-- FDS (R356). -/
def execFds (m : MR) (s : State) : Result := run (do
  let w ← need (operandWord · m)
  let e ← look (fun s => floatDiv 6 s.psd (getReg s m.r) w)
  floatFinish (setReg m.r) e) s

/-- FDL (R357). -/
def execFdl (m : MR) (s : State) : Result := run (do
  requireEven m.r
  let d ← need (operandDword · m)
  let e ← look (fun s => floatDiv 14 s.psd (getRegPair s m.r) d)
  floatFinish (setRegPair m.r) e) s

end Sys2Proof.Machine
end

