-- ==== Sys2Proof/Machine/InputOutput.lean ====
section
/-! DEFINITION. Input/output instructions (49_input_output). The I/O system is an external agent: the CPU presents each
exchange in `ioRequest`, the answers are the entries of `ioScript`, and with none attached no address is recognized (R586,
D30, log 7). -/

namespace Sys2Proof.Machine

open Sys2Proof

/-- The answer when no I/O system is attached: address not recognized, nothing else changed (R586, D30). -/
def noIoSystem (s : State) : IoAnswer := .answer true true false 0 0 none s.ioLine

/-- The exchange is presented to the I/O system (R586). -/
def presentIo (q : IoRequest) (s : State) : State := { s with ioRequest := some q }

/-- `IO_RESPOND` (R586): the next answer of the I/O system to what the CPU presents. -/
def ioRespond (q : IoRequest) : Act IoAnswer := fun s =>
  match s.ioScript with
  | [] => .ok (noIoSystem s) (presentIo q s)
  | x :: rest => .ok x { presentIo q s with ioScript := rest }

/-- The condition code that the tables call not possible for an instruction: 101 for SIO, TIO and TDV (R602, R604, R606),
100 and 101 for HIO (R608), 111 for AIO (R614). -/
def notPossible : IoKind → Bool → Bool → Bool → Bool
  | .sio, c1, c2, c3 => c1 && !c2 && c3
  | .tio, c1, c2, c3 => c1 && !c2 && c3
  | .tdv, c1, c2, c3 => c1 && !c2 && c3
  | .hio, c1, c2, _ => c1 && !c2
  | .aio, c1, c2, c3 => c1 && c2 && c3
  | .rio, _, _, _ => false
  | .polp, _, _, _ => false
  | .polr, _, _, _ => false

/-- CC1-CC3 as the instruction's table admits them: an answer that it calls not possible counts as 110, address not
recognized (DESIGN CHOICE, log 7); RIO, POLP and POLR know only a recognized address and 110, and the last of AIO's 10- is
0 (R610, R612, D17). -/
def admitted (k : IoKind) (c1 c2 c3 : Bool) : Bool × Bool × Bool :=
  if notPossible k c1 c2 c3 then (true, true, false)
  else match k with
    | .rio => (c1, c1, false)
    | .polp => (c1, c1, c3 && !c1)
    | .polr => (c1, c1, c3 && !c1)
    | .aio => (c1, c2, c3 && !c1)
    | _ => (c1, c2, c3)

/-- The exchanges that go through the communication locations: SIO, TIO, TDV, HIO and AIO (R582). -/
def IoKind.throughMemory : IoKind → Bool
  | .rio => false
  | .polp => false
  | .polr => false
  | _ => true

/-- What the exchange leaves in the communication locations X'20' and X'21' (R582, U10). -/
def putCommunication (c : Option (Word × Word)) (s : State) : State :=
  match c with
  | none => s
  | some (a, b) =>
    let put (n : WordAddr) (w : Word) (s : State) : State :=
      if memExists s (homespaceBias s n) then writeLoc (.mem (homespaceBias s n)) w s else s
    put 0x21#22 b (put 0x20#22 a s)

/-- What SIO, TIO, TDV and HIO load with CC1 = 0: one status word for odd R, two for even R, none for R = 0 (R583, R586). -/
def putStatus (r : BitVec 4) (w1 w2 : Word) (s : State) : State :=
  if r = 0 then s
  else if oddR r then setReg r w2 s
  else setReg (ru1 r) w2 (setReg r w1 s)

/-- The registers loaded with CC1 = 0: by SIO, TIO, TDV and HIO the status words; by AIO its word, into a nonzero R (R614);
by POLP and POLR the fault status in bits 24-29 of R, register 0 included (R612, R613, D29); by RIO none (R610). -/
def putAnswer (k : IoKind) (r : BitVec 4) (w1 w2 : Word) (s : State) : State :=
  match k with
  | .rio => s
  | .aio => if r = 0 then s else setReg r w2 s
  | .polp => setReg r (0#24 ++ field w2 24 29 ++ 0#2) s
  | .polr => setReg r (0#24 ++ field w2 24 29 ++ 0#2) s
  | _ => putStatus r w1 w2 s

/-- What the CPU presents for the instruction (R581, R586, R602). -/
def requestOf (s : State) (k : IoKind) (r : BitVec 4) (v : WordAddr) : IoRequest where
  kind := k
  address := v.extractLsb' 0 13
  status := r
  command := if k = .sio then some (field (getReg s 0) 11 31) else none

/-- One exchange with the I/O system at the address `v`: the request presented, the communication locations, the interrupt
request line, CC1-CC3 and the registers; a silent system hangs the processor bus (R582, R586, R683, 60 R657 TCC2). -/
def ioExchange (k : IoKind) (r : BitVec 4) (v : WordAddr) : Act Unit := do
  let q ← look (fun s => requestOf s k r v)
  match ← ioRespond q with
  | .silent => busHangs 0b0100#4
  | .answer a1 a2 a3 w1 w2 comm line => do
    let (c1, c2, c3) := admitted k a1 a2 a3
    change (fun s => { putCommunication (if k.throughMemory then comm else none) s with ioLine := line })
    change (fun s => setCC123 c1 c2 c3 (if c1 then s else putAnswer k r w1 w2 s))
    done

/-- The common course of the I/O instructions: privilege, the address formed with its indirect word read, the exchange
(R580, R581). -/
def ioInstruction (k : IoKind) (m : MR) : Act Unit := do
  requireMaster
  let v ← need (effWordAddr · m alignWord)
  ioExchange k m.r v

/-- SIO (R602). -/
def execSio (m : MR) (s : State) : Result := run (ioInstruction .sio m) s

/-- TIO (R604). -/
def execTio (m : MR) (s : State) : Result := run (ioInstruction .tio m) s

/-- TDV (R606). -/
def execTdv (m : MR) (s : State) : Result := run (ioInstruction .tdv m) s

/-- AIO (R614). -/
def execAio (m : MR) (s : State) : Result := run (ioInstruction .aio m) s

/-- The instruction that bits 15-17 of the effective address select: 000 HIO, 001 RIO, 010 POLP, 011 POLR (R601). The
words printed in R610, R612, R613 and R621 place these codes one bit further left; R601's text is followed (DESIGN CHOICE,
log 22). -/
def selection (v : WordAddr) : Option IoKind :=
  if v.extractLsb' 14 3 = 0b000#3 then some .hio
  else if v.extractLsb' 14 3 = 0b001#3 then some .rio
  else if v.extractLsb' 14 3 = 0b010#3 then some .polp
  else if v.extractLsb' 14 3 = 0b011#3 then some .polr
  else none

/-- Operation code X'4F': the instruction that the effective address selects; the unassigned codes are no operation,
address not recognized (R601, D17). -/
def selectedIo (m : MR) : Act Unit := do
  requireMaster
  let v ← need (effWordAddr · m alignWord)
  match selection v with
  | some k => ioExchange k m.r v
  | none => do
    change (setCC123 true true false)
    done

/-- HIO (R608): the word's own bits 15-17 are 000, but the effective address decides (R601, log 22). -/
def execHio (m : MR) (s : State) : Result := run (selectedIo m) s

/-- RIO (R610); the effective address decides (R601). -/
def execRio (m : MR) (s : State) : Result := run (selectedIo m) s

/-- POLP (R612); the effective address decides (R601). -/
def execPolp (m : MR) (s : State) : Result := run (selectedIo m) s

/-- POLR (R613); the effective address decides (R601). The reset of the polled processor is the external agent's. -/
def execPolr (m : MR) (s : State) : Result := run (selectedIo m) s

end Sys2Proof.Machine
end

