-- ==== Sys2Proof/Machine/PushDown.lean ====
section
/-! DEFINITION. Push-down instructions (46_push_down). -/

namespace Sys2Proof.Machine

open Sys2Proof

/-! ### The stack pointer doubleword (R461) -/

/-- The top-of-stack address: 17 bits, in real extended addressing 22 (R461). -/
def stackTop (s : State) (d : Dword) : WordAddr := wrapWord s ((hiWord d).truncate 22)

/-- The space count, SPD[33:47] (R461). -/
def spaceCount (d : Dword) : Nat := ((loWord d).extractLsb' 16 15).toNat

/-- The word count, SPD[49:63] (R461). -/
def wordCount (d : Dword) : Nat := ((loWord d).extractLsb' 0 15).toNat

/-- The trap-on-space inhibit, TS (R461). -/
def spaceInhibit (d : Dword) : Bool := bit (loWord d) 0

/-- The trap-on-word inhibit, TW (R461). -/
def wordInhibit (d : Dword) : Bool := bit (loWord d) 16

/-- A top-of-stack address moved by a number of words, within its width (R461, D8). -/
def stackMove (s : State) (t : WordAddr) (n : Int) : WordAddr := wrapWord s (t + BitVec.ofInt 22 n)

/-- The stack pointer doubleword after `n` words have been added to the stack, `n` negative for a pull (R465-R469). -/
def movedStack (s : State) (d : Dword) (n : Int) : Dword :=
  withWordAddress s (hiWord d) (stackMove s (stackTop s d) n) ++
    (BitVec.ofBool (spaceInhibit d) ++ BitVec.ofInt 15 (spaceCount d - n) ++
      BitVec.ofBool (wordInhibit d) ++ BitVec.ofInt 15 (wordCount d + n))

/-! ### The limit test (R462) -/

/-- A count leaves 0 to 32767 (R462). -/
def countBad (c : Int) : Bool := decide (c < 0) || decide (32767 < c)

/-- `spaceBad` (R462). -/
def spaceBad (d : Dword) (n : Int) : Bool := countBad (spaceCount d - n)

/-- `wordBad` (R462). -/
def wordBad (d : Dword) (n : Int) : Bool := countBad (wordCount d + n)

/-- The abort traps: a failing count whose inhibit is 0 (R462, D19). -/
def limitTraps (d : Dword) (n : Int) : Bool :=
  (spaceBad d n && !spaceInhibit d) || (wordBad d n && !wordInhibit d)

/-- CC1-CC4 of an abort that does not trap: the failing counts, and the status of the unchanged counts (R462, R463). -/
def abortCC (d : Dword) (n : Int) : BitVec 4 :=
  BitVec.ofBool (spaceBad d n) ++ BitVec.ofBool (spaceCount d == 0) ++ BitVec.ofBool (wordBad d n) ++
    BitVec.ofBool (wordCount d == 0)

/-- CC1-CC4 of a completed push-down instruction (R463). -/
def stackCC (d : Dword) (n : Int) : BitVec 4 :=
  0#1 ++ BitVec.ofBool (decide ((spaceCount d : Int) - n = 0)) ++ 0#1 ++
    BitVec.ofBool (decide ((wordCount d : Int) + n = 0))

/-! ### The shared course of the five (R462-R464) -/

/-- `n` words tested for an access, from `t` by steps of `by_` (R464, D42). -/
def testWords (t : WordAddr) (by_ : Int) (k : Access) : Nat → Act Unit
  | 0 => pure ()
  | n + 1 => do
    need (fun s => testAccess s t k)
    let t' ← look (fun s => stackMove s t by_)
    testWords t' by_ k n

/-- The course of a push-down instruction that adds `n` words (R462-R464): the doubleword read, the limits tested, the
stack words and the write-back tested, the words moved, the doubleword written back even word first, CC set. -/
def pushDown (m : MR) (n : Int) (test move : Dword → Act Unit) : Act Unit := do
  let v ← need (effWordAddr · m alignDword)
  let d ← need (readDword · v)
  if spaceBad d n || wordBad d n then
    if limitTraps d n then raise { loc := 0x42#8 }
    else do
      change (setCC (abortCC d n))
      done
  else do
    test d
    need (fun s => testAccess s v .write)
    need (fun s => testAccess s (v ||| 1#22) .write)
    let d' ← look (fun s => movedStack s d n)
    move d
    commit (fun s => writeWord s v (hiWord d'))
    commit (fun s => writeWord s (v ||| 1#22) (loWord d'))
    change (setCC (stackCC d n))
    done

/-- The test of a push of `n` words: write access to the words above the top (R467). -/
def testPush (n : Nat) (d : Dword) : Act Unit := do
  let t ← look (fun s => stackMove s (stackTop s d) 1)
  testWords t 1 .write n

/-- The test of a pull of `n` words: read access from the top downwards (R468). -/
def testPull (n : Nat) (d : Dword) : Act Unit := do
  let t ← look (fun s => stackTop s d)
  testWords t (-1) .read n

/-- `n` registers from `r`, modulo 16, stored into the words above the top (R467). -/
def pushWords (r : BitVec 4) (n : Nat) (d : Dword) : Act Unit := do
  let t ← look (fun s => stackMove s (stackTop s d) 1)
  storeMultiple false t r n

/-- `n` registers loaded from the words at `t` downwards, the register numbers falling (R468). -/
def pullDown (altered : Bool) (t : WordAddr) (r : BitVec 4) : Nat → Act Unit
  | 0 => pure ()
  | n + 1 => do
    let w ← onceAltered altered (need (readWord · t))
    change (setReg r w)
    let t' ← look (fun s => stackMove s t (-1))
    pullDown true t' (r - 1) n

/-- `n` registers, the last R + n - 1, loaded from the top of the stack downwards (R468). -/
def pullWords (r : BitVec 4) (n : Nat) (d : Dword) : Act Unit := do
  let t ← look (fun s => stackTop s d)
  pullDown false t (r + BitVec.ofNat 4 n - 1) n

/-! ### The instructions -/

/-- PSW (R465). -/
def execPsw (m : MR) (s : State) : Result := run (pushDown m 1 (testPush 1) (pushWords m.r 1)) s

/-- PLW (R466). -/
def execPlw (m : MR) (s : State) : Result := run (pushDown m (-1) (testPull 1) (pullWords m.r 1)) s

/-- PSM (R467); stack words at addresses 0-15 that are also registers of the run hold free values (U2, log 12). -/
def execPsm (m : MR) (s : State) : Result := run (do
  let n ← look multipleCount
  pushDown m n (testPush n) (fun d => do
    pushWords m.r n d
    let t ← look (fun s => stackMove s (stackTop s d) 1)
    freeOverlap t m.r n 16)) s

/-- PLM (R468); registers both loaded and stack words at addresses 0-15 hold free values (U2, log 12). -/
def execPlm (m : MR) (s : State) : Result := run (do
  let n ← look multipleCount
  pushDown m (-(n : Int)) (testPull n) (fun d => do
    pullWords m.r n d
    let t ← look (fun s => stackMove s (stackTop s d) (1 - (n : Int)))
    freeOverlap t m.r n 16)) s

/-- MSP (R469). -/
def execMsp (m : MR) (s : State) : Result := run (do
  let n ← look (fun s => ((getReg s m.r).extractLsb' 0 16).toInt)
  pushDown m n (fun _ => pure ()) (fun _ => pure ())) s

end Sys2Proof.Machine
end

