-- ==== Sys2Proof/Machine/Dispatch.lean ====
section
/-! DEFINITION. One arm per instruction. -/

namespace Sys2Proof.Machine

def exec (i : Instr) (s : State) : Host.Outcome State Fault Refusal :=
  match i with
  | .lcfi m => Sys2Proof.Machine.execLcfi m s
  | .cal1 m => Sys2Proof.Machine.execCal1 m s
  | .cal2 m => Sys2Proof.Machine.execCal2 m s
  | .cal3 m => Sys2Proof.Machine.execCal3 m s
  | .cal4 m => Sys2Proof.Machine.execCal4 m s
  | .plw m => Sys2Proof.Machine.execPlw m s
  | .psw m => Sys2Proof.Machine.execPsw m s
  | .plm m => Sys2Proof.Machine.execPlm m s
  | .psm m => Sys2Proof.Machine.execPsm m s
  | .lpsd m => Sys2Proof.Machine.execLpsd m s
  | .xpsd m => Sys2Proof.Machine.execXpsd m s
  | .ad m => Sys2Proof.Machine.execAd m s
  | .cd m => Sys2Proof.Machine.execCd m s
  | .ld m => Sys2Proof.Machine.execLd m s
  | .msp m => Sys2Proof.Machine.execMsp m s
  | .std m => Sys2Proof.Machine.execStd m s
  | .sd m => Sys2Proof.Machine.execSd m s
  | .clm m => Sys2Proof.Machine.execClm m s
  | .lcd m => Sys2Proof.Machine.execLcd m s
  | .lad m => Sys2Proof.Machine.execLad m s
  | .fsl m => Sys2Proof.Machine.execFsl m s
  | .fal m => Sys2Proof.Machine.execFal m s
  | .fdl m => Sys2Proof.Machine.execFdl m s
  | .fml m => Sys2Proof.Machine.execFml m s
  | .ai m => Sys2Proof.Machine.execAi m s
  | .ci m => Sys2Proof.Machine.execCi m s
  | .li m => Sys2Proof.Machine.execLi m s
  | .mi m => Sys2Proof.Machine.execMi m s
  | .sf m => Sys2Proof.Machine.execSf m s
  | .s m => Sys2Proof.Machine.execS m s
  | .las m => Sys2Proof.Machine.execLas m s
  | .cvs m => Sys2Proof.Machine.execCvs m s
  | .cva m => Sys2Proof.Machine.execCva m s
  | .lm m => Sys2Proof.Machine.execLm m s
  | .stm m => Sys2Proof.Machine.execStm m s
  | .lra m => Sys2Proof.Machine.execLra m s
  | .lms m => Sys2Proof.Machine.execLms m s
  | .wait m => Sys2Proof.Machine.execWait m s
  | .lrp m => Sys2Proof.Machine.execLrp m s
  | .aw m => Sys2Proof.Machine.execAw m s
  | .cw m => Sys2Proof.Machine.execCw m s
  | .lw m => Sys2Proof.Machine.execLw m s
  | .mtw m => Sys2Proof.Machine.execMtw m s
  | .stw m => Sys2Proof.Machine.execStw m s
  | .dw m => Sys2Proof.Machine.execDw m s
  | .mw m => Sys2Proof.Machine.execMw m s
  | .sw m => Sys2Proof.Machine.execSw m s
  | .clr m => Sys2Proof.Machine.execClr m s
  | .lcw m => Sys2Proof.Machine.execLcw m s
  | .law m => Sys2Proof.Machine.execLaw m s
  | .fss m => Sys2Proof.Machine.execFss m s
  | .fas m => Sys2Proof.Machine.execFas m s
  | .fds m => Sys2Proof.Machine.execFds m s
  | .fms m => Sys2Proof.Machine.execFms m s
  | .ttbs m => Sys2Proof.Machine.execTtbs m s
  | .tbs m => Sys2Proof.Machine.execTbs m s
  | .anlz m => Sys2Proof.Machine.execAnlz m s
  | .cs m => Sys2Proof.Machine.execCs m s
  | .xw m => Sys2Proof.Machine.execXw m s
  | .sts m => Sys2Proof.Machine.execSts m s
  | .eor m => Sys2Proof.Machine.execEor m s
  | .or m => Sys2Proof.Machine.execOr m s
  | .ls m => Sys2Proof.Machine.execLs m s
  | .and m => Sys2Proof.Machine.execAnd m s
  | .sio m => Sys2Proof.Machine.execSio m s
  | .tio m => Sys2Proof.Machine.execTio m s
  | .tdv m => Sys2Proof.Machine.execTdv m s
  | .hio m => Sys2Proof.Machine.execHio m s
  | .rio m => Sys2Proof.Machine.execRio m s
  | .polp m => Sys2Proof.Machine.execPolp m s
  | .polr m => Sys2Proof.Machine.execPolr m s
  | .ah m => Sys2Proof.Machine.execAh m s
  | .ch m => Sys2Proof.Machine.execCh m s
  | .lh m => Sys2Proof.Machine.execLh m s
  | .mth m => Sys2Proof.Machine.execMth m s
  | .sth m => Sys2Proof.Machine.execSth m s
  | .dh m => Sys2Proof.Machine.execDh m s
  | .mh m => Sys2Proof.Machine.execMh m s
  | .sh m => Sys2Proof.Machine.execSh m s
  | .lch m => Sys2Proof.Machine.execLch m s
  | .lah m => Sys2Proof.Machine.execLah m s
  | .cbs m => Sys2Proof.Machine.execCbs m s
  | .mbs m => Sys2Proof.Machine.execMbs m s
  | .ebs m => Sys2Proof.Machine.execEbs m s
  | .bdr m => Sys2Proof.Machine.execBdr m s
  | .bir m => Sys2Proof.Machine.execBir m s
  | .awm m => Sys2Proof.Machine.execAwm m s
  | .exu m => Sys2Proof.Machine.execExu m s
  | .bcr m => Sys2Proof.Machine.execBcr m s
  | .bcs m => Sys2Proof.Machine.execBcs m s
  | .bal m => Sys2Proof.Machine.execBal m s
  | .int m => Sys2Proof.Machine.execInt m s
  | .rd m => Sys2Proof.Machine.execRd m s
  | .wd m => Sys2Proof.Machine.execWd m s
  | .aio m => Sys2Proof.Machine.execAio m s
  | .mmc m => Sys2Proof.Machine.execMmc m s
  | .lcf m => Sys2Proof.Machine.execLcf m s
  | .cb m => Sys2Proof.Machine.execCb m s
  | .lb m => Sys2Proof.Machine.execLb m s
  | .mtb m => Sys2Proof.Machine.execMtb m s
  | .stcf m => Sys2Proof.Machine.execStcf m s
  | .stb m => Sys2Proof.Machine.execStb m s
  | .pack m => Sys2Proof.Machine.execPack m s
  | .unpk m => Sys2Proof.Machine.execUnpk m s
  | .ds m => Sys2Proof.Machine.execDs m s
  | .da m => Sys2Proof.Machine.execDa m s
  | .dd m => Sys2Proof.Machine.execDd m s
  | .dm m => Sys2Proof.Machine.execDm m s
  | .dsa m => Sys2Proof.Machine.execDsa m s
  | .dc m => Sys2Proof.Machine.execDc m s
  | .dl m => Sys2Proof.Machine.execDl m s
  | .dst m => Sys2Proof.Machine.execDst m s

end Sys2Proof.Machine
end

