-- ==== Sys2Proof/Machine/Step.lean ====
section
/-! DEFINITION. One step of the machine (00_scope R27, 47 R490). -/

namespace Sys2Proof.Machine

open Sys2Proof

/-- An instruction word decoded and executed; a word that is no instruction traps (R490, R650). -/
def runWord (w : Word) (s : State) : Host.Outcome State Fault Refusal :=
  match decodeWord w with
  | .ok i => exec i s
  | .error e => .next (enterTrap (decodeErrorTrap s e) s)

/-- The instruction at `pc` fetched and executed (R490), the snapshot fired before its fetch (log 39). -/
def runInstruction (s : State) : Host.Outcome State Fault Refusal :=
  let s1 := fireSnapshot s
  match fetchWord s1 with
  | .error t => .next (enterTrap t s1)
  | .ok w => mapNext (noteStale s1) (runWord (chosenWord s1 w) (startInstruction s1))

/-- The word that an EXU fetched executed (R493). -/
def runSubject (w : Word) (s : State) : Host.Outcome State Fault Refusal :=
  mapNext (noteStale s) (runWord w { s with pend := .none })

/-- The entry of a trap that is pending; while the MEMORY FAULT switch holds the CPU clock (R716) only events come. -/
def enterPending (t : Trap) (s : State) : Host.Outcome State Fault Refusal :=
  if s.halt = .memoryFault then .next (takeInputs s)
  else mapNext settle (withReferenceStop (fun r => .next (enterTrap t r)) s)

/-- The entry of the trap of the next instruction that comes before a waiting interrupt (R642, D49): that instruction has been
fetched for it. -/
def enterAnticipated (s : State) : Host.Outcome State Fault Refusal :=
  match anticipatedTrap s with
  | some t => .next (enterTrap t s)
  | none => .next s

/-- The ADDRESS STOP halt (R715). -/
def haltAtAddress (s : State) : State := { s with halt := .addressStop, stoppedAt := some (pc s) }

/-- One step: the entry of a pending trap; or the word that an EXU fetched; or else the events of this boundary and then
what the boundary gives: a trap, an interrupt entry, or one instruction. -/
def step (s : State) : Host.Outcome State Fault Refusal :=
  match s.pend with
  | .trap t => enterPending t s
  | .subject w => mapNext settle (withReferenceStop (runSubject w) s)
  | .none =>
    let s1 := takeInputs s
    match s1.pend with
    | .trap t => enterPending t s1
    | .subject _ => .next s1
    | .none =>
      match boundary s1 with
      | .rest => .next (settle s1)
      | .trap _ => mapNext settle (withReferenceStop enterAnticipated s1)
      | .interrupt l => withReferenceStop (fun r => .next (enterInterrupt l r)) s1
      | .stop => .next (haltAtAddress s1)
      | .instruction => mapNext settle (withReferenceStop runInstruction s1)

/-- The state with the word `w` of `nbits` bits where `step` fetches its next instruction, the CPU running (COMPUTE in
RUN, no halt condition, log 5). -/
def State.withFetchWord (s : State) (nbits w : Nat) : State :=
  let v : Word := BitVec.ofNat 32 (w % 2 ^ nbits)
  let s1 := { s with compute := .run, halt := .none }
  if (pc s1).toNat < 16 then setReg ((pc s1).extractLsb' 0 4) v s1
  else writeLoc (.mem (homespaceBias s1 (actualAddr s1 (pc s1)))) v s1

end Sys2Proof.Machine
end

