-- ==== Sys2Proof/Safety.lean ====
section
/-! DEFINITION. What counts as a sound state and a safe step, and the vocabulary of the statements: the state in which an
instruction leaves the machine, the places of memory that it leaves alone, and the conditions on its operands. -/

namespace Sys2Proof

open Sys2Proof.Machine

/-! ### Sound states -/

/-- The memory is in its one canonical form. -/
def MemCanonical (s : State) : Prop := Memory.wf s.mem = true

/-- The register pointer names an installed block (10_state R54). -/
def PointerInstalled (s : State) : Prop := rpInvalid s s.psd.rp = false

/-- The step goes on: it neither faults nor refuses. -/
def StepGoesOn (s : State) : Prop := ∃ t, step s = .next t

/-! ### How an instruction leaves the machine -/

/-- An instruction has ended in sequence: the registers and CC1-CC4 are these, the instruction address is the next one
(R490), and nothing else of the state has changed. -/
def finished (s : State) (regs : Vector Word 64) (c1 c2 c3 c4 : Bool) : State :=
  { s with regs := regs, psd := { s.psd with cc1 := c1, cc2 := c2, cc3 := c3, cc4 := c4, ia := nextIa s } }

/-- The same with a condition code of four bits, CC1 the leftmost. -/
def finishedCC (s : State) (regs : Vector Word 64) (cc : BitVec 4) : State :=
  finished s regs (cc.getLsbD 3) (cc.getLsbD 2) (cc.getLsbD 1) (cc.getLsbD 0)

/-- Ended in sequence, the condition code unchanged. -/
def onward (s : State) (regs : Vector Word 64) : State :=
  finished s regs s.psd.cc1 s.psd.cc2 s.psd.cc3 s.psd.cc4

/-- Ended in sequence: CC3 says the number is positive, CC4 that it is negative; CC1 and CC2 unchanged (R210). -/
def loaded {w : Nat} (s : State) (regs : Vector Word 64) (v : BitVec w) : State :=
  finished s regs s.psd.cc1 s.psd.cc2 (decide (0 < v.toInt)) (decide (v.toInt < 0))

/-- The registers of `s` with register `r` of the current block replaced. -/
def oneReg (s : State) (r : BitVec 4) (v : Word) : Vector Word 64 := (setReg r v s).regs

/-- Register Ru1 replaced and then register R: with odd R, R keeps `hi` (R213). -/
def pairRegs (s : State) (r : BitVec 4) (hi lo : Word) : Vector Word 64 := (setReg r hi (setReg (ru1 r) lo s)).regs

/-- Register R replaced and then register Ru1: with odd R, it keeps `lo`. -/
def pairRegsLowLast (s : State) (r : BitVec 4) (hi lo : Word) : Vector Word 64 :=
  (setReg (ru1 r) lo (setReg r hi s)).regs

/-- The decimal accumulator, registers 12 to 15, holds the number (R384). -/
def decaRegs (s : State) (d : Nat) : Vector Word 64 := (setDeca (BitVec.ofNat 128 d) s).regs

/-- A completed instruction that may have overflowed: `t` is how it leaves the machine; if CC2 and the mask AM are both 1
there, the trap X'43' is taken from `t` (R212, R656). -/
def CompletesOrOverflows (o : Result) (t : State) : Prop :=
  (¬ (t.psd.cc2 = true ∧ t.psd.am = true) → o = .next t) ∧
  (t.psd.cc2 = true ∧ t.psd.am = true → o = .next (enterTrap { loc := 0x43#8 } t))

/-- The end of a fixed-point addition or subtraction of `w` bits whose exact result is `exact`: the low `w` bits put
away, CC1 the carry, CC2 overflow, CC3 CC4 the sign of the bits put away (R266, R267). -/
def ArithmeticEnd (w : Nat) (o : Result) (s : State) (put : BitVec w → Vector Word 64) (carry : Bool) (exact : Int) :
    Prop :=
  CompletesOrOverflows o
    (finished s (put (BitVec.ofInt w exact)) carry (decide (exact < -2 ^ (w - 1) ∨ 2 ^ (w - 1) ≤ exact))
      (decide (0 < (BitVec.ofInt w exact).toInt)) (decide ((BitVec.ofInt w exact).toInt < 0)))

/-! ### Floating-point numbers (43 R340, R341, R344) -/

/-- The fraction of a floating-point number of `d` hexadecimal digits, an integer: the low digits of its absolute value. -/
def fractionOf {w : Nat} (d : Nat) (v : BitVec w) : Nat := v.toInt.natAbs % 16 ^ d

/-- The characteristic: the seven bits above the fraction of the absolute value. -/
def characteristicOf {w : Nat} (d : Nat) (v : BitVec w) : Nat := v.toInt.natAbs / 16 ^ d % 128

/-- The floating-point number of a sign, a characteristic within 0 to 127 and a fraction. -/
def floatOf (w d : Nat) (neg : Bool) (c : Int) (f : Nat) : BitVec w :=
  BitVec.ofInt w (if neg then -(c * 16 ^ d + f) else c * 16 ^ d + f)

/-- The condition code of a floating-point result or fault: two bits as given, then the sign (R346, R349). -/
def signedCC (a b neg : Bool) : BitVec 4 :=
  BitVec.ofBool a ++ BitVec.ofBool b ++ BitVec.ofBool (!neg) ++ BitVec.ofBool neg

/-- The floating-point instruction completes with the value and the condition code. -/
def FloatCompletes {w : Nat} (s : State) (o : Result) (put : BitVec w → Vector Word 64) (v : BitVec w)
    (cc : BitVec 4) : Prop :=
  o = .next (finishedCC s (put v) cc)

/-- The floating-point instruction ends in a fault: the condition code says why, the registers are kept, and the trap X'44'
is taken (R343, R658). -/
def FloatFaults (s : State) (o : Result) (cc : BitVec 4) : Prop :=
  o = .next (enterTrap { loc := 0x44#8 } (setCC cc s))

/-- The end of a sum of magnitude `m` (with `g` guard digits), characteristic `c` and sign `neg`: overflow; with FN = 1 the
guard digit dropped; with FN = 0 a zero by FS, or else `k` postnormalizing shifts, underflow by FZ, significance by FS
(R346, R658). -/
def SumEnds {w : Nat} (d g : Nat) (s : State) (o : Result) (put : BitVec w → Vector Word 64) (neg : Bool) (c m : Nat) :
    Prop :=
  (127 < c → FloatFaults s o (signedCC false true neg)) ∧
  (c ≤ 127 → s.psd.fn = true →
    (m / 16 ^ g = 0 → FloatCompletes s o put 0 0b0000#4) ∧
    (m / 16 ^ g ≠ 0 → FloatCompletes s o put (floatOf w d neg c (m / 16 ^ g)) (signedCC false false neg))) ∧
  (c ≤ 127 → s.psd.fn = false → m = 0 →
    (s.psd.fs = true → FloatFaults s o 0b1000#4) ∧ (s.psd.fs = false → FloatCompletes s o put 0 0b1000#4)) ∧
  (c ≤ 127 → s.psd.fn = false → ∀ k, 16 ^ (d + g - 1) ≤ m * 16 ^ k → m * 16 ^ k < 16 ^ (d + g) →
    (c < k → s.psd.fz = true → FloatFaults s o (signedCC true true neg)) ∧
    (2 < k → s.psd.fs = true → (c < k → s.psd.fz = false) → FloatFaults s o (signedCC true false neg)) ∧
    (c < k → s.psd.fz = false → (2 < k → s.psd.fs = false) → FloatCompletes s o put 0 0b1100#4) ∧
    (k ≤ c → (2 < k → s.psd.fs = false) →
      FloatCompletes s o put (floatOf w d neg (c - k) (m * 16 ^ k / 16 ^ g)) (signedCC (decide (2 < k)) false neg)))

/-- The end of an addition of `a` and `b` with `g` guard digits: the operand of the smaller characteristic is shifted right,
the signed sum of the fractions is exact, and a carry shifts it right once (R345). -/
def AdditionEnds {w : Nat} (d g : Nat) (s : State) (o : Result) (put : BitVec w → Vector Word 64) (a b : BitVec w) : Prop :=
  ∀ (c x y : Nat) (sum : Int), c = max (characteristicOf d a) (characteristicOf d b) →
    x = fractionOf d a * 16 ^ g / 16 ^ (c - characteristicOf d a) →
    y = fractionOf d b * 16 ^ g / 16 ^ (c - characteristicOf d b) →
    sum = (if a.toInt < 0 then -(x : Int) else x) + (if b.toInt < 0 then -(y : Int) else y) →
    (sum.natAbs < 16 ^ (d + g) → SumEnds d g s o put (decide (sum < 0)) c sum.natAbs) ∧
    (16 ^ (d + g) ≤ sum.natAbs → SumEnds d g s o put (decide (sum < 0)) (c + 1) (sum.natAbs / 16))

/-- The end of a product or quotient of characteristic `c` and normalized fraction `f` (R349, R658). -/
def ScaledEnds {w : Nat} (d : Nat) (s : State) (o : Result) (put : BitVec w → Vector Word 64) (neg : Bool) (c : Int)
    (f : Nat) : Prop :=
  (127 < c → FloatFaults s o (signedCC false true neg)) ∧
  (c < 0 → s.psd.fz = true → FloatFaults s o (signedCC true true neg)) ∧
  (c < 0 → s.psd.fz = false → FloatCompletes s o put 0 0b1100#4) ∧
  (0 ≤ c → c ≤ 127 → FloatCompletes s o put (floatOf w d neg c f) (signedCC false false neg))

/-- The end of a multiplication: a zero fraction gives zero; else the fraction is the leading `d` digits of the product of
the fractions, which loses its last `e` digits, or gains zeros, and the characteristics are added (R347). -/
def ProductEnds {w : Nat} (d : Nat) (s : State) (o : Result) (put : BitVec w → Vector Word 64) (a b : BitVec w) : Prop :=
  (fractionOf d a = 0 ∨ fractionOf d b = 0 → FloatCompletes s o put 0 0b0000#4) ∧
  ∀ (p e : Nat) (left : Bool) (f : Nat), p = fractionOf d a * fractionOf d b →
    f = (if left then p * 16 ^ e else p / 16 ^ e) → 16 ^ (d - 1) ≤ f → f < 16 ^ d →
    ScaledEnds d s o put (decide (a.toInt < 0) != decide (b.toInt < 0))
      (characteristicOf d a + characteristicOf d b - 64 - d + (if left then -(e : Int) else e)) f

/-- The end of a division of `a` by `b`: a zero divisor is a fault, a zero dividend gives zero; else the fraction is the
leading `d` digits of the quotient of the fractions, `k` places having been appended to the dividend, and the
characteristics are subtracted (R348). -/
def QuotientEnds {w : Nat} (d : Nat) (s : State) (o : Result) (put : BitVec w → Vector Word 64) (a b : BitVec w) : Prop :=
  (fractionOf d b = 0 → FloatFaults s o 0b0100#4) ∧
  (fractionOf d b ≠ 0 → fractionOf d a = 0 → FloatCompletes s o put 0 0b0000#4) ∧
  ∀ k f : Nat, fractionOf d b ≠ 0 → f = fractionOf d a * 16 ^ k / fractionOf d b → 16 ^ (d - 1) ≤ f → f < 16 ^ d →
    ScaledEnds d s o put (decide (a.toInt < 0) != decide (b.toInt < 0))
      (characteristicOf d a - characteristicOf d b + 64 + d - k) f

/-- The trap of a doubleword instruction whose R field is odd (R662). -/
def registerTrapTaken (s : State) : Result := .next (enterTrap { loc := 0x4D#8, tcc := 0b0001#4 } s)

/-! ### Storage and its frame -/

/-- The word at a place: a register of the current block, or a real word of memory. -/
def wordAt (s : State) : Loc → Word
  | .reg n => getReg s n
  | .mem a => readWordAt s.mem a

/-- Byte `k` of the word at a place. -/
def byteAt (s : State) (l : Loc) (k : BitVec 2) : Byte := byteOf (wordAt s l) k

/-- The byte address `x` of memory lies outside the word at `l`. -/
def Outside (l : Loc) (x : Nat) : Prop := ∀ a, l = .mem a → x < 4 * a.toNat ∨ 4 * a.toNat + 3 < x

/-- The place can be read: a register, or a memory word of good parity. -/
def Sound (s : State) : Loc → Prop
  | .reg _ => True
  | .mem a => parityBad s a = false

/-- Nothing but the registers, the memory with its parity and watch list, and the program status doubleword differs. -/
def OnlyData (s t : State) : Prop :=
  t = { s with regs := t.regs, mem := t.mem, badParity := t.badParity, watch := t.watch, psd := t.psd }

/-- The registers of the blocks that are not current are unchanged. -/
def OtherBlocksKept (s t : State) : Prop :=
  ∀ (b : BitVec 2) (n : BitVec 4), b ≠ s.psd.rp.extractLsb' 0 2 →
    t.regs[(b ++ n : BitVec 6).toNat]'(b ++ n : BitVec 6).isLt =
      s.regs[(b ++ n : BitVec 6).toNat]'(b ++ n : BitVec 6).isLt

/-- What a store into the places of `p` leaves alone: every byte of memory outside them, every register of the current
block that is not one of them nor among `also`, and the other blocks. -/
def KeptBut (s t : State) (p : Loc → Prop) (also : BitVec 4 → Prop) : Prop :=
  (∀ x, (∀ l, p l → Outside l x) → readCell t.mem x = readCell s.mem x) ∧
  (∀ n, ¬ p (.reg n) → ¬ also n → getReg t n = getReg s n) ∧
  OtherBlocksKept s t

/-- The instruction has ended in sequence having stored the word `w` at the place `l`: every other byte and register is as
before, and of the rest of the state only CC1-CC4 and the instruction address are changed. -/
def StoredAt (s t : State) (l : Loc) (w : Word) (c1 c2 c3 c4 : Bool) : Prop :=
  wordAt t l = w ∧ KeptBut s t (· = l) (fun _ => False) ∧ OnlyData s t ∧
  t.psd = { s.psd with cc1 := c1, cc2 := c2, cc3 := c3, cc4 := c4, ia := nextIa s }

/-! ### Runs of words and bytes -/

/-- None of `n` registers from `r` is among the addresses of `n` words from `v` (R236, R246: otherwise unpredictable). -/
def NoOverlap (s : State) (v : WordAddr) (r : BitVec 4) (n : Nat) : Prop :=
  ∀ i j, i < n → j < n → wordPlus s v i ≠ (r + BitVec.ofNat 4 j).zeroExtend 22

/-- The register of number `n` is one of the `k` from `r`, modulo 16. -/
def InRun (r : BitVec 4) (k : Nat) (n : BitVec 4) : Prop := ∃ j, j < k ∧ n = r + BitVec.ofNat 4 j

/-- The parity of the 1s that leave bit 0 in `n` left steps, `f i` being bit 0 before step `i` (R321). -/
def oddOnes (f : Nat → Bool) (n : Nat) : Bool := decide (((List.range n).filter f).length % 2 = 1)

/-- Bit 0 changes at some one of `n` left steps (R321). -/
def signChanges (f : Nat → Bool) (n : Nat) : Bool := (List.range n).any (fun i => f i != f (i + 1))

/-- The result of a shift of `n` places that does not search: type 0 logical, 1 circular, else arithmetic (R316-R319). -/
def shiftedBy {w : Nat} (t : BitVec 2) (right : Bool) (v : BitVec w) (n : Nat) : BitVec w :=
  if t = 1 then (if right then v.rotateRight n else v.rotateLeft n)
  else if right = true then (if t = 0 then v >>> n else v.sshiftRight n)
  else v <<< n

/-- The registers after a shift of R, or of R and Ru1 together: with odd R only R is written (R316, R323). -/
def doubleShiftRegs (s : State) (r : BitVec 4) (d : Dword) : Vector Word 64 :=
  if oddR r then oneReg s r (hiWord d) else pairRegs s r (hiWord d) (loWord d)

/-! ### Decimal and byte strings -/

/-- The number whose bytes are the first `n` of `x`, the first the most significant. -/
def numberOf (x : Nat → Byte) : Nat → Nat
  | 0 => 0
  | n + 1 => 256 * numberOf x n + (x n).toNat

/-- The number whose nibbles are the low nibbles of the first `n` of `x`. -/
def lowNibbles (x : Nat → Byte) : Nat → Nat
  | 0 => 0
  | n + 1 => 16 * lowNibbles x n + (x n).toNat % 16

/-- The machine has the decimal unit (R15, D2). -/
def HasDecimal (s : State) : Prop := s.inst.model ≠ .model3 ∧ s.inst.decimalUnit = .present

/-- The `n` bytes from the effective byte of `m` on can be read and are `x`. -/
def BytesRead (s : State) (m : MR) (n : Nat) (x : Nat → Byte) : Prop :=
  ∃ b, effAddr s m alignByte = .ok b ∧ ∀ k, k < n → readByte s (bytePlus s b k) = .ok (x k)

/-- `d` is the legal packed number of a sign and magnitude, its sign code that of the ANSII control (R383, R389). -/
def IsDecimal (s : State) (d : Nat) (neg : Bool) (mag : Nat) : Prop :=
  legalPacked d = true ∧ packedMag d = mag ∧ d % 16 = signCode s.psd.ansi neg

/-- The end of a decimal instruction that finds an illegal digit or sign, or an overflow: CC1 or CC2 says which, nothing
else changes, and with DM = 1 the trap X'45' is taken (R387). -/
def DecimalFaultTaken (s : State) (o : Result) (illegal : Bool) : Prop :=
  (s.psd.dm = false → o = .next (finished s s.regs illegal (!illegal) s.psd.cc3 s.psd.cc4)) ∧
  (s.psd.dm = true → o = .next (enterTrap { loc := 0x45#8 } (setCC12 illegal (!illegal) s)))

/-- What a store into the bytes of `p` leaves alone: every other byte of memory, every other byte of the current
registers but for those of `also`, and the other blocks. -/
def BytesKeptBut (s t : State) (p : Loc → BitVec 2 → Prop) (also : BitVec 4 → Prop) : Prop :=
  (∀ x, (∀ a k, p (.mem a) k → x ≠ 4 * a.toNat + k.toNat) → readCell t.mem x = readCell s.mem x) ∧
  (∀ n k, ¬ p (.reg n) k → ¬ also n → byteOf (getReg t n) k = byteOf (getReg s n) k) ∧
  OtherBlocksKept s t

/-- The `n` byte addresses `b` can be written, to distinct bytes of the places `l`. -/
def BytesWritable (s : State) (b : Nat → ByteAddr) (n : Nat) (l : Nat → Loc) : Prop :=
  (∀ k, k < n → locate s (wordOf (b k)) .write = .ok (l k) ∧ Sound s (l k)) ∧
  ∀ j k, j < k → k < n → ¬ (l j = l k ∧ (b j).extractLsb' 0 2 = (b k).extractLsb' 0 2)

/-- The instruction has ended in sequence having stored the bytes `x` at the `n` byte addresses `b`, whose places are
`l`; registers of `also` apart, nothing else has changed but CC1-CC4 and the instruction address. -/
def BytesStored (s t : State) (b : Nat → ByteAddr) (n : Nat) (l : Nat → Loc) (x : Nat → Byte) (also : BitVec 4 → Prop)
    (c1 c2 c3 c4 : Bool) : Prop :=
  (∀ k, k < n → byteAt t (l k) ((b k).extractLsb' 0 2) = x k) ∧
  BytesKeptBut s t (fun p j => ∃ k, k < n ∧ p = l k ∧ j = (b k).extractLsb' 0 2) also ∧ OnlyData s t ∧
  t.psd = (finished s s.regs c1 c2 c3 c4).psd

/-- Byte `k` of the source string: the source field advanced by `k` except in case III, plus the displacement (R421,
R422). -/
def sourceByte (s : State) (b : Bs) (k : Nat) : ByteAddr :=
  withDisplacement s b (if b.r = 0 then 0 else bytePlus s (addressField s (getReg s b.r)) k)

/-- Byte `k` of the destination string (R421). -/
def destByte (s : State) (b : Bs) (k : Nat) : ByteAddr := bytePlus s (addressField s (getReg s (ru1 b.r))) k

/-- The entry for the byte `y` in the translation table at the source address plus the displacement (R428). -/
def tableByte (s : State) (b : Bs) (y : Byte) : ByteAddr :=
  wrapByte s (sourceByte s b 0 + y.zeroExtend 24)

/-- The count of a byte-string instruction (R421). -/
def countIs (s : State) (b : Bs) (n : Nat) : Prop := (field (getReg s (ru1 b.r)) 0 7).toNat = n

/-- The byte address is not in a control register that changes as the string is processed: Ru1, and with `both` also a
nonzero R. -/
def Apart (b : Bs) (x : ByteAddr) (both : Bool) : Prop :=
  wordOf x ≠ (ru1 b.r).zeroExtend 22 ∧ (both = true → b.r ≠ 0 → wordOf x ≠ b.r.zeroExtend 22)

/-- The control registers after `j` of `n` bytes: in Ru1 the destination address is `j` further and the count `j` less;
with `both`, and R even and not 0, the source address in R is `j` further (R424, R426). -/
def Advanced (s t : State) (b : Bs) (n j : Nat) (both : Bool) : Prop :=
  getReg t (ru1 b.r) =
    withCount (withAddress s (getReg s (ru1 b.r)) (destByte s b j)) (BitVec.ofNat 8 (n - j)) ∧
  (both = true → b.r ≠ 0 → oddR b.r = false → getReg t b.r =
    withAddress s (getReg s b.r) (bytePlus s (addressField s (getReg s b.r)) j))

/-! ### Stacks -/

/-- `d'` is the stack pointer doubleword `d` after `n` words were added (pulled, for negative `n`): the top-of-stack
address moved within its field, the counts changed, everything else as it was (R461, R465-R469). -/
def MovedStack (s : State) (d d' : Dword) (n : Int) : Prop :=
  ∃ width : Nat, width = (if realExtended s then 22 else 17) ∧
    (((hiWord d').toNat % 2 ^ width : Nat) : Int) = ((hiWord d).toNat + n) % 2 ^ width ∧
    (hiWord d').toNat / 2 ^ width = (hiWord d).toNat / 2 ^ width ∧
    (spaceCount d' : Int) = spaceCount d - n ∧ (wordCount d' : Int) = wordCount d + n ∧
    spaceInhibit d' = spaceInhibit d ∧ wordInhibit d' = wordInhibit d

/-- Adding `n` words to the stack keeps both counts within 0 to 32767 (R462). -/
def WithinLimits (d : Dword) (n : Int) : Prop :=
  0 ≤ spaceCount d - n ∧ spaceCount d - n ≤ 32767 ∧ 0 ≤ wordCount d + n ∧ wordCount d + n ≤ 32767

/-! ### Branches, control, input/output -/

/-- The state after a branch to `v`: in real extended addressing a target outside the first 64K loads EA and sets ES, one
inside it clears ES and keeps EA (R491). -/
def branched (s : State) (regs : Vector Word 64) (v : WordAddr) : State :=
  { s with
    regs := regs
    jumped := true
    psd := { s.psd with
      ia := if realExtended s then BitVec.ofBool (decide (65536 ≤ v.toNat)) ++ v.extractLsb' 0 16
        else v.extractLsb' 0 17
      ea := if realExtended s = true ∧ 65536 ≤ v.toNat then v.extractLsb' 16 6 else s.psd.ea } }

/-- The program status after bits 0-39 of the doubleword `d` are loaded, with bits 40 and 42-47 if `more`, and the register
pointer if `lp` (R522). -/
def psdLoaded (p : Psd) (d : Dword) (more lp : Bool) : Psd where
  cc1 := bitOf d 0
  cc2 := bitOf d 1
  cc3 := bitOf d 2
  cc4 := bitOf d 3
  fs := bitOf d 5
  fz := bitOf d 6
  fn := bitOf d 7
  ms := bitOf d 8
  mm := bitOf d 9
  dm := bitOf d 10
  am := bitOf d 11
  ansi := bitOf d 12
  ia := d.extractLsb' 32 17
  wk := d.extractLsb' 28 2
  ci := bitOf d 37
  ii := bitOf d 38
  ei := bitOf d 39
  ma := if more then bitOf d 40 else p.ma
  ea := if more then d.extractLsb' 16 6 else p.ea
  rp := if lp then d.extractLsb' 4 4 else p.rp

/-- Nothing but the memory control storage differs, registers and the PSD apart. -/
def OnlyControl (s t : State) : Prop :=
  t = { s with map := t.map, acc := t.acc, lock := t.lock, regs := t.regs, psd := t.psd }

/-- The state with an exchange presented to the I/O system, its answer taken from the script, the request line as it leaves
it and nothing in the communication locations (R586). -/
def answered (s : State) (q : IoRequest) (rest : List IoAnswer) (line : Bool) : State :=
  { s with ioRequest := some q, ioScript := rest, ioLine := line }

/-- What an exchange leaves in the communication locations X'20' and X'21', where memory is there: nothing, or the two words
(R582). -/
def Communicated (s u : State) (c : Option (Word × Word)) : Prop :=
  (c = none → u = s) ∧
  ∀ x y, c = some (x, y) → u = { s with mem := u.mem, badParity := u.badParity, watch := u.watch } ∧
    KeptBut s u (fun l => l = .mem (homespaceBias s 0x20#22) ∨ l = .mem (homespaceBias s 0x21#22)) (fun _ => False) ∧
    (memExists s (homespaceBias s 0x20#22) = true → readWordAt u.mem (homespaceBias s 0x20#22) = x) ∧
    (memExists s (homespaceBias s 0x21#22) = true → readWordAt u.mem (homespaceBias s 0x21#22) = y)

/-! ### Entries (20 R116; 48 R523) -/

/-- `l` is the place of the real address `a`, biased, where memory is; a store needs a lock that the write key opens (R116,
R124, R130). -/
def RealPlace (s : State) (a : WordAddr) (store : Bool) (l : Loc) : Prop :=
  memExists s (homespaceBias s a) = true ∧ l = .mem (homespaceBias s a) ∧
  (store = true → keyOpens s.psd.wk (lockOf s a) = true)

/-- The real address of the XPSD `w` with bit 10 = 0 in a trap or interrupt location: its bits 12-31, or with bit 0 = 1 what
the real word there gives as in real extended addressing (R116). -/
def EntryReal (s : State) (w : Word) (e : WordAddr) : Prop :=
  (bit w 0 = false → e = (field w 12 31).zeroExtend 22) ∧
  (bit w 0 = true → ∃ l d, RealPlace s ((field w 12 31).zeroExtend 22) false l ∧ Sound s l ∧ wordAt s l = d ∧
    e = (if bit d 0 = false then field d 10 31 else if bit d 15 = false then (field d 16 31).zeroExtend 22
      else s.psd.ea ++ field d 16 31))

/-- The XPSD `w` of a trap or interrupt location stores the PSD at `l0` and `l1` and loads it from `l2` and `l3`: places of a
real doubleword and the next with bit 10 = 0, of the current addressing with bit 10 = 1 (R116, R523). -/
def EntryPlaces (s : State) (w : Word) (l0 l1 l2 l3 : Loc) : Prop :=
  (bit w 10 = false → ∃ r e, EntryReal s w r ∧ e = r &&& 0x3FFFFE#22 ∧ RealPlace s e true l0 ∧
    RealPlace s (e + 1) true l1 ∧ RealPlace s (e + 2) false l2 ∧ RealPlace s (e + 3) false l3) ∧
  (bit w 10 = true → ∃ v, effWordAddr s (refOf w) alignDword = .ok v ∧ locate s v .write = .ok l0 ∧
    locate s (wordPlus s v 1) .write = .ok l1 ∧ locate s (wordPlus s v 2) .read = .ok l2 ∧
    locate s (wordPlus s v 3) .read = .ok l3)

/-- The PSD of `s` has been stored at `l0` and `l1`, with TSF and RA, and no other byte nor register is changed (the places
being registers of the block of `s`). -/
def PsdStored (s u : State) (l0 l1 : Loc) (tsf : BitVec 8) (ra : Bool) : Prop :=
  ∃ r, r = { u with psd := s.psd } ∧ wordAt r l0 = psdWord1 s.psd ∧ wordAt r l1 = psdWord2 s.psd tsf ra ∧
    KeptBut s r (fun l => l = l0 ∨ l = l1) (fun _ => False)

/-! ### Interrupt levels (60 R671-R677) -/

/-- What the function code of a WD in mode 1 makes of the levels `k` of a group, `mask` the ones selected and `here` the
ones that exist (48 R556). -/
def LevelsControlled (code : BitVec 3) (mask here : BitVec 16) (k j : IntGroup) : Prop :=
  (code = 0b000#3 → j = { k with aw := k.aw &&& ~~~ mask, wa := k.wa ||| (mask &&& k.aw) }) ∧
  (code = 0b001#3 → j = { k with aw := k.aw &&& ~~~ mask, wa := k.wa &&& ~~~ mask }) ∧
  (code = 0b010#3 → j = { aw := k.aw ||| mask, wa := k.wa &&& ~~~ mask, en := k.en ||| mask }) ∧
  (code = 0b011#3 → j = { aw := k.aw ||| mask, wa := k.wa &&& ~~~ mask, en := k.en &&& ~~~ mask }) ∧
  (code = 0b100#3 → j = { k with en := k.en ||| mask }) ∧
  (code = 0b101#3 → j = { k with en := k.en &&& ~~~ mask }) ∧
  (code = 0b110#3 → j = { k with en := (k.en &&& ~~~ here) ||| mask }) ∧
  (code = 0b111#3 → j = { k with wa := k.wa ||| (mask &&& k.aw) })

/-- The place of a level in the priority chain: power 0, the rest of the override group 1, then the groups as
`GROUP_PRIORITY` orders them (R676). A level outside the chain has none. -/
def rankOf (s : State) (l : Level) : Option Nat :=
  let behind (c : Config.Chain) : Option Nat := if c ∈ s.inst.groupPriority then some (2 + s.inst.groupPriority.idxOf c) else none
  match l.group with
  | .power => if l.bit.val < 2 then some 0 else none
  | .internal =>
    if l.bit.val < 6 then some 1
    else if l.bit.val < 10 then behind .counterZero
    else if l.bit.val < 12 then behind .inputOutput
    else none
  | .external g => behind (.external g)

/-- `Higher(M, L)` of R677: an earlier group of the chain, or an earlier level of the same one. -/
def Higher (s : State) (m l : Level) : Prop :=
  ∃ i j, rankOf s m = some i ∧ rankOf s l = some j ∧ (i < j ∨ (i = j ∧ m.bit.val < l.bit.val))


/-- The group inhibit of a level: none for power, PDF for the rest of the override group, CI, II and EI (R664, R677). -/
def LevelInhibited (s : State) (l : Level) : Bool :=
  match l.group with
  | .power => false
  | .internal => if l.bit.val < 6 then s.pdf else if l.bit.val < 10 then s.psd.ci else s.psd.ii
  | .external _ => s.psd.ei

/-- The flip-flop of one level in a mask of its group. -/
def flipFlop (v : BitVec 16) (l : Level) : Bool := v.getLsbD (15 - l.bit.val)

/-- The level is in the active state: waiting-or-active and not armed-or-waiting (R545). -/
def LevelActive (s : State) (l : Level) : Prop :=
  flipFlop (groupOf s.ints l.group).wa l = true ∧ flipFlop (groupOf s.ints l.group).aw l = false

/-- One signal to the level `l` (R672-R675): armed, it becomes waiting; otherwise nothing happens. Nothing else changes. -/
def LevelSignalled (s t : State) (l : Level) : Prop :=
  t = { s with ints := t.ints } ∧ ∀ m : Level,
    (groupOf t.ints m.group).aw = (groupOf s.ints m.group).aw ∧ (groupOf t.ints m.group).en = (groupOf s.ints m.group).en ∧
    flipFlop (groupOf t.ints m.group).wa m =
      (flipFlop (groupOf s.ints m.group).wa m || (decide (m = l) && flipFlop (groupOf s.ints m.group).aw m))

/-- The operand of a modify-and-test instruction `w` in the interrupt location of `l`, direct addressing: for counter 4
(X'55') the one of the effective address under the current PSD, otherwise the first byte, halfword or word at the real
address in bits 12-31; no protection test (R680). -/
def CounterOperand (s : State) (l : Level) (w : Word) (p : Loc) (k : BitVec 2) : Prop :=
  bit w 0 = false ∧ Sound s p ∧
  (l.loc ≠ 0x55#22 → k = 0 ∧ ∃ a, a = homespaceBias s ((field w 12 31).zeroExtend 22) ∧ memExists s a = true ∧ p = .mem a) ∧
  (l.loc = 0x55#22 → ∃ b, effAddr s (refOf w) (counterAlign (opOf w)) = .ok b ∧ k = b.extractLsb' 0 2 ∧
    ((wordOf b).toNat < 16 → p = .reg ((wordOf b).extractLsb' 0 4)) ∧
    (16 ≤ (wordOf b).toNat → ∃ a, a = homespaceBias s (actualAddr s (wordOf b)) ∧ memExists s a = true ∧ p = .mem a))

/-- `v'` is the word `v` with the operand that MTB (X'73'), MTH (X'53') or MTW (X'33') modifies increased by the R field as a
number from -8 to 7, and `zero` says that the modified operand is zero (R679). -/
def Counted (op : BitVec 7) (k : BitVec 2) (r : BitVec 4) (v v' : Word) (zero : Bool) : Prop :=
  (op = 0x73#7 ∧ byteOf v' k = BitVec.ofInt 8 ((byteOf v k).toNat + r.toInt) ∧ (∀ j, j ≠ k → byteOf v' j = byteOf v j) ∧
    zero = decide (byteOf v' k = 0)) ∨
  (op = 0x53#7 ∧ ∃ h : BitVec 1, h = k.extractLsb' 1 1 ∧ halfOf v' h = BitVec.ofInt 16 ((halfOf v h).toInt + r.toInt) ∧
    (∀ j, j ≠ h → halfOf v' j = halfOf v j) ∧ zero = decide (halfOf v' h = 0)) ∨
  (op = 0x33#7 ∧ v' = BitVec.ofInt 32 (v.toInt + r.toInt) ∧ zero = decide (v' = 0))

/-- `Eligible(L)` of R677: waiting, enabled and not inhibited. -/
def LevelEligible (s : State) (l : Level) : Prop :=
  flipFlop (groupOf s.ints l.group).wa l = true ∧ flipFlop (groupOf s.ints l.group).aw l = true ∧
  flipFlop (groupOf s.ints l.group).en l = true ∧ LevelInhibited s l = false

end Sys2Proof
end

