-- ==== Sys2Proof/Certificates/Slice0/Obligations.lean ====
section
/-! DEFINITION. The statements for the provers. Each formalises rules of the spec; OBLIGATIONS.json says which. -/

open Sys2Proof Sys2Proof.Config Sys2Proof.Machine

/-! ### Encoding -/

/-- Decoding the word of a well-formed instruction gives the instruction back, from memory's bytes with anything after
them as well (30_encoding R170-R176, R184). -/
def Obligations.DecodeEncode : Prop :=
  ∀ i : Instr, i.wellFormed = true →
    decodeWord (encode i) = .ok i ∧
    ∀ rest, decodeBytes (byteOf (encode i) 0 :: byteOf (encode i) 1 :: byteOf (encode i) 2 :: byteOf (encode i) 3 :: rest) =
      .ok (i, rest)

/-- Every word that decodes is the encoding of the well-formed instruction it decodes to, so that no two words have one
meaning (30_encoding R175, R176). -/
def Obligations.EncodeDecode : Prop :=
  ∀ (w : Word) (i : Instr), decodeWord w = .ok i → encode i = w ∧ i.wellFormed = true

/-- Words written out from the spec's examples and formats decode to what they stand for. -/
def Obligations.DecodeSampleWords : Prop :=
  decodeWord 0x220FFFFF#32 = .ok (.li ⟨0, 0xFFFFF#20⟩) ∧
  decodeWord 0x02200030#32 = .ok (.lcfi ⟨2, 0x00030#20⟩) ∧
  decodeWord 0x22110029#32 = .ok (.li ⟨1, 0x10029#20⟩) ∧
  decodeWord 0x10300100#32 = .ok (.ad ⟨false, 3, 0, 0x100#17⟩) ∧
  decodeWord 0x0F000200#32 = .ok (.xpsd ⟨false, 0, 0, 0x200#17⟩) ∧
  decodeWord 0x04500000#32 = .ok (.cal1 ⟨false, 5, 0, 0⟩) ∧
  decodeWord 0x2E000000#32 = .ok (.wait ⟨false, 0, 0, 0⟩) ∧
  decodeWord 0x64100023#32 = .ok (.bdr ⟨false, 1, 0, 0x23#17⟩) ∧
  decodeWord 0xCC000025#32 = .ok (.sio ⟨true, 0, 0, 0x25#17⟩) ∧
  decodeWord 0x69C00022#32 = .ok (.bcs ⟨false, 12, 0, 0x22#17⟩)

/-! ### Reset and whole-machine rules -/

/-- What the resets and the panel do to the state. CPU RESET (10_state R77) and what it leaves alone (R78, the spec's
decision D7; that it clears the PFI-generated flag is the model's choice, log 37), and that the state after reset is one
that CPU RESET leaves, with the model's own values for what R78 lists (log 1, 2, 3); the RIO that resets this CPU
(60_exceptions R666); MEMORY CLEAR (70 R713); LOAD (R721, R722); INSERT PSW1 and PSW2, with the register pointer untested
(R714; the model's choice, log 40); STORE (R714; log 40); INSTR ADDR INCRM (R714); and that the actions of the idle panel do
nothing while COMPUTE is not in IDLE (R712-R714). -/
def Obligations.ResetState : Prop :=
  cpuReset State.reset = State.reset ∧
  (∀ s : State, ∃ p, p = (cpuReset s).psd ∧ applyEvent .rioReset s = { s with
    psd := p, pdf := false, faultStatus := 0, pfiGenerated := false, compute := .run, halt := .none, pend := .none
    jumped := true, completed := false, stale := none, stoppedAt := none }) ∧
  (∀ s : State, s.compute = .idle → ∃ t, applyEvent .memoryClear s = t ∧
    (∀ a, readWordAt t.mem a = 0) ∧ t.badParity = [] ∧ t = { s with mem := t.mem, badParity := t.badParity }) ∧
  (∀ (s : State) (u : BitVec 13) (w : List Word), s.compute = .idle → MemCanonical s →
    (∀ k, k < 10 → memExists s (homespaceBias s (BitVec.ofNat 22 (0x22 + k))) = true) →
    w = [0x22110029#32, 0x64100023#32, 0x68000028#32, BitVec.ofNat 32 u.toNat,
      BitVec.ofNat 32 (0x22000015 + s.inst.homespaceBias.toNat * 2 ^ 13), 0xCC000025#32, 0xCD000025#32, 0x69C00022#32,
      BitVec.ofNat 32 (0x020000A8 + s.inst.homespaceBias.toNat * 2 ^ 16), 0x0E000058#32] →
    ∃ t, applyEvent (.load u) s = t ∧
      (∀ k, k < 10 → w[k]? = some (readWordAt t.mem (homespaceBias s (BitVec.ofNat 22 (0x22 + k))))) ∧
      (∀ x, (∀ k, k < 10 → Outside (.mem (homespaceBias s (BitVec.ofNat 22 (0x22 + k)))) x) →
        readCell t.mem x = readCell s.mem x) ∧
      t = { s with mem := t.mem, badParity := t.badParity, watch := t.watch }) ∧
  (∀ (s : State) (w : Word) (p : Psd), s.compute = .idle →
    (p = psdLoaded s.psd (w ++ 0#32) false false → applyEvent (.insert1 w) s = { s with
      psd := { p with wk := s.psd.wk, ci := s.psd.ci, ii := s.psd.ii, ei := s.psd.ei } }) ∧
    (p = psdLoaded s.psd (0#32 ++ w) true true → applyEvent (.insert2 w) s = { s with
      psd := { s.psd with wk := p.wk, ci := p.ci, ii := p.ii, ei := p.ei, ma := p.ma, ea := p.ea, rp := p.rp } })) ∧
  (∀ (s : State) (v a : WordAddr) (w : Word) (l : Loc), s.compute = .idle → MemCanonical s →
    a = (if s.psd.mm then v &&& 0x1FFFF#22 else v) → (a.toNat < 16 → l = .reg (a.extractLsb' 0 4)) →
    (16 ≤ a.toNat → ∃ r, r = homespaceBias s (actualAddr s a) ∧ memExists s r = true ∧ l = .mem r) →
    ∃ t, applyEvent (.store v w) s = t ∧ wordAt t l = w ∧ KeptBut s t (· = l) (fun _ => False) ∧ OnlyData s t ∧
      t.psd = s.psd) ∧
  (∀ s : State, s.compute = .idle → ∃ a : BitVec 17,
    a.toNat = (if realExtended s then s.psd.ia.toNat / 65536 * 65536 + (s.psd.ia.toNat + 1) % 65536
      else (s.psd.ia.toNat + 1) % 131072) ∧
    applyEvent .incrementAddress s = { s with psd := { s.psd with ia := a } }) ∧
  (∀ (s : State) (u : BitVec 13) (v : WordAddr) (w : Word), s.compute ≠ .idle →
    ∀ e ∈ [Event.cpuReset, .sysReset, .memoryClear, .load u, .insert1 w, .insert2 w, .store v w, .incrementAddress,
      .snapEnter w], applyEvent e s = s) ∧
  ∀ s : State, s.compute = .idle → ∃ t, applyEvent .cpuReset s = t ∧
    ccOf t = 0 ∧ t.psd.fs = false ∧ t.psd.fz = false ∧ t.psd.fn = false ∧ t.psd.ms = false ∧ t.psd.mm = false ∧
    t.psd.dm = false ∧ t.psd.am = false ∧ t.psd.ansi = false ∧ t.psd.ia = 0x26#17 ∧ t.psd.wk = 0 ∧ t.psd.ci = false ∧
    t.psd.ii = false ∧ t.psd.ei = false ∧ t.psd.ma = false ∧ t.psd.ea = 0 ∧ t.psd.rp = 0 ∧
    t.ints.power = ⟨0xC000#16, 0, 0xC000#16⟩ ∧ t.ints.internal = ⟨0, 0, 0⟩ ∧
    (∀ g : Fin 14, t.ints.external[g.val] = ⟨0, 0, 0⟩) ∧
    t.alarm = false ∧ t.halt = .waiting ∧ t.pdf = false ∧ t.faultStatus = 0 ∧ t.pfiGenerated = false ∧
    t.snapArmed = false ∧
    t.regs = s.regs ∧ t.map = s.map ∧ t.acc = s.acc ∧ t.lock = s.lock ∧ t.mem = s.mem ∧ t.badParity = s.badParity ∧
    t.pcf = s.pcf ∧ t.clockMargin = s.clockMargin ∧ t.snapControl = s.snapControl ∧ t.snapSample = s.snapSample ∧
    t.tcc = s.tcc ∧ t.inst = s.inst ∧ t.banks = s.banks

/-- The state after reset has canonical memory and an installed register block. -/
def Obligations.ResetInvariants : Prop := MemCanonical State.reset ∧ PointerInstalled State.reset

/-- Every step keeps the canonical form of memory, which is the model's (log 2). -/
def Obligations.StepKeepsCanonical : Prop :=
  ∀ s t : State, MemCanonical s → step s = .next t → MemCanonical t

/-- No step selects a register block that is not installed (10_state R54), unless the operator does it by INSERT PSW2, which
loads the pointer untested (the model's choice, log 40): with no such event to come, every step keeps the pointer on an
installed block. -/
def Obligations.StepKeepsPointer : Prop :=
  ∀ s t : State, (∀ es ∈ s.inputs, ∀ e ∈ es, ∀ w, e ≠ .insert2 w) → PointerInstalled s → step s = .next t →
    PointerInstalled t ∧ ∀ es ∈ t.inputs, ∀ e ∈ es, ∀ w, e ≠ .insert2 w

/-- A step runs the decoded instruction (47 R490, R493): with nothing pending, the events of this boundary taken and the
boundary giving an instruction, step is exec of the instruction at `pc`; after an EXU it is exec of the subject (two
steps, the model's choice, log 8); a word that decodes to no instruction takes the trap of R650, one that cannot be fetched
that of its access. With the ADDRESS STOP switches in MEM REF a halt may come on top (R715). The address fetched from and the
next one in sequence, which the INSTR ADDR switch in HOLD keeps (10_state R47; 70 R714); and the ADDRESS STOP halt instead of
the instruction, when the switches in INSTR match its address (R715; that it is made at the boundary, once for a visit, and
that the low 17 bits are compared in real extended addressing too, are the model's choices, log 42). -/
def Obligations.StepRunsInstruction : Prop :=
  (∀ s : State, (pc s).toNat = (if realExtended s then
      (if s.psd.ia.getLsbD 16 then s.psd.ea.toNat * 65536 else 0) + s.psd.ia.toNat % 65536 else s.psd.ia.toNat) ∧
    (∀ l, locate s (pc s) .fetch = .ok l → Sound s l → fetchWord s = .ok (wordAt s l)) ∧
    (nextIa s).toNat = (if s.inst.addressHold then s.psd.ia.toNat
      else if realExtended s then s.psd.ia.toNat / 65536 * 65536 + (s.psd.ia.toNat + 1) % 65536
      else (s.psd.ia.toNat + 1) % 131072)) ∧
  (∀ (s s1 : State) (unit : Nat), s.pend = .none → takeInputs s = s1 → s1.pend = .none → s1.compute = .run →
    s1.halt = .none → nextInterrupt s1 = none → s1.stopSwitches.mode = .instr → s1.snapArmed = false →
    s1.stoppedAt ≠ some (pc s1) → unit = (if s1.stopSwitches.page then 512 else 1) →
    (pc s1).toNat % 131072 / unit = s1.stopSwitches.select.toNat % 131072 / unit →
    step s = .next { s1 with halt := .addressStop, stoppedAt := some (pc s1) }) ∧
  (∀ (s s1 : State) (e : Trap), s.pend = .none → takeInputs s = s1 → s1.pend = .none → boundary s1 = .instruction →
    s1.snapArmed = false → fetchWord s1 = .error e → step s = mapNext settle (withReferenceStop runInstruction s1) ∧
      runInstruction s1 = .next (enterTrap e s1)) ∧
  (∀ (s s1 : State) (w : Word), s.pend = .none → takeInputs s = s1 → s1.pend = .none → boundary s1 = .instruction →
    s1.snapArmed = false → s1.stale = none → fetchWord s1 = .ok w →
    step s = mapNext settle (withReferenceStop runInstruction s1) ∧
    (∀ i, decodeWord w = .ok i →
      runInstruction s1 = mapNext (noteStale s1)
        (exec i { s1 with jumped := false, completed := true, stoppedAt := none })) ∧
    (∀ e, decodeWord w = .error e →
      runInstruction s1 = mapNext (noteStale s1) (.next
        (enterTrap (decodeErrorTrap s1 e) { s1 with jumped := false, completed := true, stoppedAt := none })))) ∧
  (∀ (s : State) (w : Word) (i : Instr), s.pend = .subject w → decodeWord w = .ok i →
    step s = mapNext settle (withReferenceStop (runSubject w) s) ∧
    runSubject w s = mapNext (noteStale s) (exec i { s with pend := .none })) ∧
  (∀ (f : State → Result) (s : State), s.halt ≠ .addressStop →
    (s.stopSwitches.mode ≠ .memRef ∨ s.compute ≠ .run ∨ s.snapArmed = true → withReferenceStop f s = f s) ∧
    ∀ t, f s = .next t →
      withReferenceStop f s = .next t ∨ withReferenceStop f s = .next { t with halt := .addressStop })

/-- A privileged instruction in slave mode takes the trap X'40' with TCC = 0010 and does nothing else (60_exceptions
R652). -/
def Obligations.SlaveModePrivileged : Prop :=
  ∀ (s : State) (m : MR), s.psd.ms = true →
    ∀ i ∈ [Instr.lpsd m, .xpsd m, .lra m, .lms m, .wait m, .lrp m, .sio m, .tio m, .tdv m, .hio m, .rio m, .polp m,
      .polr m, .rd m, .wd m, .aio m, .mmc m],
      exec i s = .next (enterTrap { loc := 0x40#8, tcc := 0b0010#4 } s)

/-- In slave mode no instruction changes the memory control storage, the interrupt levels, the panel and snapshot
controls, the mode bits, DM, AM and AS, the inhibits, the write key or the register block, nor a register of another block;
and no instruction leaves slave mode
except by a trap, taken from a state that agrees with the one before in all of this (10_state R40, R48, R49, R57, R61;
60_exceptions R631, R652). A step that takes an interrupt, a reset or an INSERT leaves slave mode as well: those are no
instruction. -/
def Obligations.SlaveIsolation : Prop :=
  ∀ (i : Instr) (s t : State), s.psd.ms = true → exec i s = .next t →
    t.map = s.map ∧ t.acc = s.acc ∧ t.lock = s.lock ∧ t.ints = s.ints ∧ t.inst = s.inst ∧
    t.alarm = s.alarm ∧ t.pcf = s.pcf ∧ t.clockMargin = s.clockMargin ∧ t.snapControl = s.snapControl ∧
    t.snapArmed = s.snapArmed ∧ t.snapSample = s.snapSample ∧ t.stopSwitches = s.stopSwitches ∧ t.compute = s.compute ∧ t.ioLine = s.ioLine ∧ t.ioScript = s.ioScript ∧
    t.dioScript = s.dioScript ∧ t.inputs = s.inputs ∧ OtherBlocksKept s t ∧
    ((t.psd.ms = true ∧ t.psd.mm = s.psd.mm ∧ t.psd.ma = s.psd.ma ∧ t.psd.rp = s.psd.rp ∧ t.psd.wk = s.psd.wk ∧
        t.psd.dm = s.psd.dm ∧ t.psd.am = s.psd.am ∧ t.psd.ansi = s.psd.ansi ∧ inhibits t = inhibits s) ∨
      ∃ tr u, t = enterTrap tr u ∧ u.psd.ms = true ∧ u.psd.mm = s.psd.mm ∧ u.psd.ma = s.psd.ma ∧
        u.psd.rp = s.psd.rp ∧ u.psd.wk = s.psd.wk ∧ u.psd.dm = s.psd.dm ∧ u.psd.am = s.psd.am ∧
        u.psd.ansi = s.psd.ansi ∧ inhibits u = inhibits s ∧ OtherBlocksKept s u)

/-! ### Traps and interrupts -/

/-- The PSD as a doubleword: where each field lies, the undefined bits zero (10_state R52, R56), and loading the first
word of an image gives its fields back. -/
def Obligations.PsdImage : Prop :=
  ∀ (p q : Psd) (tsf : BitVec 8) (ra : Bool), ∃ w v, psdWord1 p = w ∧ psdWord2 p tsf ra = v ∧
    bit w 0 = p.cc1 ∧ bit w 1 = p.cc2 ∧ bit w 2 = p.cc3 ∧ bit w 3 = p.cc4 ∧ bit w 4 = false ∧ bit w 5 = p.fs ∧
    bit w 6 = p.fz ∧ bit w 7 = p.fn ∧ bit w 8 = p.ms ∧ bit w 9 = p.mm ∧ bit w 10 = p.dm ∧ bit w 11 = p.am ∧
    bit w 12 = p.ansi ∧ field w 13 14 = 0#2 ∧ field w 15 31 = p.ia ∧
    field v 0 1 = 0#2 ∧ field v 2 3 = p.wk ∧ bit v 4 = false ∧ bit v 5 = p.ci ∧ bit v 6 = p.ii ∧ bit v 7 = p.ei ∧
    bit v 8 = p.ma ∧ bit v 9 = false ∧ field v 10 15 = p.ea ∧ field v 16 23 = tsf ∧ field v 24 27 = p.rp ∧
    bit v 28 = ra ∧ field v 29 31 = 0#3 ∧
    loadPsd1 w q = { p with wk := q.wk, ci := q.ci, ii := q.ii, ei := q.ei, ma := q.ma, ea := q.ea, rp := q.rp }

/-- Taking a trap (60_exceptions R640, R664; 48_control R523, R524; 20_memory R116), by an XPSD in the trap location: the old
PSD goes into its doubleword with TSF and RA, the new PSD comes from the next one, the inhibits are ORed, the register
pointer is loaded only with bit 8, TCC is ORed into the new condition code for the locations that R524 lists and added to the
new address if bit 9 is 1 (within bits 16-31 when bit 10 is 1 in real extended addressing). A processor detected fault, the
first, sets PDF and its bit of the fault status; a memory-detected one is noted by its bank. Nothing else changes. -/
def Obligations.TrapEntry : Prop :=
  ∀ (s u : State) (t : Trap) (w n1 n2 : Word) (at_ : WordAddr) (l0 l1 l2 l3 : Loc),
    MemCanonical s → (t.fault.isSome = true → s.pdf = false) →
    s.inst.memoryFaultHalt = false ∨
      (t.bankFault = none ∧ t.fault ≠ some .memoryParity ∧ t.fault ≠ some .dataBus) → enterTrap t s = u →
    at_ = homespaceBias s (t.loc.zeroExtend 22) → memExists s at_ = true → parityBad s at_ = false →
    readWordAt s.mem at_ = w → opOf w = 0x0F#7 → EntryPlaces s w l0 l1 l2 l3 → Sound s l2 → Sound s l3 →
    wordAt s l2 = n1 → wordAt s l3 = n2 → (bit w 8 = true → rpInvalid s (field n2 24 27) = false) →
    PsdStored s u l0 l1 t.tsf t.ra ∧
    (t.loc ∈ [0x40#8, 0x46#8, 0x48#8, 0x49#8, 0x4A#8, 0x4B#8, 0x4C#8, 0x4D#8] →
      ccOf u = field n1 0 3 ||| t.tcc ∧
      u.psd.ia = (if bit w 9 = false then field n1 15 31
        else if realExtended s = true ∧ bit w 10 = true then field n1 15 15 ++ (field n1 16 31 + t.tcc.zeroExtend 16)
        else field n1 15 31 + t.tcc.zeroExtend 17)) ∧
    (t.loc ∉ [0x40#8, 0x46#8, 0x48#8, 0x49#8, 0x4A#8, 0x4B#8, 0x4C#8, 0x4D#8] →
      ccOf u = field n1 0 3 ∧ (bit w 9 = false → u.psd.ia = field n1 15 31)) ∧
    u.psd.fs = bit n1 5 ∧ u.psd.fz = bit n1 6 ∧ u.psd.fn = bit n1 7 ∧ u.psd.ms = bit n1 8 ∧ u.psd.mm = bit n1 9 ∧
    u.psd.dm = bit n1 10 ∧ u.psd.am = bit n1 11 ∧ u.psd.ansi = bit n1 12 ∧ u.psd.wk = field n2 2 3 ∧
    u.psd.ci = (s.psd.ci || bit n2 5) ∧ u.psd.ii = (s.psd.ii || bit n2 6) ∧ u.psd.ei = (s.psd.ei || bit n2 7) ∧
    u.psd.ma = bit n2 8 ∧ u.psd.ea = field n2 10 15 ∧ u.psd.rp = (if bit w 8 then field n2 24 27 else s.psd.rp) ∧
    u.pdf = (s.pdf || t.fault.isSome) ∧ (t.fault = none → u.faultStatus = s.faultStatus) ∧
    (∀ p ∈ [(CpuFault.instructionException, 5), (.dataBus, 4), (.memoryParity, 3), (.watchdog, 2), (.mapParity, 1)],
      t.fault = some p.1 → u.faultStatus = s.faultStatus ||| 1#6 <<< p.2) ∧
    (t.bankFault = none → u.banks = s.banks) ∧
    (∀ bits a, t.bankFault = some (bits, a) → u.banks = (noteBankFault (some (bits, a)) s).banks) ∧
    u = { s with
      psd := u.psd, regs := u.regs, mem := u.mem, badParity := u.badParity, watch := u.watch, banks := u.banks
      tcc := t.tcc, jumped := true, completed := false, stale := none, pend := .none, pdf := u.pdf
      faultStatus := u.faultStatus, free := u.free }

/-- What stops the CPU. The PDF flag (60_exceptions R664): a processor detected fault sets it with its fault status bit; a
second one hangs the CPU before its XPSD, with the PSD and memory as they were (that it loads TCC and adds no status bit is
the model's choice, log 26); and a hung CPU executes nothing more, with STEP neither (70 R710): a step leaves COMPUTE in STEP
only while an entry is still to come. With the MEMORY FAULT switch in HALT (70 R716) a parity
error stops the CPU before all that, with the trap pending (the model's choice, log 42), until the switch is moved to CONT.
ADDRESS STOP in MEM REF (70 R715) halts the CPU after an instruction that loads a word the SELECT ADDRESS switches name, or
with WRT one that stores into it (that the halt comes after the instruction is the model's choice, log 42). The first-phase
watchdog runout (60_exceptions R657) gives its trap only after an instruction that took none, with PDF and the power levels
clear and the timer not overridden. -/
def Obligations.SecondFaultHangs : Prop :=
  (∀ (s : State) (t : Trap), s.inst.memoryFaultHalt = true → t.fault = some .memoryParity ∨ t.fault = some .dataBus →
    t.bankFault = none → enterTrap t s =
      { s with
        tcc := t.tcc, jumped := true, completed := false, stale := none, halt := .memoryFault, pend := .trap t }) ∧
  (∀ (s : State) (t : Trap), s.halt = .memoryFault → s.pend = .trap t →
    step s = .next (takeInputs s) ∧
    (applyEvent (.switch (.memoryFaultHalt false)) s).halt = .none ∧
    (applyEvent (.switch (.memoryFaultHalt false)) s).pend = .trap t) ∧
  (∀ (s : State) (t : Trap) (f : CpuFault), s.inst.memoryFaultHalt = false → t.fault = some f → s.pdf = false →
    (enterTrap t s).pdf = true ∧ (enterTrap t s).faultStatus = s.faultStatus ||| f.statusBit) ∧
  (∀ (s : State) (t : Trap) (f : CpuFault), s.inst.memoryFaultHalt = false → t.fault = some f → t.bankFault = none →
    s.pdf = true → enterTrap t s = { s with
      tcc := t.tcc, jumped := true, completed := false, stale := none, pend := .none, halt := .hung
      pfiGenerated := true }) ∧
  (∀ s : State, s.halt = .hung ∨ s.halt = .memoryFault → s.pend = .none → s.inputs = [] →
    applyEvent .stepOne s = s ∧ ∃ t, step s = .next t ∧
    t = { s with ints := t.ints, compute := if s.compute = .step then .idle else s.compute } ∧ t.halt = s.halt) ∧
  (∀ s t : State, s.pend = .none → s.inputs = [] → s.compute = .step → step s = .next t → t.compute = .step →
    t.pend ≠ .none ∧ t.halt ≠ .memoryFault) ∧
  (∀ (s s1 : State) (m : MR) (v a : WordAddr) (w : Word) (unit : Nat), s.pend = .none → takeInputs s = s1 →
    s1.pend = .none → boundary s1 = .instruction → s1.compute = .run → s1.snapArmed = false → s1.stale = none →
    s1.stopSwitches.mode = .memRef → fetchWord s1 = .ok w → effWordAddr s1 m alignWord = .ok v →
    unit = (if s1.stopSwitches.page then 512 else 1) → a.toNat / unit = s1.stopSwitches.select.toNat / unit →
    (decodeWord w = .ok (.lw m) ∧ s1.stopSwitches.write = false ∧ locate s1 v .read = .ok (.mem a) ∧
        parityBad s1 a = false ∨
      decodeWord w = .ok (.stw m) ∧ s1.stopSwitches.write = true ∧ locate s1 v .write = .ok (.mem a)) →
    ∃ t, runInstruction s1 = .next t ∧ step s = .next { t with halt := .addressStop }) ∧
  (∀ (s : State) (t : Trap), (enterTrap t s).completed = false) ∧
  (∀ s : State, s.compute ≠ .idle → s.halt = .none → s.pend = .none →
    applyEvent .watchdogPhase1 s =
      if s.completed = true ∧ s.pdf = false ∧ s.ints.power.wa = 0 ∧ s.inst.watchdogOverride = false
      then { s with pend := .trap { loc := 0x46#8, tcc := 0b1000#4, fault := some .watchdog } } else s)

/-- Taking an interrupt (60_exceptions R678, R689): in RUN, with a level that may be acknowledged and no trap
anticipated, the level becomes active and the wait state ends (without a test of the instruction after the WAIT: the model's
choice, log 28). That level is the highest of the chain that is waiting,
enabled and not inhibited, with none above it active (R676, R677). With an XPSD there the old PSD is stored with the address of the instruction not yet executed, TSF and RA zero, and the new one loaded with no TCC, the other levels as they were;
with an MTB, MTH or MTW the operand is modified (unless the R field is 0), the level is armed again, a count pulse whose
operand becomes zero signals its counter-equals-zero level, and the PSD is unchanged (R679-R681). Where the levels' locations
are, and which level each external signal and each line goes to (R671, R681-R686). -/
def Obligations.InterruptEntry : Prop :=
  (∀ (s : State) (l : Level), nextInterrupt s = some l ↔ (rankOf s l).isSome = true ∧ LevelEligible s l ∧
    ∀ m, Higher s m l → ¬ LevelActive s m ∧ ¬ LevelEligible s m) ∧
  (∀ l : Level, l.loc.toNat = match l.group with
    | .power => 0x50 + l.bit.val
    | .internal => 0x52 + l.bit.val
    | .external g => 0x60 + 16 * g.val + l.bit.val) ∧
  (∀ s : State,
    (∀ n k, k.val = n.val → LevelSignalled s (applyEvent (.countPulse n) s) ⟨.internal, k⟩) ∧
    (∀ g k, LevelSignalled s (applyEvent (.externalLine g k) s) ⟨.external g, k⟩) ∧
    LevelSignalled s (applyEvent .processorFault s) ⟨.internal, 4⟩ ∧
    LevelSignalled s (applyEvent .interruptButton s) ⟨.internal, 11⟩ ∧
    LevelSignalled s (applyEvent .powerOff s) ⟨.power, 1⟩ ∧
    (s.inputs = [] → ∃ s1, (if s.ioLine then LevelSignalled s s1 ⟨.internal, 10⟩ else s1 = s) ∧
      if s.banks.any (·.mfi) then LevelSignalled s1 (takeInputs s) ⟨.internal, 5⟩ else takeInputs s = s1)) ∧
  (∀ (s : State) (l : Level), s.pend = .none → s.inputs = [] → takeInputs s = s → s.compute = .run →
    nextInterrupt s = some l →
    s.halt = .waiting ∨ (s.halt = .none ∧ anticipatedTrap s = none) →
    step s = withReferenceStop (fun r => .next (enterInterrupt l r)) s) ∧
  (∀ (s u : State) (l : Level) (w n1 n2 : Word) (at_ : WordAddr) (l0 l1 l2 l3 : Loc),
    MemCanonical s → s.pend = .none → enterInterrupt l s = u →
    at_ = homespaceBias s l.loc → memExists s at_ = true → parityBad s at_ = false → readWordAt s.mem at_ = w →
    (opOf w = 0x0F#7 → EntryPlaces s w l0 l1 l2 l3 → Sound s l2 → Sound s l3 → wordAt s l2 = n1 → wordAt s l3 = n2 →
      (bit w 8 = true → rpInvalid s (field n2 24 27) = false) →
      PsdStored s u l0 l1 0 false ∧
      u.psd = { loadPsd1 n1 s.psd with
        wk := field n2 2 3, ci := s.psd.ci || bit n2 5, ii := s.psd.ii || bit n2 6, ei := s.psd.ei || bit n2 7
        ma := bit n2 8, ea := field n2 10 15, rp := if bit w 8 then field n2 24 27 else s.psd.rp } ∧
      groupOf u.ints l.group = { groupOf s.ints l.group with
        aw := (groupOf s.ints l.group).aw &&& ~~~ (levelMask l.bit)
        wa := (groupOf s.ints l.group).wa ||| levelMask l.bit } ∧
      (∀ g, g ≠ l.group → groupOf u.ints g = groupOf s.ints g) ∧
      u = { s with
        psd := u.psd, regs := u.regs, mem := u.mem, badParity := u.badParity, watch := u.watch, ints := u.ints
        halt := .none, stale := none, completed := true, jumped := true }) ∧
    (∀ (p : Loc) (k : BitVec 2) (v' : Word) (zero : Bool), CounterOperand s l w p k →
      Counted (opOf w) k (field w 8 11) (wordAt s p) v' zero →
      wordAt u p = v' ∧ KeptBut s u (· = p) (fun _ => False) ∧
      (field w 8 11 = 0#4 → u.mem = s.mem ∧ u.regs = s.regs ∧ u.badParity = s.badParity) ∧
      (∀ m : Level, (groupOf u.ints m.group).en = (groupOf s.ints m.group).en ∧
        flipFlop (groupOf u.ints m.group).aw m = (flipFlop (groupOf s.ints m.group).aw m || decide (m = l)) ∧
        flipFlop (groupOf u.ints m.group).wa m = (decide (m ≠ l) && (flipFlop (groupOf s.ints m.group).wa m ||
          (zero && decide (l.group = .internal ∧ l.bit.val < 4 ∧ m.group = .internal ∧ m.bit.val = l.bit.val + 6) &&
            flipFlop (groupOf s.ints m.group).aw m)))) ∧
      u = { s with
        regs := u.regs, mem := u.mem, badParity := u.badParity, watch := u.watch, ints := u.ints, halt := .none
        stale := none, completed := true }))

/-! ### Addresses and memory -/

/-- The access path (20_memory R118-R120, R124, R128, R130, R131; 60_exceptions R651): addresses below 16 are registers;
any other is mapped if MM = 1, tested for its kind of access, and biased; the trap has TCC2 for a nonexistent and TCC4
for a protected address, with the page in the latter case. -/
def Obligations.AccessPath : Prop :=
  ∀ (s : State) (v : WordAddr) (k : Access),
    (v.toNat < 16 → locate s v k = .ok (.reg (v.extractLsb' 0 4))) ∧
    (16 ≤ v.toNat → ∀ (p : BitVec 8) (a real : WordAddr) (code key lock : BitVec 2) (viol missing : Bool),
      p = v.extractLsb' 9 8 →
      a = (if s.psd.mm then s.map[p.toNat]'p.isLt ++ v.extractLsb' 0 9 else v) →
      real = (if a.toNat < 1024 then s.inst.homespaceBias.zeroExtend 22 <<< 14 ||| a else a) →
      code = s.acc[p.toNat]'p.isLt → key = s.psd.wk →
      lock = (if h : a.toNat < 131072 then s.lock[a.toNat / 512]'(by omega) else 0) →
      viol = decide ((s.psd.mm = true ∧ (s.psd.ms = true ∨ s.psd.ma = true) ∧
          ((k = .write ∧ code ≠ 0) ∨ (k = .read ∧ code = 3) ∨ (k = .fetch ∧ (code = 2 ∨ code = 3)))) ∨
        (k = .write ∧ lock ≠ 0 ∧ key ≠ 0 ∧ key ≠ lock)) →
      missing = !memExists s real →
      (viol = false → missing = false → locate s v k = .ok (.mem real)) ∧
      (viol = true ∨ missing = true → locate s v k = .error {
        loc := 0x40#8, tcc := 0#1 ++ BitVec.ofBool missing ++ 0#1 ++ BitVec.ofBool viol
        tsf := if viol then p else 0 }))

/-- The effective address (20_memory R109, R110, R112): the reference address, replaced by the indirect word's if bit 0
is 1; then the index register's contents shifted by the alignment are added, within 19 bits, or 24 in real extended
addressing; a doubleword address is made even. -/
def Obligations.EffectiveAddress : Prop :=
  ∀ (s : State) (m : MR) (align : Nat) (ref : WordAddr), align < 4 →
    (m.ind = false → ref = directRef s m) →
    (m.ind = true → ∃ w, readWord s (directRef s m) = .ok w ∧ ref =
      (if realExtended s = false then (field w 15 31).zeroExtend 22
       else if bit w 0 = false then field w 10 31
       else if bit w 15 = false then (field w 16 31).zeroExtend 22 else s.psd.ea ++ field w 16 31)) →
    directRef s m = (if realExtended s = false then m.addr.zeroExtend 22
      else if bitOf m.addr 0 = false then (m.addr.extractLsb' 0 16).zeroExtend 22
      else s.psd.ea ++ m.addr.extractLsb' 0 16) ∧
    ∃ b, effAddr s m align = .ok b ∧
      b.toNat = (if m.x = 0 then 4 * ref.toNat
          else (4 * ref.toNat + (getReg s (0#1 ++ m.x)).toNat * 2 ^ align) %
            (if realExtended s then 2 ^ 24 else 2 ^ 19)) / (if align = 3 then 8 else 1) * (if align = 3 then 8 else 1)

/-- Memories in canonical form (the model's, log 2) that read alike are equal, so that equality of states is equality of
what they hold. -/
def Obligations.MemoryExtensional : Prop :=
  ∀ m n : Memory, Memory.wf m = true → Memory.wf n = true → (∀ x, readCell m x = readCell n x) → m = n

/-! ### Load and store -/

/-- LI, LB, LH, LW, LCH and LAH (40_load_store R210, R220-R223, R225, R226): register R receives the value, CC3 and CC4 its
sign, and nothing else changes but the instruction address. -/
def Obligations.LoadWords : Prop :=
  (∀ (s : State) (i : Imm) (v : Word), v = i.value.signExtend 32 →
    exec (.li i) s = .next (loaded s (oneReg s i.r v) v)) ∧
  (∀ (s : State) (m : MR) (b : Byte) (v : Word), operandByte s m = .ok b → v = BitVec.ofNat 32 b.toNat →
    exec (.lb m) s = .next (loaded s (oneReg s m.r v) v)) ∧
  (∀ (s : State) (m : MR) (h : Half) (v : Word), operandHalf s m = .ok h → v = BitVec.ofInt 32 h.toInt →
    exec (.lh m) s = .next (loaded s (oneReg s m.r v) v)) ∧
  (∀ (s : State) (m : MR) (w : Word), operandWord s m = .ok w →
    exec (.lw m) s = .next (loaded s (oneReg s m.r w) w)) ∧
  (∀ (s : State) (m : MR) (h : Half) (v : Word), operandHalf s m = .ok h → v = BitVec.ofInt 32 (-h.toInt) →
    exec (.lch m) s = .next (loaded s (oneReg s m.r v) v)) ∧
  (∀ (s : State) (m : MR) (h : Half) (v : Word), operandHalf s m = .ok h → v = BitVec.ofInt 32 |h.toInt| →
    exec (.lah m) s = .next (loaded s (oneReg s m.r v) v))

/-- LCW and LAW (40_load_store R227, R228, R212): the two's complement or absolute value, CC2 exactly for the operand
-2^31, and with AM = 1 the trap X'43' after completion. -/
def Obligations.LoadComplementAbsolute : Prop :=
  (∀ (s : State) (m : MR) (w v : Word), operandWord s m = .ok w → v = BitVec.ofInt 32 (-w.toInt) →
    CompletesOrOverflows (exec (.lcw m) s)
      (finished s (oneReg s m.r v) s.psd.cc1 (decide (w = 0x80000000#32)) (decide (0 < v.toInt))
        (decide (v.toInt < 0)))) ∧
  (∀ (s : State) (m : MR) (w v : Word), operandWord s m = .ok w → v = BitVec.ofInt 32 |w.toInt| →
    CompletesOrOverflows (exec (.law m) s)
      (finished s (oneReg s m.r v) s.psd.cc1 (decide (w = 0x80000000#32)) (decide (0 < v.toInt))
        (decide (v.toInt < 0))))

/-- LD, LCD and LAD (40_load_store R212, R213, R224, R229, R230): Ru1 receives the low half and then R the high half, so
that with odd R the high half stays; CC3 and CC4 come from all 64 bits; CC2 of LCD and LAD exactly for -2^63. -/
def Obligations.LoadDoubles : Prop :=
  (∀ (s : State) (m : MR) (d : Dword), operandDword s m = .ok d →
    exec (.ld m) s = .next (loaded s (pairRegs s m.r (hiWord d) (loWord d)) d)) ∧
  (∀ (s : State) (m : MR) (d v : Dword), operandDword s m = .ok d → v = BitVec.ofInt 64 (-d.toInt) →
    CompletesOrOverflows (exec (.lcd m) s)
      (finished s (pairRegs s m.r (hiWord v) (loWord v)) s.psd.cc1 (decide (d = 0x8000000000000000#64))
        (decide (0 < v.toInt)) (decide (v.toInt < 0)))) ∧
  (∀ (s : State) (m : MR) (d v : Dword), operandDword s m = .ok d → v = BitVec.ofInt 64 |d.toInt| →
    CompletesOrOverflows (exec (.lad m) s)
      (finished s (pairRegs s m.r (hiWord v) (loWord v)) s.psd.cc1 (decide (d = 0x8000000000000000#64))
        (decide (0 < v.toInt)) (decide (v.toInt < 0))))

/-- LS, LCFI and LCF (40_load_store R234, R238, R239): LS takes the bits of the operand under the mask in Ru1 and keeps
the others (with odd R, register R is operand and mask); LCFI and LCF load the condition code if instruction bit 10 is 1
and the floating controls if bit 11 is 1. -/
def Obligations.LoadSelectiveAndControls : Prop :=
  (∀ (s : State) (m : MR) (w v : Word), operandWord s m = .ok w →
    (oddR m.r = true → v = w &&& getReg s m.r) →
    (oddR m.r = false → ∀ k, v.getLsbD k =
      (if (getReg s (m.r + 1)).getLsbD k then w.getLsbD k else (getReg s m.r).getLsbD k)) →
    exec (.ls m) s = .next (loaded s (oneReg s m.r v) v)) ∧
  (∀ (s : State) (r : BitVec 4) (b : Byte) (t : State),
    t = { s with psd := { s.psd with
      cc1 := if r.getLsbD 1 then bitOf b 0 else s.psd.cc1
      cc2 := if r.getLsbD 1 then bitOf b 1 else s.psd.cc2
      cc3 := if r.getLsbD 1 then bitOf b 2 else s.psd.cc3
      cc4 := if r.getLsbD 1 then bitOf b 3 else s.psd.cc4
      fs := if r.getLsbD 0 then bitOf b 5 else s.psd.fs
      fz := if r.getLsbD 0 then bitOf b 6 else s.psd.fz
      fn := if r.getLsbD 0 then bitOf b 7 else s.psd.fn
      ia := nextIa s } } →
    (∀ x : BitVec 12, exec (.lcfi ⟨r, x ++ b⟩) s = .next t) ∧
    (∀ m : MR, m.r = r → operandByte s m = .ok b → exec (.lcf m) s = .next t))

/-- XW and LAS (40_load_store R231, R240): the register receives the word of the location, whose sign sets CC3 and CC4. XW
puts the register's old contents there; LAS, which always addresses memory, sets bit 0 of the word there. Nothing else
changes. -/
def Obligations.ExchangeAndSet : Prop :=
  (∀ (s : State) (m : MR) (v : WordAddr) (l : Loc) (w : Word), MemCanonical s → effWordAddr s m alignWord = .ok v →
    locate s v .write = .ok l → Sound s l → wordAt s l = w →
    ∃ t, exec (.xw m) s = .next t ∧ getReg t m.r = w ∧ wordAt t l = getReg s m.r ∧
      KeptBut s t (· = l) (· = m.r) ∧ OnlyData s t ∧
      t.psd = (loaded s s.regs w).psd) ∧
  (∀ (s : State) (m : MR) (v a : WordAddr) (w : Word), MemCanonical s → effWordAddr s m alignWord = .ok v →
    locateMemory s v .write = .ok a → parityBad s a = false → readWordAt s.mem a = w →
    ∃ t, exec (.las m) s = .next t ∧ getReg t m.r = w ∧ readWordAt t.mem a = w ||| 0x80000000#32 ∧
      KeptBut s t (· = .mem a) (· = m.r) ∧ OnlyData s t ∧
      t.psd = (loaded s s.regs w).psd)

/-- LM (40_load_store R236): as many words as the condition code says, 16 for 0, go into successive registers, modulo 16,
when no register is both source and destination (log 12); nothing else changes. -/
def Obligations.LoadMultiple : Prop :=
  ∀ (s : State) (m : MR) (v : WordAddr) (n : Nat) (w : Nat → Word),
    effWordAddr s m alignWord = .ok v → n = (if ccOf s = 0 then 16 else (ccOf s).toNat) → NoOverlap s v m.r n →
    (∀ k, k < n → readWord s (wordPlus s v k) = .ok (w k)) →
    ∃ t, exec (.lm m) s = .next t ∧ t = onward s t.regs ∧
      (∀ k, k < n → getReg t (m.r + BitVec.ofNat 4 k) = w k) ∧
      (∀ x, ¬ InRun m.r n x → getReg t x = getReg s x) ∧ OtherBlocksKept s t

/-- STW and STS (40_load_store R243, R245): the effective word location receives register R, or the mixture of register
and location that the mask in Ru1 selects (with odd R, their OR); nothing else changes, not even the condition code. -/
def Obligations.StoreWords : Prop :=
  (∀ (s : State) (m : MR) (v : WordAddr) (l : Loc), MemCanonical s → effWordAddr s m alignWord = .ok v →
    locate s v .write = .ok l →
    ∃ t, exec (.stw m) s = .next t ∧
      StoredAt s t l (getReg s m.r) s.psd.cc1 s.psd.cc2 s.psd.cc3 s.psd.cc4) ∧
  (∀ (s : State) (m : MR) (v : WordAddr) (l : Loc) (x : Word), MemCanonical s → effWordAddr s m alignWord = .ok v →
    locate s v .write = .ok l → Sound s l →
    (oddR m.r = true → x = getReg s m.r ||| wordAt s l) →
    (oddR m.r = false → ∀ k, x.getLsbD k =
      (if (getReg s (m.r + 1)).getLsbD k then (getReg s m.r).getLsbD k else (wordAt s l).getLsbD k)) →
    ∃ t, exec (.sts m) s = .next t ∧ StoredAt s t l x s.psd.cc1 s.psd.cc2 s.psd.cc3 s.psd.cc4)

/-- STB, STH and STCF (40_load_store R241, R242, R247): the effective byte or halfword of its word is replaced and the rest
of the word kept; bit 4 of STCF's byte is 0 (the spec's decision D5); STH sets CC2 exactly when the register, as it is before
the store (the model's choice, log 38), does not fit a signed halfword. -/
def Obligations.StoreParts : Prop :=
  (∀ (s : State) (m : MR) (b : ByteAddr) (l : Loc), MemCanonical s → effAddr s m alignByte = .ok b →
    locate s (wordOf b) .write = .ok l → Sound s l →
    (∃ t w, exec (.stb m) s = .next t ∧ StoredAt s t l w s.psd.cc1 s.psd.cc2 s.psd.cc3 s.psd.cc4 ∧
      byteOf w (b.extractLsb' 0 2) = (getReg s m.r).extractLsb' 0 8 ∧
      ∀ k, k ≠ b.extractLsb' 0 2 → byteOf w k = byteAt s l k) ∧
    (∃ t w, exec (.stcf m) s = .next t ∧ StoredAt s t l w s.psd.cc1 s.psd.cc2 s.psd.cc3 s.psd.cc4 ∧
      byteOf w (b.extractLsb' 0 2) = BitVec.ofBool s.psd.cc1 ++ BitVec.ofBool s.psd.cc2 ++ BitVec.ofBool s.psd.cc3 ++
        BitVec.ofBool s.psd.cc4 ++ 0#1 ++ BitVec.ofBool s.psd.fs ++ BitVec.ofBool s.psd.fz ++ BitVec.ofBool s.psd.fn ∧
      ∀ k, k ≠ b.extractLsb' 0 2 → byteOf w k = byteAt s l k)) ∧
  (∀ (s : State) (m : MR) (b : ByteAddr) (l : Loc), MemCanonical s → effAddr s m alignHalf = .ok b →
    locate s (wordOf b) .write = .ok l → Sound s l →
    ∃ t w, exec (.sth m) s = .next t ∧
      StoredAt s t l w s.psd.cc1 (decide (¬ (-32768 ≤ (getReg s m.r).toInt ∧ (getReg s m.r).toInt ≤ 32767)))
        s.psd.cc3 s.psd.cc4 ∧
      halfOf w (b.extractLsb' 1 1) = (getReg s m.r).extractLsb' 0 16 ∧
      ∀ h, h ≠ b.extractLsb' 1 1 → halfOf w h = halfOf (wordAt s l) h)

/-- STD (40_load_store R244): the even word of the effective doubleword receives R and the odd word Ru1 (with odd R, both R);
nothing else changes. -/
def Obligations.StoreDouble : Prop :=
  ∀ (s : State) (m : MR) (v : WordAddr) (l0 l1 : Loc), MemCanonical s → effWordAddr s m alignDword = .ok v →
    locate s v .write = .ok l0 → locate s (v + 1) .write = .ok l1 →
    ∃ t, exec (.std m) s = .next t ∧ wordAt t l0 = getReg s m.r ∧ wordAt t l1 = getReg s (ru1 m.r) ∧
      KeptBut s t (fun l => l = l0 ∨ l = l1) (fun _ => False) ∧ OnlyData s t ∧ t.psd = (onward s s.regs).psd

/-- STM (40_load_store R246): as many registers as the condition code says, 16 for 0, modulo 16, go into successive words,
when the words are distinct places and none is a register of the run (log 12); nothing else changes. -/
def Obligations.StoreMultiple : Prop :=
  ∀ (s : State) (m : MR) (v : WordAddr) (n : Nat) (l : Nat → Loc), MemCanonical s →
    effWordAddr s m alignWord = .ok v → n = (if ccOf s = 0 then 16 else (ccOf s).toNat) → NoOverlap s v m.r n →
    (∀ k, k < n → locate s (wordPlus s v k) .write = .ok (l k)) → (∀ j k, j < k → k < n → l j ≠ l k) →
    ∃ t, exec (.stm m) s = .next t ∧ (∀ k, k < n → wordAt t (l k) = getReg s (m.r + BitVec.ofNat 4 k)) ∧
      KeptBut s t (fun x => ∃ k, k < n ∧ x = l k) (fun _ => False) ∧ OnlyData s t ∧ t.psd = (onward s s.regs).psd

/-! ### Analyze, interpret, fixed-point arithmetic -/

/-- ANLZ and INT (41 R260-R265): ANLZ leaves the effective address that the analyzed word would form, as a displacement of
its group's size, with CC1, CC2, CC4 the group and CC3 its indirect bit; for an immediate word the register is kept; in
master-protected mode what would trap is reported in the register instead: the analyzed word's indirect reference with
code 001, the word itself with code 011, ANLZ's own indirect reference with code 111, in the last two the condition code
being open (log 13); a memory parity error is noted by its bank all the same, and
with the MEMORY FAULT switch in HALT stops the CPU after it (70 R716; log 42). Which operation codes are of which group
(R261; R262, the spec's decision D27). INT splits the effective word into the condition code, R (bits 4-15) and Ru1 (bits 16-31). -/
def Obligations.AnalyzeInterpret : Prop :=
  (∀ op : BitVec 7, groupOfOp op =
    if op ∈ [0x40#7, 0x41#7, 0x42#7, 0x43#7, 0x60#7, 0x61#7, 0x62#7, 0x63#7] then .immediateByte
    else if op ∈ [0x02#7, 0x20#7, 0x21#7, 0x22#7, 0x23#7] then .immediateWord
    else if op.toNat / 16 = 7 then .byte
    else if op.toNat / 16 = 5 then .half
    else if 8 ≤ op.toNat ∧ op.toNat < 32 then .dword
    else .word) ∧
  (∀ (s : State) (m : MR) (a : Word), operandWord s m = .ok a →
    (groupOfOp (opOf a) = .immediateByte →
      exec (.anlz m) s = .next (finished s s.regs false false (bit a 0) true)) ∧
    (groupOfOp (opOf a) = .immediateWord →
      exec (.anlz m) s = .next (finished s s.regs true false (bit a 0) true)) ∧
    (∀ b, groupOfOp (opOf a) = .byte → effAddr s (refOf a) alignByte = .ok b →
      exec (.anlz m) s = .next (finished s (oneReg s m.r (BitVec.ofNat 32 b.toNat)) false false (bit a 0) false)) ∧
    (∀ b, groupOfOp (opOf a) = .half → effAddr s (refOf a) alignHalf = .ok b →
      exec (.anlz m) s = .next (finished s (oneReg s m.r (BitVec.ofNat 32 (b.toNat / 2))) false true (bit a 0) false)) ∧
    (∀ b, groupOfOp (opOf a) = .word → effAddr s (refOf a) alignWord = .ok b →
      exec (.anlz m) s = .next (finished s (oneReg s m.r (BitVec.ofNat 32 (b.toNat / 4))) true false (bit a 0) false)) ∧
    (∀ b, groupOfOp (opOf a) = .dword → effAddr s (refOf a) alignDword = .ok b →
      exec (.anlz m) s = .next (finished s (oneReg s m.r (BitVec.ofNat 32 (b.toNat / 8))) true true (bit a 0) false))) ∧
  (∀ (s : State) (m : MR) (e : Trap) (t : State), s.psd.ms = false → s.psd.mm = true → s.psd.ma = true →
    t = (if s.inst.memoryFaultHalt = true ∧ e.bankFault.isSome = true
      then { noteBankFault e.bankFault s with halt := .memoryFault } else noteBankFault e.bankFault s) →
    (∀ v, effWordAddr s m alignWord = .ok v → readWord s v = .error e →
      ∃ cc : BitVec 4, exec (.anlz m) s =
        .next { finishedCC t (oneReg t m.r (0b00000011#8 ++ 0#2 ++ v)) cc with free := t.free + 1 }) ∧
    (effWordAddr s m alignWord = .error e →
      ∃ cc : BitVec 4, exec (.anlz m) s =
        .next { finishedCC t (oneReg t m.r (0b00000111#8 ++ 0#2 ++ directRef s m)) cc with free := t.free + 1 }) ∧
    (∀ a, operandWord s m = .ok a → groupOfOp (opOf a) ≠ .immediateByte → groupOfOp (opOf a) ≠ .immediateWord →
      bit a 0 = true → readWord s (directRef s (refOf a)) = .error e →
      ∀ c1 c2 : Bool, c1 = decide (groupOfOp (opOf a) = .word ∨ groupOfOp (opOf a) = .dword) →
        c2 = decide (groupOfOp (opOf a) = .half ∨ groupOfOp (opOf a) = .dword) →
        exec (.anlz m) s =
          .next (finished t (oneReg t m.r (0b00000001#8 ++ 0#2 ++ directRef s (refOf a))) c1 c2 true false))) ∧
  (∀ (s : State) (bits : Word) (a : WordAddr), ∃ parity : Bool, noteBankFault (some (bits, a)) s =
    { s with
      free := s.free + 1
      banks := updateBanks (fun b =>
        if b.snap = none then
          { b with faults := b.faults ||| bits ||| (if parity then 0x00040000#32 else 0), snap := some a, mfi := true }
        else { b with faults := b.faults ||| 0x00080000#32, mfi := true }) a s.banks }) ∧
  (∀ (s : State) (m : MR) (w : Word), operandWord s m = .ok w →
    exec (.int m) s = .next (finishedCC s
      (pairRegsLowLast s m.r ((field w 4 15).zeroExtend 32) ((field w 16 31).zeroExtend 32)) (field w 0 3)))

/-- AI, AH, AW, SH and SW (41 R266-R270, R272, R273): the low 32 bits of the exact sum or difference, CC1 the carry out of
bit 0 (of the sum with the two's complement, for a difference), CC2 overflow, CC3 CC4 the sign; with CC2 = AM = 1 the trap
X'43' after completion. -/
def Obligations.AddSubtractWords : Prop :=
  (∀ (s : State) (i : Imm) (b : Word), b = i.value.signExtend 32 →
    ArithmeticEnd 32 (exec (.ai i) s) s (oneReg s i.r) (decide (2 ^ 32 ≤ (getReg s i.r).toNat + b.toNat))
      ((getReg s i.r).toInt + b.toInt)) ∧
  (∀ (s : State) (m : MR) (b : Word), operandWord s m = .ok b →
    ArithmeticEnd 32 (exec (.aw m) s) s (oneReg s m.r) (decide (2 ^ 32 ≤ (getReg s m.r).toNat + b.toNat))
      ((getReg s m.r).toInt + b.toInt) ∧
    ArithmeticEnd 32 (exec (.sw m) s) s (oneReg s m.r) (decide (b.toNat ≤ (getReg s m.r).toNat))
      ((getReg s m.r).toInt - b.toInt)) ∧
  (∀ (s : State) (m : MR) (h : Half) (b : Word), operandHalf s m = .ok h → b = h.signExtend 32 →
    ArithmeticEnd 32 (exec (.ah m) s) s (oneReg s m.r) (decide (2 ^ 32 ≤ (getReg s m.r).toNat + b.toNat))
      ((getReg s m.r).toInt + h.toInt) ∧
    ArithmeticEnd 32 (exec (.sh m) s) s (oneReg s m.r) (decide (b.toNat ≤ (getReg s m.r).toNat))
      ((getReg s m.r).toInt - h.toInt))

/-- AD and SD (41 R266, R267, R271, R274; 60 R662): the 64-bit sum and difference of the even-odd pair and the effective
doubleword; an odd R traps before the operand is fetched (the spec's decision D48). -/
def Obligations.AddSubtractDoubles : Prop :=
  (∀ (s : State) (m : MR) (a b : Dword), oddR m.r = false → operandDword s m = .ok b →
    a = getReg s m.r ++ getReg s (m.r + 1) →
    ArithmeticEnd 64 (exec (.ad m) s) s (fun d => pairRegs s m.r (hiWord d) (loWord d))
      (decide (2 ^ 64 ≤ a.toNat + b.toNat)) (a.toInt + b.toInt) ∧
    ArithmeticEnd 64 (exec (.sd m) s) s (fun d => pairRegs s m.r (hiWord d) (loWord d))
      (decide (b.toNat ≤ a.toNat)) (a.toInt - b.toInt)) ∧
  (∀ (s : State) (m : MR), oddR m.r = true →
    exec (.ad m) s = registerTrapTaken s ∧ exec (.sd m) s = registerTrapTaken s)

/-- MI, MH and MW (41 R275-R277): the exact product of Ru1 (of the low half of R, for MH) and the operand; MI and MW leave
its high word in R and its low word in Ru1, CC2 whether it needs more than 32 bits; MH leaves it in Ru1. -/
def Obligations.Multiply : Prop :=
  (∀ (s : State) (i : Imm) (p : Int) (d : Dword), p = (getReg s (ru1 i.r)).toInt * i.value.toInt → d = BitVec.ofInt 64 p →
    exec (.mi i) s = .next (finished s (pairRegsLowLast s i.r (hiWord d) (loWord d)) s.psd.cc1
      (decide (p < -2 ^ 31 ∨ 2 ^ 31 ≤ p)) (decide (0 < p)) (decide (p < 0)))) ∧
  (∀ (s : State) (m : MR) (w : Word) (p : Int) (d : Dword), operandWord s m = .ok w →
    p = (getReg s (ru1 m.r)).toInt * w.toInt → d = BitVec.ofInt 64 p →
    exec (.mw m) s = .next (finished s (pairRegsLowLast s m.r (hiWord d) (loWord d)) s.psd.cc1
      (decide (p < -2 ^ 31 ∨ 2 ^ 31 ≤ p)) (decide (0 < p)) (decide (p < 0)))) ∧
  (∀ (s : State) (m : MR) (h : Half) (p : Int), operandHalf s m = .ok h →
    p = ((getReg s m.r).extractLsb' 0 16).toInt * h.toInt →
    exec (.mh m) s = .next (finished s (oneReg s (ru1 m.r) (BitVec.ofInt 32 p)) s.psd.cc1 s.psd.cc2
      (decide (0 < p)) (decide (p < 0))))

/-- DH and DW (41 R278, R279; 60 R656): the quotient truncated toward zero and for DW the remainder with the sign of the
dividend; a zero divisor or a quotient beyond 32 bits sets CC2 alone, and with AM = 1 traps to X'43' with the instruction's
own address (that a quotient of exactly -2^31 is delivered is the spec's decision D34, the address its D47). -/
def Obligations.Divide : Prop :=
  (∀ (s : State) (m : MR) (h : Half) (n q : Int), operandHalf s m = .ok h → n = (getReg s m.r).toInt → q = n.tdiv h.toInt →
    (h.toInt ≠ 0 → -2 ^ 31 ≤ q → q < 2 ^ 31 → exec (.dh m) s =
      .next (finished s (oneReg s m.r (BitVec.ofInt 32 q)) s.psd.cc1 false (decide (0 < q)) (decide (q < 0)))) ∧
    (h.toInt = 0 ∨ q < -2 ^ 31 ∨ 2 ^ 31 ≤ q →
      (s.psd.am = false → exec (.dh m) s = .next (finished s s.regs s.psd.cc1 true s.psd.cc3 s.psd.cc4)) ∧
      (s.psd.am = true → exec (.dh m) s = .next (enterTrap { loc := 0x43#8 } (setCC2 true s))))) ∧
  (∀ (s : State) (m : MR) (w : Word) (n q : Int), operandWord s m = .ok w →
    n = (if oddR m.r then (getReg s m.r).toInt else (getReg s m.r ++ getReg s (m.r + 1)).toInt) → q = n.tdiv w.toInt →
    (w.toInt ≠ 0 → -2 ^ 31 ≤ q → q < 2 ^ 31 → exec (.dw m) s =
      .next (finished s (pairRegsLowLast s m.r (BitVec.ofInt 32 (n - q * w.toInt)) (BitVec.ofInt 32 q)) s.psd.cc1 false
        (decide (0 < q)) (decide (q < 0)))) ∧
    (w.toInt = 0 ∨ q < -2 ^ 31 ∨ 2 ^ 31 ≤ q →
      (s.psd.am = false → exec (.dw m) s = .next (finished s s.regs s.psd.cc1 true s.psd.cc3 s.psd.cc4)) ∧
      (s.psd.am = true → exec (.dw m) s = .next (enterTrap { loc := 0x43#8 } (setCC2 true s)))))

/-- AWM, MTB, MTH and MTW (41 R280-R283): the location receives its sum with register R, or with the R field as a number
from -8 to 7; CC1 the carry, CC2 overflow (0 for MTB), CC3 CC4 the sign of the result; with an R field of 0 a modify-and-test
instruction only tests and stores nothing. Overflow with AM = 1 traps to X'43' after completion. -/
def Obligations.ModifyMemory : Prop :=
  (∀ (s : State) (m : MR) (v : WordAddr) (l : Loc) (w : Word) (x : Int), MemCanonical s →
    effWordAddr s m alignWord = .ok v → locate s v .write = .ok l → Sound s l → wordAt s l = w →
    (x = w.toInt + (getReg s m.r).toInt →
      ∃ t, StoredAt s t l (BitVec.ofInt 32 x) (decide (2 ^ 32 ≤ w.toNat + (getReg s m.r).toNat))
          (decide (x < -2 ^ 31 ∨ 2 ^ 31 ≤ x)) (decide (0 < (BitVec.ofInt 32 x).toInt))
          (decide ((BitVec.ofInt 32 x).toInt < 0)) ∧
        CompletesOrOverflows (exec (.awm m) s) t) ∧
    (x = w.toInt + m.r.toInt → m.r ≠ 0 →
      ∃ t, StoredAt s t l (BitVec.ofInt 32 x) (decide (2 ^ 32 ≤ w.toNat + (m.r.signExtend 32).toNat))
          (decide (x < -2 ^ 31 ∨ 2 ^ 31 ≤ x)) (decide (0 < (BitVec.ofInt 32 x).toInt))
          (decide ((BitVec.ofInt 32 x).toInt < 0)) ∧
        CompletesOrOverflows (exec (.mtw m) s) t)) ∧
  (∀ (s : State) (m : MR) (b : ByteAddr) (l : Loc) (k : BitVec 2) (x : Int), MemCanonical s →
    effAddr s m alignByte = .ok b → locate s (wordOf b) .write = .ok l → Sound s l → k = b.extractLsb' 0 2 →
    m.r ≠ 0 → x = (byteAt s l k).toNat + m.r.toInt →
    ∃ t w, exec (.mtb m) s = .next t ∧
      StoredAt s t l w (decide (2 ^ 8 ≤ (byteAt s l k).toNat + (m.r.signExtend 8).toNat)) false
        (decide (BitVec.ofInt 8 x ≠ 0)) false ∧
      byteOf w k = BitVec.ofInt 8 x ∧ ∀ j, j ≠ k → byteOf w j = byteAt s l j) ∧
  (∀ (s : State) (m : MR) (b : ByteAddr) (l : Loc) (k : BitVec 1) (h : Half) (x : Int), MemCanonical s →
    effAddr s m alignHalf = .ok b → locate s (wordOf b) .write = .ok l → Sound s l → k = b.extractLsb' 1 1 →
    halfOf (wordAt s l) k = h → m.r ≠ 0 → x = h.toInt + m.r.toInt →
    ∃ t w, CompletesOrOverflows (exec (.mth m) s) t ∧
      StoredAt s t l w (decide (2 ^ 16 ≤ h.toNat + (m.r.signExtend 16).toNat)) (decide (x < -2 ^ 15 ∨ 2 ^ 15 ≤ x))
        (decide (0 < (BitVec.ofInt 16 x).toInt)) (decide ((BitVec.ofInt 16 x).toInt < 0)) ∧
      halfOf w k = BitVec.ofInt 16 x ∧ ∀ j, j ≠ k → halfOf w j = halfOf (wordAt s l) j) ∧
  (∀ (s : State) (m : MR), m.r = 0 →
    (∀ w, operandWord s m = .ok w →
      exec (.mtw m) s = .next (finished s s.regs false false (decide (0 < w.toInt)) (decide (w.toInt < 0)))) ∧
    (∀ b, operandByte s m = .ok b → exec (.mtb m) s = .next (finished s s.regs false false (decide (b ≠ 0)) false)) ∧
    (∀ h, operandHalf s m = .ok h →
      exec (.mth m) s = .next (finished s s.regs false false (decide (0 < h.toInt)) (decide (h.toInt < 0)))))

/-! ### Comparison, logical, shift, conversion -/

/-- The eight comparisons CI, CB, CH, CW, CLR, CS, CD and CLM (42 R300-R308): registers are kept; CC3 CC4 = 00 equal, 01 less, 10 greater; CC2 of CI, CB, CH and CW
says whether the operands have a 1 in common; CLR and CLM put the second comparison into CC1 CC2. CB and CS compare
magnitudes, the others signed numbers. -/
def Obligations.Compare : Prop :=
  (∀ (s : State) (i : Imm) (b : Word), b = i.value.signExtend 32 →
    exec (.ci i) s = .next (finished s s.regs s.psd.cc1 (decide (getReg s i.r &&& b ≠ 0))
      (decide (b.toInt < (getReg s i.r).toInt)) (decide ((getReg s i.r).toInt < b.toInt)))) ∧
  (∀ (s : State) (m : MR) (a b : Byte), operandByte s m = .ok b → a = (getReg s m.r).extractLsb' 0 8 →
    exec (.cb m) s = .next (finished s s.regs s.psd.cc1 (decide (a &&& b ≠ 0)) (decide (b.toNat < a.toNat))
      (decide (a.toNat < b.toNat)))) ∧
  (∀ (s : State) (m : MR) (h : Half), operandHalf s m = .ok h →
    exec (.ch m) s = .next (finished s s.regs s.psd.cc1 (decide (getReg s m.r &&& h.signExtend 32 ≠ 0))
      (decide (h.toInt < (getReg s m.r).toInt)) (decide ((getReg s m.r).toInt < h.toInt)))) ∧
  (∀ (s : State) (m : MR) (w : Word), operandWord s m = .ok w →
    exec (.cw m) s = .next (finished s s.regs s.psd.cc1 (decide (getReg s m.r &&& w ≠ 0))
      (decide (w.toInt < (getReg s m.r).toInt)) (decide ((getReg s m.r).toInt < w.toInt))) ∧
    exec (.clr m) s = .next (finished s s.regs
      (decide (w.toInt < (getReg s (ru1 m.r)).toInt)) (decide ((getReg s (ru1 m.r)).toInt < w.toInt))
      (decide (w.toInt < (getReg s m.r).toInt)) (decide ((getReg s m.r).toInt < w.toInt))) ∧
    ∀ a b : Word,
      a = (if oddR m.r then getReg s m.r else getReg s m.r &&& getReg s (m.r + 1)) →
      b = (if oddR m.r then w &&& getReg s m.r else w &&& getReg s (m.r + 1)) →
      exec (.cs m) s = .next (finished s s.regs s.psd.cc1 s.psd.cc2 (decide (b.toNat < a.toNat))
        (decide (a.toNat < b.toNat)))) ∧
  (∀ (s : State) (m : MR) (a d : Dword), operandDword s m = .ok d → a = getReg s m.r ++ getReg s (ru1 m.r) →
    exec (.cd m) s = .next (finished s s.regs s.psd.cc1 s.psd.cc2 (decide (d.toInt < a.toInt))
      (decide (a.toInt < d.toInt))) ∧
    exec (.clm m) s = .next (finished s s.regs
      (decide ((loWord d).toInt < (getReg s m.r).toInt)) (decide ((getReg s m.r).toInt < (loWord d).toInt))
      (decide ((hiWord d).toInt < (getReg s m.r).toInt)) (decide ((getReg s m.r).toInt < (hiWord d).toInt))))

/-- OR, EOR and AND (42 R310-R312): each bit of R by its truth table, CC3 CC4 by the sign of the result. -/
def Obligations.Logical : Prop :=
  ∀ (s : State) (m : MR) (w v : Word), operandWord s m = .ok w →
    ((∀ k, v.getLsbD k = ((getReg s m.r).getLsbD k || w.getLsbD k)) →
      exec (.or m) s = .next (loaded s (oneReg s m.r v) v)) ∧
    ((∀ k, v.getLsbD k = ((getReg s m.r).getLsbD k != w.getLsbD k)) →
      exec (.eor m) s = .next (loaded s (oneReg s m.r v) v)) ∧
    ((∀ k, v.getLsbD k = ((getReg s m.r).getLsbD k && w.getLsbD k)) →
      exec (.and m) s = .next (loaded s (oneReg s m.r v) v))

/-- S (42 R315-R321, R323): with the control word `d` and the signed count `c` (`n` its size), R or the pair is shifted; a
left shift sets CC1 to the parity of the 1s that leave bit 0 and CC2 if bit 0 changes at any step, a right shift clears
both. A searching shift rotates until bit 0 is 1, at most `n` places: CC2 says that bit 0 became 1 only by the shift, CC4
that it is 1, and register 1 receives what remains of the count. -/
def Obligations.Shift : Prop :=
  ∀ (s : State) (m : MR) (d : BitVec 17) (c : BitVec 7) (t : BitVec 2) (n : Nat), shiftControl s m = .ok d →
    c = d.extractLsb' 0 7 + (if m.x = 0 then 0 else (getReg s (0#1 ++ m.x)).extractLsb' 0 7) →
    t = d.extractLsb' 9 2 → n = c.toInt.natAbs →
    (t ≠ 3 → d.getLsbD 8 = false → ∀ (v : Word) (f : Nat → Bool), v = getReg s m.r →
      f = (fun k => (shiftedBy t false v k).msb) →
      exec (.s m) s = .next (finished s (oneReg s m.r (shiftedBy t c.msb v n)) (!c.msb && oddOnes f n)
        (!c.msb && signChanges f n) s.psd.cc3 s.psd.cc4)) ∧
    (t ≠ 3 → d.getLsbD 8 = true → ∀ (v : Dword) (f : Nat → Bool), v = getReg s m.r ++ getReg s (ru1 m.r) →
      f = (fun k => (shiftedBy t false v k).msb) →
      exec (.s m) s = .next (finished s (doubleShiftRegs s m.r (shiftedBy t c.msb v n)) (!c.msb && oddOnes f n)
        (!c.msb && signChanges f n) s.psd.cc3 s.psd.cc4)) ∧
    (t = 3 → d.getLsbD 8 = false → ∀ (v : Word) (k : Nat), v = getReg s m.r → k ≤ n →
      (∀ j, j < k → (shiftedBy 1 c.msb v j).msb = false) → (k = n ∨ (shiftedBy 1 c.msb v k).msb = true) →
      exec (.s m) s = .next (finished s
        (oneReg { s with regs := oneReg s m.r (shiftedBy 1 c.msb v k) } 1
          ((BitVec.ofInt 7 (if c.msb then c.toInt + k else c.toInt - k)).zeroExtend 32))
        s.psd.cc1 (!v.msb && (shiftedBy 1 c.msb v k).msb) s.psd.cc3 (shiftedBy 1 c.msb v k).msb)) ∧
    (t = 3 → d.getLsbD 8 = true → ∀ (v : Dword) (k : Nat), v = getReg s m.r ++ getReg s (ru1 m.r) → k ≤ n →
      (∀ j, j < k → (shiftedBy 1 c.msb v j).msb = false) → (k = n ∨ (shiftedBy 1 c.msb v k).msb = true) →
      exec (.s m) s = .next (finished s
        (oneReg { s with regs := doubleShiftRegs s m.r (shiftedBy 1 c.msb v k) } 1
          ((BitVec.ofInt 7 (if c.msb then c.toInt + k else c.toInt - k)).zeroExtend 32))
        s.psd.cc1 (!v.msb && (shiftedBy 1 c.msb v k).msb) s.psd.cc3 (shiftedBy 1 c.msb v k).msb))

/-- SF (42 R324-R327), on a number `v` of 24 or 56 fraction bits with absolute value `a`: leftwards it moves the fraction by
hexadecimal digits until the count is used up (CC1 = 0 then, unless the number has become normalized), the number is
normalized (CC1), or the characteristic passes below 0 (CC2); a zero fraction gives zero with CC1. Rightwards it moves until
the count is used up or the characteristic passes above 127 (CC2). A zero fraction afterwards gives zero. -/
def Obligations.FloatingShift : Prop :=
  ∀ (f : Nat), (f = 24 ∨ f = 56) → ∀ (v : BitVec (1 + 7 + f)) (c : BitVec 7) (a ch fr n : Nat),
    a = (if v.msb then -v else v).toNat → ch = a / 2 ^ f % 128 → fr = a % 2 ^ f → n = c.toInt.natAbs →
    (∀ k, c.msb = false → fr ≠ 0 → k ≤ n → k ≤ ch + 1 → (∀ j, j < k → fr * 16 ^ j < 2 ^ (f - 4) ∧ j ≤ ch) →
      (k = n ∨ 2 ^ (f - 4) ≤ fr * 16 ^ k ∨ k = ch + 1) →
      ∃ x : BitVec (1 + 7 + f), x.toNat = a / 2 ^ (f + 7) * 2 ^ (f + 7) + (ch + 128 - k) % 128 * 2 ^ f + fr * 16 ^ k ∧
        floatShift v c = (if v.msb then -x else x, decide (2 ^ (f - 4) ≤ fr * 16 ^ k), decide (k = ch + 1))) ∧
    (c.msb = false → fr = 0 → floatShift v c = (0, true, false)) ∧
    (∀ k, c.msb = true → k = min n (128 - ch) →
      ∃ x : BitVec (1 + 7 + f), (x.toNat = if fr / 16 ^ k = 0 then 0 else
          a / 2 ^ (f + 7) * 2 ^ (f + 7) + (ch + k) % 128 * 2 ^ f + fr / 16 ^ k) ∧
        floatShift v c = (if v.msb then -x else x, false, decide (k = 128 - ch))) ∧
    (∀ (s : State) (m : MR) (d : BitVec 17), shiftControl s m = .ok d →
      c = d.extractLsb' 0 7 + (if m.x = 0 then 0 else (getReg s (0#1 ++ m.x)).extractLsb' 0 7) →
      (d.getLsbD 8 = false → ∀ (v x : Word) (c1 c2 : Bool), v = getReg s m.r →
        floatShift (f := 24) v c = (x, c1, c2) → exec (.sf m) s =
          .next (finished s (oneReg s m.r x) c1 c2 (decide (0 < x.toInt)) (decide (x.toInt < 0)))) ∧
      (d.getLsbD 8 = true → ∀ (v x : Dword) (c1 c2 : Bool), v = getReg s m.r ++ getReg s (ru1 m.r) →
        floatShift (f := 56) v c = (x, c1, c2) → exec (.sf m) s =
          .next (finished s (doubleShiftRegs s m.r x) c1 c2 (decide (0 < x.toInt)) (decide (x.toInt < 0)))))

/-- CVA and CVS (42 R330, R331): CVA leaves in R the sum of the table words selected by the 1s of Ru1, CC1 that it exceeded
32 bits; CVS subtracts each of the 32 table words from R where it does not exceed what is left, which goes to R, and marks
in Ru1 which were subtracted; CC3 CC4 the sign of the sum, or of the marks. -/
def Obligations.Convert : Prop :=
  (∀ (s : State) (m : MR) (v : WordAddr) (sel : Word) (w : Nat → Word) (total : Nat),
    effWordAddr s m alignWord = .ok v → sel = getReg s (ru1 m.r) →
    (∀ k, k < 32 → bitOf sel k = true → readWord s (wordPlus s v k) = .ok (w k)) →
    total = ((List.range 32).map (fun k => if bitOf sel k then (w k).toNat else 0)).sum →
    exec (.cva m) s = .next (finished s (oneReg s m.r (BitVec.ofNat 32 total)) (decide (2 ^ 32 ≤ total)) s.psd.cc2
      (decide (0 < (BitVec.ofNat 32 total).toInt)) (decide ((BitVec.ofNat 32 total).toInt < 0)))) ∧
  (∀ (s : State) (m : MR) (v : WordAddr) (w : Nat → Word) (left : Nat → Nat),
    effWordAddr s m alignWord = .ok v → (∀ k, k < 32 → readWord s (wordPlus s v k) = .ok (w k)) →
    left 0 = (getReg s m.r).toNat →
    (∀ k, k < 32 → left (k + 1) = if (w k).toNat ≤ left k then left k - (w k).toNat else left k) →
    ∃ marks : Word, (∀ k, k < 32 → bitOf marks k = decide ((w k).toNat ≤ left k)) ∧
      exec (.cvs m) s = .next (loaded s (pairRegsLowLast s m.r (BitVec.ofNat 32 (left 32)) marks) marks))

/-! ### Floating-point arithmetic -/

/-- The eight floating-point instructions (43 R341-R357; 60 R658, R662), whose arithmetic on integers the spec fixes by
its decisions D38 and D39: an addition aligns by the larger characteristic, keeps a guard digit in short form, and ends as FN,
FS and FZ say; subtraction adds the two's complement; a product and a quotient have the leading digits of the exact product and
quotient, and end by FZ alone. A result goes into R, or into the even-odd pair, with its condition code; a fault leaves the
registers, sets the condition code and traps to X'44'; an odd R traps the long instructions. -/
def Obligations.FloatingArithmetic : Prop :=
  (∀ (s : State) (m : MR) (a b : Word), operandWord s m = .ok b → a = getReg s m.r →
    AdditionEnds 6 1 s (exec (.fas m) s) (oneReg s m.r) a b ∧
    AdditionEnds 6 1 s (exec (.fss m) s) (oneReg s m.r) a (-b) ∧
    ProductEnds 6 s (exec (.fms m) s) (oneReg s m.r) a b ∧
    QuotientEnds 6 s (exec (.fds m) s) (oneReg s m.r) a b) ∧
  (∀ (s : State) (m : MR) (a b : Dword) (put : Dword → Vector Word 64), oddR m.r = false → operandDword s m = .ok b →
    a = getReg s m.r ++ getReg s (m.r + 1) → put = (fun v => pairRegs s m.r (hiWord v) (loWord v)) →
    AdditionEnds 14 0 s (exec (.fal m) s) put a b ∧
    AdditionEnds 14 0 s (exec (.fsl m) s) put a (-b) ∧
    ProductEnds 14 s (exec (.fml m) s) put a b ∧
    QuotientEnds 14 s (exec (.fdl m) s) put a b) ∧
  (∀ (s : State) (m : MR), oddR m.r = true →
    ∀ i ∈ [Instr.fal m, .fsl m, .fml m, .fdl m], exec i s = registerTrapTaken s)

/-! ### Decimal instructions -/

/-- DL and PACK (44 R385, R388-R390, R400): a legal operand, packed from its zoned bytes by PACK, goes into the decimal
accumulator with its sign, CC1 and CC2 reset, CC3 CC4 its sign. -/
def Obligations.DecimalLoad : Prop :=
  ∀ (s : State) (m : MR) (n v : Nat) (x : Nat → Byte), HasDecimal s → BytesRead s m n x → legalPacked v = true →
    (n = (if m.r = 0 then 16 else m.r.toNat) → v = numberOf x n →
      ∃ d, IsDecimal s d (packedNeg v) (packedMag v) ∧ exec (.dl m) s =
        .next (finished s (decaRegs s d) false false (decide (0 < packedInt v)) (decide (packedInt v < 0)))) ∧
    (n = 2 * (if m.r = 0 then 16 else m.r.toNat) - 1 → v = 16 * lowNibbles x n + (x (n - 1)).toNat / 16 →
      ∃ d, IsDecimal s d (packedNeg v) (packedMag v) ∧ exec (.pack m) s =
        .next (finished s (decaRegs s d) false false (decide (0 < packedInt v)) (decide (packedInt v < 0))))

/-- DA, DS and DM (44 R392-R394): with legal numbers in the accumulator and at the effective address the accumulator
receives the exact sum, difference or product, a zero positive; a sum or difference of more than 31 digits is an
overflow; DM takes operands of 1 to 8 bytes, and an accumulator whose multiplicand is more than 15 digits or illegal past
its sign leaves accumulator and CC3 CC4 open (log 14). -/
def Obligations.DecimalArithmetic : Prop :=
  ∀ (s : State) (m : MR) (n a v : Nat) (x : Nat → Byte) (r : Int), HasDecimal s → BytesRead s m n x →
    n = (if m.r = 0 then 16 else m.r.toNat) → v = numberOf x n → a = (getDeca s).toNat → legalPacked v = true →
    (legalPacked a = true →
      (∀ i, (i = .da m ∧ r = packedInt a + packedInt v) ∨ (i = .ds m ∧ r = packedInt a - packedInt v) →
        (r.natAbs < 10 ^ 31 → ∃ d, IsDecimal s d (decide (r < 0)) r.natAbs ∧
          exec i s = .next (finished s (decaRegs s d) false false (decide (0 < r)) (decide (r < 0)))) ∧
        (10 ^ 31 ≤ r.natAbs → DecimalFaultTaken s (exec i s) false)) ∧
      (1 ≤ n → n ≤ 8 → a < 2 ^ 64 → r = packedInt a * packedInt v →
        ∃ d, IsDecimal s d (decide (r < 0)) r.natAbs ∧
          exec (.dm m) s = .next (finished s (decaRegs s d) false false (decide (0 < r)) (decide (r < 0))))) ∧
    (1 ≤ n → n ≤ 8 → anySign 32 a = true → ¬ (legalPacked a = true ∧ a < 2 ^ 64) →
      ∃ d c3 c4, exec (.dm m) s =
        .next { finished s (decaRegs s d) false false c3 c4 with free := s.free + 2 })

/-- DD and DC (44 R395, R396): DD leaves the remainder, with the sign of the dividend, in registers 12 and 13 and the
quotient in 14 and 15, CC3 CC4 the sign of the quotient; a zero divisor or a quotient of more than 15 digits is an
overflow; a dividend illegal past its sign leaves accumulator and CC3 CC4 open (log 14). DC only compares. -/
def Obligations.DecimalDivideCompare : Prop :=
  ∀ (s : State) (m : MR) (n a v : Nat) (x : Nat → Byte), HasDecimal s → BytesRead s m n x →
    n = (if m.r = 0 then 16 else m.r.toNat) → v = numberOf x n → a = (getDeca s).toNat → legalPacked v = true →
    (legalPacked a = true → 1 ≤ n → n ≤ 8 → ∀ q : Int, q = (packedInt a).tdiv (packedInt v) →
      (packedMag v ≠ 0 → q.natAbs < 10 ^ 15 →
        ∃ d e, IsDecimal s d (packedNeg a) (packedMag a % packedMag v) ∧ IsDecimal s e (decide (q < 0)) q.natAbs ∧
          d < 2 ^ 64 ∧ e < 2 ^ 64 ∧ exec (.dd m) s =
          .next (finished s (decaRegs s (2 ^ 64 * d + e)) false false (decide (0 < q)) (decide (q < 0)))) ∧
      (packedMag v = 0 ∨ 10 ^ 15 ≤ q.natAbs → DecimalFaultTaken s (exec (.dd m) s) false)) ∧
    (1 ≤ n → n ≤ 8 → anySign 32 a = true → legalPacked a = false →
      ∃ d c3 c4, exec (.dd m) s =
        .next { finished s (decaRegs s d) false false c3 c4 with free := s.free + 2 }) ∧
    (legalPacked a = true → exec (.dc m) s = .next (finished s s.regs false false
      (decide (packedInt v < packedInt a)) (decide (packedInt a < packedInt v))))

/-- DST and UNPK (44 R391, R401): the low digits of a legal accumulator are stored as a packed number of L bytes, or as a
zoned number of 2 L - 1 bytes with the sign in the zone of the last; CC1 is reset, CC2 says that a nonzero digit was lost,
and nothing else changes. -/
def Obligations.DecimalStore : Prop :=
  ∀ (s : State) (m : MR) (b : ByteAddr) (p : Nat → ByteAddr) (len n a : Nat) (l : Nat → Loc), MemCanonical s →
    HasDecimal s → effAddr s m alignByte = .ok b → p = bytePlus s b → len = (if m.r = 0 then 16 else m.r.toNat) →
    a = (getDeca s).toNat → legalPacked a = true → BytesWritable s p n l →
    (n = len → ∃ t d, IsDecimal s d (packedNeg a) (packedMag a % 10 ^ (2 * n - 1)) ∧ d < 256 ^ n ∧
      exec (.dst m) s = .next t ∧
      BytesStored s t p n l (fun k => BitVec.ofNat 8 (d / 256 ^ (n - 1 - k))) (fun _ => False)
        false (decide (10 ^ (2 * n - 1) ≤ packedMag a)) s.psd.cc3 s.psd.cc4) ∧
    (n = 2 * len - 1 → ∃ t, exec (.unpk m) s = .next t ∧
      BytesStored s t p n l (fun k => BitVec.ofNat 8 (packedMag a / 10 ^ (n - 1 - k) % 10 + 16 *
          (if k = n - 1 then signCode s.psd.ansi (packedNeg a) else if s.psd.ansi then 3 else 15))) (fun _ => False)
        false (decide (10 ^ n ≤ packedMag a)) s.psd.cc3 s.psd.cc4)

/-- DSA (44 R397): a legal accumulator is shifted by the count, clamped to 31 digits either way, the sign kept; CC2 says
that a nonzero digit was lost to the left. -/
def Obligations.DecimalShift : Prop :=
  ∀ (s : State) (m : MR) (d : Half) (c : Int) (a t : Nat), HasDecimal s → a = (getDeca s).toNat →
    (m.ind = false → d = m.addr.extractLsb' 0 16) →
    (m.ind = true → ∃ w, readWord s (directRef s m) = .ok w ∧ d = field w 16 31) →
    c = max (-31) (min 31 ((d + if m.x = 0 then 0 else field (getReg s (0#1 ++ m.x)) 14 29).toInt)) →
    t = (if 0 ≤ c then packedMag a * 10 ^ c.natAbs else packedMag a / 10 ^ c.natAbs) →
    (legalPacked a = true → ∃ e, IsDecimal s e (packedNeg a) (t % 10 ^ 31) ∧ exec (.dsa m) s =
      .next (finished s (decaRegs s e) false (decide (10 ^ 31 ≤ t))
        (decide (t % 10 ^ 31 ≠ 0 ∧ packedNeg a = false)) (decide (t % 10 ^ 31 ≠ 0 ∧ packedNeg a = true)))) ∧
    (legalPacked a = false → DecimalFaultTaken s (exec (.dsa m) s) true)

/-- What stops a decimal or byte-string instruction (44 R386, R387; 60 R650, R654; D2): an illegal digit or sign in the
memory operand of DL, DA, DS, DC, DM, DD or PACK, or in the accumulator of DA, DS, DC, DST or UNPK (of DA, DS and DC by the
spec's U5 and D40, the model's choice, log 14; of DM and DD a sign must be there); DM or DD of more than 8 bytes, before the
operand is read; the decimal unit absent or overridden, trap X'41'; Model 3, the nonexistent-instruction trap. -/
def Obligations.DecimalTraps : Prop :=
  (∀ (s : State) (m : MR) (n a v : Nat) (x : Nat → Byte), HasDecimal s → BytesRead s m n x →
    n = (if m.r = 0 then 16 else m.r.toNat) → v = numberOf x n → a = (getDeca s).toNat →
    (legalPacked v = false → DecimalFaultTaken s (exec (.dl m) s) true) ∧
    (legalPacked v = false ∨ legalPacked a = false →
      ∀ i ∈ [Instr.da m, .ds m, .dc m], DecimalFaultTaken s (exec i s) true) ∧
    (legalPacked v = false ∨ anySign 32 a = false →
      ∀ i ∈ [Instr.dm m, .dd m], DecimalFaultTaken s (exec i s) true)) ∧
  (∀ (s : State) (m : MR) (n : Nat) (x : Nat → Byte), HasDecimal s → BytesRead s m n x →
    n = 2 * (if m.r = 0 then 16 else m.r.toNat) - 1 →
    legalPacked (16 * lowNibbles x n + (x (n - 1)).toNat / 16) = false → DecimalFaultTaken s (exec (.pack m) s) true) ∧
  (∀ (s : State) (m : MR) (b : ByteAddr) (len n : Nat) (l0 l1 : Loc), HasDecimal s → effAddr s m alignByte = .ok b →
    len = (if m.r = 0 then 16 else m.r.toNat) → legalPacked (getDeca s).toNat = false →
    locate s (wordOf b) .write = .ok l0 → locate s (wordOf (bytePlus s b (n - 1))) .write = .ok l1 →
    (n = len → DecimalFaultTaken s (exec (.dst m) s) true) ∧
    (n = 2 * len - 1 → DecimalFaultTaken s (exec (.unpk m) s) true)) ∧
  (∀ (s : State) (m : MR) (b : ByteAddr) (n : Nat) (l0 l1 : Loc), HasDecimal s → effAddr s m alignByte = .ok b →
    n = (if m.r = 0 then 16 else m.r.toNat) → 8 < n →
    locate s (wordOf b) .read = .ok l0 → locate s (wordOf (bytePlus s b (n - 1))) .read = .ok l1 →
    ∀ i ∈ [Instr.dm m, .dd m], DecimalFaultTaken s (exec i s) true) ∧
  (∀ (s : State) (m : MR) (b : Bs),
    ∀ i ∈ [Instr.dl m, .da m, .ds m, .dm m, .dd m, .dc m, .dst m, .dsa m, .pack m, .unpk m, .ebs b],
      (s.inst.model ≠ .model3 → s.inst.decimalUnit ≠ .present →
        exec i s = .next (enterTrap { loc := 0x41#8 } s)) ∧
      (s.inst.model = .model3 → exec i s = .next (enterTrap { loc := 0x40#8, tcc := 0b1000#4 } s))) ∧
  (∀ (s : State) (b : Bs), s.inst.model = .model3 → ∀ i ∈ [Instr.mbs b, .cbs b, .tbs b, .ttbs b],
    exec i s = .next (enterTrap { loc := 0x40#8, tcc := 0b1000#4 } s))

/-! ### Byte strings -/

/-- MBS (45 R421, R422, R424): with a source that overlaps neither the destination nor the control registers, each
destination byte receives its source byte (the one source byte, if R is 0), the addresses are advanced and the count is 0;
nothing else changes. Whatever the overlap of source and destination, moving n + 1 bytes is moving one byte and then n, so
that a byte moved can be moved again. With a count of 0 nothing happens at all (nor in TBS and EBS; CBS and TTBS then reset CC3 CC4, and
CC4: R426, R428, R430, R438, D41). -/
def Obligations.MoveBytes : Prop :=
  (∀ (s : State) (b : Bs) (n : Nat) (src dst : Nat → Loc) (x : Nat → Byte), MemCanonical s → s.inst.model ≠ .model3 →
    countIs s b n → n ≠ 0 →
    (∀ k, k < n → locate s (wordOf (sourceByte s b k)) .read = .ok (src k) ∧ Sound s (src k) ∧
      byteAt s (src k) ((sourceByte s b k).extractLsb' 0 2) = x k ∧
      Apart b (sourceByte s b k) true ∧ Apart b (destByte s b k) true) →
    BytesWritable s (destByte s b) n dst →
    (∀ j k, j < n → k < n →
      ¬ (src j = dst k ∧ (sourceByte s b j).extractLsb' 0 2 = (destByte s b k).extractLsb' 0 2)) →
    ∃ t, exec (.mbs b) s = .next t ∧
      BytesStored s t (destByte s b) n dst x (fun r => r = b.r ∧ r ≠ 0 ∨ r = ru1 b.r) s.psd.cc1 s.psd.cc2 s.psd.cc3
        s.psd.cc4 ∧
      Advanced s t b n n true) ∧
  (∀ (s s1 s2 : State) (b : Bs) (n : Nat) (src dst : Nat → Loc) (x : Byte), MemCanonical s → s.inst.model ≠ .model3 →
    countIs s b (n + 1) →
    (∀ k, k < n + 1 → locate s (wordOf (sourceByte s b k)) .read = .ok (src k) ∧ Sound s (src k) ∧
      Apart b (destByte s b k) true) →
    BytesWritable s (destByte s b) (n + 1) dst →
    readByte s (sourceByte s b 0) = .ok x → writeByte s (destByte s b 0) x = .ok s1 → s2 = { s1 with regs := s2.regs } →
    (∀ r, ¬ (r = b.r ∧ r ≠ 0 ∨ r = ru1 b.r) → getReg s2 r = getReg s1 r) → OtherBlocksKept s1 s2 →
    Advanced s s2 b (n + 1) 1 true → exec (.mbs b) s = exec (.mbs b) s2) ∧
  (∀ (s : State) (b : Bs), s.inst.model ≠ .model3 → countIs s b 0 →
    exec (.mbs b) s = .next (onward s s.regs) ∧
    exec (.cbs b) s = .next (finished s s.regs s.psd.cc1 s.psd.cc2 false false) ∧
    (oddR b.r = false → exec (.tbs b) s = .next (onward s s.regs) ∧
      exec (.ttbs b) s = .next (finished s s.regs s.psd.cc1 s.psd.cc2 s.psd.cc3 false)) ∧
    (HasDecimal s → b.r ≠ 0 → oddR b.r = false → exec (.ebs b) s = .next (onward s s.regs)))

/-- CBS (45 R422, R426): the bytes are compared in order up to the first that differ, number `j` (`n` if none does); CC3
CC4 give the last comparison, the control registers stand at byte `j`, and nothing else changes. -/
def Obligations.CompareBytes : Prop :=
  ∀ (s : State) (b : Bs) (n j : Nat) (x y : Nat → Byte), s.inst.model ≠ .model3 → countIs s b n → n ≠ 0 →
    (∀ k, k < n → readByte s (sourceByte s b k) = .ok (x k) ∧ readByte s (destByte s b k) = .ok (y k) ∧
      Apart b (sourceByte s b k) true ∧ Apart b (destByte s b k) true) →
    j ≤ n → (∀ k, k < j → x k = y k) → (j = n ∨ x j ≠ y j) →
    ∃ t, exec (.cbs b) s = .next t ∧
      t = finished s t.regs s.psd.cc1 s.psd.cc2 (decide (j < n ∧ (y j).toNat < (x j).toNat))
        (decide (j < n ∧ (x j).toNat < (y j).toNat)) ∧
      (∀ r, ¬ (r = b.r ∧ r ≠ 0 ∨ r = ru1 b.r) → getReg t r = getReg s r) ∧ OtherBlocksKept s t ∧
      Advanced s t b n j true

/-- TBS and TTBS (45 R428, R430; 60 R662): TBS replaces each destination byte by its entry of the table, one after the
other where the two overlap; TTBS stops at the
first byte whose entry has a 1 in common with the mask, CC4 then being 1 and the mask field of R (if R is not 0) holding
what they have in common. Ru1 advances with the bytes done. An odd R traps. -/
def Obligations.TranslateBytes : Prop :=
  (∀ (s : State) (b : Bs) (n : Nat) (tab dst : Nat → Loc) (y z : Nat → Byte), MemCanonical s → s.inst.model ≠ .model3 →
    oddR b.r = false → countIs s b n → n ≠ 0 → BytesWritable s (destByte s b) n dst →
    (∀ k, k < n → byteAt s (dst k) ((destByte s b k).extractLsb' 0 2) = y k ∧
      locate s (wordOf (tableByte s b (y k))) .read = .ok (tab k) ∧ Sound s (tab k) ∧
      byteAt s (tab k) ((tableByte s b (y k)).extractLsb' 0 2) = z k ∧
      Apart b (destByte s b k) false ∧ Apart b (tableByte s b (y k)) false) →
    (∀ j k, j < n → k < n →
      ¬ (tab j = dst k ∧ (tableByte s b (y j)).extractLsb' 0 2 = (destByte s b k).extractLsb' 0 2)) →
    ∃ t, exec (.tbs b) s = .next t ∧
      BytesStored s t (destByte s b) n dst z (fun r => r = ru1 b.r) s.psd.cc1 s.psd.cc2 s.psd.cc3 s.psd.cc4 ∧
      Advanced s t b n n false) ∧
  (∀ (s s1 s2 : State) (b : Bs) (n : Nat) (tab : Byte → Loc) (dst : Nat → Loc) (y z : Byte), MemCanonical s →
    s.inst.model ≠ .model3 → oddR b.r = false → countIs s b (n + 1) → BytesWritable s (destByte s b) (n + 1) dst →
    (∀ k, k < n + 1 → Apart b (destByte s b k) true) →
    (∀ v, locate s (wordOf (tableByte s b v)) .read = .ok (tab v) ∧ Sound s (tab v)) →
    readByte s (destByte s b 0) = .ok y → readByte s (tableByte s b y) = .ok z →
    writeByte s (destByte s b 0) z = .ok s1 → s2 = { s1 with regs := s2.regs } →
    (∀ r, r ≠ ru1 b.r → getReg s2 r = getReg s1 r) → OtherBlocksKept s1 s2 → Advanced s s2 b (n + 1) 1 false →
    exec (.tbs b) s = exec (.tbs b) s2) ∧
  (∀ (s : State) (b : Bs) (n j : Nat) (mask : Byte) (y z : Nat → Byte), s.inst.model ≠ .model3 → oddR b.r = false →
    countIs s b n → n ≠ 0 → mask = (if b.r = 0 then 0xFF#8 else field (getReg s b.r) 0 7) →
    (∀ k, k < n → readByte s (destByte s b k) = .ok (y k) ∧ readByte s (tableByte s b (y k)) = .ok (z k) ∧
      Apart b (destByte s b k) false ∧ Apart b (tableByte s b (y k)) false) →
    j ≤ n → (∀ k, k < j → z k &&& mask = 0) → (j = n ∨ z j &&& mask ≠ 0) →
    ∃ t, exec (.ttbs b) s = .next t ∧ t = finished s t.regs s.psd.cc1 s.psd.cc2 s.psd.cc3 (decide (j < n)) ∧
      (∀ r, ¬ (r = b.r ∧ r ≠ 0 ∨ r = ru1 b.r) → getReg t r = getReg s r) ∧ OtherBlocksKept s t ∧
      (b.r ≠ 0 → getReg t b.r = if j < n then withCount (getReg s b.r) (z j &&& mask) else getReg s b.r) ∧
      Advanced s t b n j false) ∧
  (∀ (s : State) (b : Bs), s.inst.model ≠ .model3 → oddR b.r = true →
    exec (.tbs b) s = registerTrapTaken s ∧ exec (.ttbs b) s = registerTrapTaken s)

/-- EBS (45 R437-R439; 60 R660, R662), on a pattern of one byte; editing n + 1 pattern bytes is editing one and, if that
does not end the instruction, n more. A field separator is replaced by the fill character, with
CC1, CC3 and CC4 reset; any other byte that asks for no digit stays if CC4 is 1, and becomes the blank if CC1 is 1, else
the fill character. A byte that asks for a digit takes the left one of its decimal byte if CC2 is 0, else the right one: the
zoned digit is stored if the byte is X'23', CC4 is 1 or the digit is not zero, else the fill character; CC3 and CC4 remember
a nonzero digit and the start of significance, and where that starts register 1 receives the address (its bits beside the
address are open, log 18), after the byte is stored. A sign code to the right of the left digit sets CC1, and CC4 if it is
negative, and the source moves on; else CC2 is inverted, and the source moves on after the right digit. A sign code where a
digit is wanted is a fault: with DM = 1 the trap X'45', with RA = 1 once a byte has been edited. R = 0 or odd R traps. -/
def Obligations.EditByte : Prop :=
  (∀ (s : State) (b : Bs) (p fill : Byte) (l : Loc), MemCanonical s → HasDecimal s → b.r ≠ 0 → oddR b.r = false →
    countIs s b 1 → locate s (wordOf (destByte s b 0)) .write = .ok l → Sound s l → Apart b (destByte s b 0) true →
    byteAt s l ((destByte s b 0).extractLsb' 0 2) = p → fill = field (getReg s b.r) 0 7 →
    (p ∉ [0x20#8, 0x21#8, 0x23#8] →
      ∃ t, exec (.ebs b) s = .next t ∧
        BytesStored s t (destByte s b) 1 (fun _ => l)
          (fun _ => if p = 0x22#8 then fill else if s.psd.cc4 then p
            else if s.psd.cc1 then (if s.psd.ansi then 0x20#8 else 0x40#8) else fill)
          (fun r => r = ru1 b.r)
          (s.psd.cc1 && p != 0x22#8) s.psd.cc2 (s.psd.cc3 && p != 0x22#8) (s.psd.cc4 && p != 0x22#8) ∧
        Advanced s t b 1 1 false) ∧
    (∀ d : Byte, p ∈ [0x20#8, 0x21#8, 0x23#8] → readByte s (sourceByte s b 0) = .ok d →
      (10 ≤ d.toNat / 16 ∨ (s.psd.cc2 = true ∧ 10 ≤ d.toNat % 16) →
        (s.psd.dm = false → exec (.ebs b) s = .next (onward s s.regs)) ∧
        (s.psd.dm = true → exec (.ebs b) s = .next (enterTrap { loc := 0x45#8 } s))) ∧
      (∀ (x : Nat) (ended marked : Bool) (on : Nat), x = (if s.psd.cc2 then d.toNat % 16 else d.toNat / 16) →
        d.toNat / 16 < 10 → x < 10 → ended = (!s.psd.cc2 && decide (10 ≤ d.toNat % 16)) →
        marked = decide (p = 0x23#8 ∨ (s.psd.cc4 = false ∧ (p = 0x21#8 ∨ x ≠ 0))) →
        on = (if ended = true ∨ s.psd.cc2 = true then 1 else 0) →
        ∃ t, exec (.ebs b) s = .next { t with free := s.free + (if marked then 1 else 0) } ∧
          (marked = false ∨ wordOf (destByte s b 0) ≠ 1#22 → byteAt t l ((destByte s b 0).extractLsb' 0 2) =
            if p = 0x23#8 ∨ s.psd.cc4 = true ∨ x ≠ 0 then BitVec.ofNat 8 ((if s.psd.ansi then 3 else 15) * 16 + x)
            else fill) ∧
          BytesKeptBut s t (fun q k => q = l ∧ k = (destByte s b 0).extractLsb' 0 2)
            (fun r => r = ru1 b.r ∨ r = b.r ∨ (r = 1 ∧ marked = true)) ∧ OnlyData s t ∧
          t.psd = (finished s s.regs (s.psd.cc1 || ended) (if ended then false else !s.psd.cc2)
            (s.psd.cc3 || decide (x ≠ 0))
            (if ended then decide (d.toNat % 16 = 11 ∨ d.toNat % 16 = 13)
              else s.psd.cc4 || decide (p ≠ 0x20#8 ∨ x ≠ 0))).psd ∧
          (marked = true → addressField s (getReg t 1) =
            destByte s b (if p = 0x21#8 ∧ x = 0 then 1 else 0)) ∧
          getReg t b.r = withAddress s (getReg s b.r) (bytePlus s (addressField s (getReg s b.r)) on) ∧
          Advanced s t b 1 1 false))) ∧
  (∀ (s t u : State) (b : Bs) (n : Nat) (src dst : Nat → Loc), MemCanonical s → HasDecimal s →
    (s.psd.dm = true → ∃ p d, readByte s (destByte s b 0) = .ok p ∧ readByte s (sourceByte s b 0) = .ok d ∧
      (p ∈ [0x20#8, 0x21#8, 0x23#8] → d.toNat / 16 < 10 ∧ (s.psd.cc2 = true → d.toNat % 16 < 10))) →
    b.r ≠ 0 → oddR b.r = false → countIs s b (n + 1) → BytesWritable s (destByte s b) (n + 1) dst →
    (∀ k, k < n + 1 → Apart b (destByte s b k) true ∧
      locate s (wordOf (sourceByte s b k)) .read = .ok (src k) ∧ Sound s (src k)) →
    exec (.ebs b) (setReg (ru1 b.r) (withCount (getReg s (ru1 b.r)) 1#8) s) = .next t → countIs t b 0 →
    u = setReg (ru1 b.r) (withCount (getReg t (ru1 b.r)) (BitVec.ofNat 8 n))
        { t with psd := { t.psd with ia := s.psd.ia } } →
    exec (.ebs b) s = exec (.ebs b) u ∨
      (s.psd.dm = true ∧ exec (.ebs b) u = .next (enterTrap { loc := 0x45#8 } u) ∧
        exec (.ebs b) s = .next (enterTrap { loc := 0x45#8, ra := true } u))) ∧
  (∀ (s : State) (b : Bs), HasDecimal s → b.r = 0 ∨ oddR b.r = true → exec (.ebs b) s = registerTrapTaken s)

/-! ### Push-down -/

/-- PSW and PLW (46 R461, R463-R466): within the limits, PSW stores R into the word above the top of the stack and PLW loads
R from the top; the stack pointer doubleword is updated in its place; CC2 and CC4 say whether the space and the word count
are now 0. -/
def Obligations.PushPullWord : Prop :=
  ∀ (s : State) (m : MR) (v : WordAddr) (d : Dword) (l l0 l1 : Loc), MemCanonical s →
    effWordAddr s m alignDword = .ok v → readDword s v = .ok d →
    locate s v .write = .ok l0 → locate s (v + 1) .write = .ok l1 →
    (WithinLimits d 1 → locate s (wrapWord s (stackTop s d + 1)) .write = .ok l → l ≠ l0 → l ≠ l1 →
      ∃ t d', exec (.psw m) s = .next t ∧ MovedStack s d d' 1 ∧
        wordAt t l = getReg s m.r ∧ wordAt t l0 = hiWord d' ∧ wordAt t l1 = loWord d' ∧
        KeptBut s t (fun x => x = l ∨ x = l0 ∨ x = l1) (fun _ => False) ∧ OnlyData s t ∧
        t.psd = (finished s s.regs false (decide (spaceCount d = 1)) false false).psd) ∧
    (WithinLimits d (-1) → locate s (stackTop s d) .read = .ok l → Sound s l → l0 ≠ .reg m.r → l1 ≠ .reg m.r →
      ∃ t d', exec (.plw m) s = .next t ∧ MovedStack s d d' (-1) ∧
        getReg t m.r = wordAt s l ∧ wordAt t l0 = hiWord d' ∧ wordAt t l1 = loWord d' ∧
        KeptBut s t (fun x => x = l0 ∨ x = l1) (· = m.r) ∧ OnlyData s t ∧
        t.psd = (finished s s.regs false false false (decide (wordCount d = 1))).psd)

/-- PSM and PLM (46 R461, R463, R464, R467, R468): within the limits, as many registers as the condition code says (16 for
0) go into the words above the top of the stack, or come from the words from the top down, the last register from the top;
the doubleword and the condition code as for one word. -/
def Obligations.PushPullMultiple : Prop :=
  ∀ (s : State) (m : MR) (v : WordAddr) (d : Dword) (n : Nat) (l0 l1 : Loc), MemCanonical s →
    effWordAddr s m alignDword = .ok v → readDword s v = .ok d →
    locate s v .write = .ok l0 → locate s (v + 1) .write = .ok l1 →
    n = (if ccOf s = 0 then 16 else (ccOf s).toNat) →
    (∀ l : Nat → Loc, WithinLimits d n →
      (∀ k, k < n → locate s (stackMove s (stackTop s d) (k + 1)) .write = .ok (l k) ∧ l k ≠ l0 ∧ l k ≠ l1) →
      (∀ j k, j < k → k < n → l j ≠ l k) → NoOverlap s (stackMove s (stackTop s d) 1) m.r n →
      ∃ t d', exec (.psm m) s = .next t ∧ MovedStack s d d' n ∧
        (∀ k, k < n → wordAt t (l k) = getReg s (m.r + BitVec.ofNat 4 k)) ∧
        wordAt t l0 = hiWord d' ∧ wordAt t l1 = loWord d' ∧
        KeptBut s t (fun x => (∃ k, k < n ∧ x = l k) ∨ x = l0 ∨ x = l1) (fun _ => False) ∧ OnlyData s t ∧
        t.psd = (finished s s.regs false (decide (spaceCount d = n)) false false).psd) ∧
    (∀ w : Nat → Word, WithinLimits d (-n) →
      (∀ k, k < n → readWord s (stackMove s (stackTop s d) (-k)) = .ok (w k)) →
      NoOverlap s (stackMove s (stackTop s d) (1 - n)) m.r n →
      (∀ k, k < n → l0 ≠ .reg (m.r + BitVec.ofNat 4 k) ∧ l1 ≠ .reg (m.r + BitVec.ofNat 4 k)) →
      ∃ t d', exec (.plm m) s = .next t ∧ MovedStack s d d' (-n) ∧
        (∀ k, k < n → getReg t (m.r + BitVec.ofNat 4 (n - 1 - k)) = w k) ∧
        wordAt t l0 = hiWord d' ∧ wordAt t l1 = loWord d' ∧
        KeptBut s t (fun x => x = l0 ∨ x = l1) (InRun m.r n) ∧ OnlyData s t ∧
        t.psd = (finished s s.regs false false false (decide (wordCount d = n))).psd)

/-- MSP, and the stack limits of all five (46 R462, R463, R469; 60 R655): MSP moves the stack pointer by the signed low half
of R; an instruction that would take a count outside 0 to 32767 traps to X'42' unless the failing counts' inhibits are 1,
and else sets CC1 and CC3 to the failing counts and CC2 and CC4 to the counts that are 0; nothing else changes. -/
def Obligations.StackLimits : Prop :=
  ∀ (s : State) (m : MR) (v : WordAddr) (d : Dword), MemCanonical s → effWordAddr s m alignDword = .ok v →
    readDword s v = .ok d →
    (∀ (n : Int) (l0 l1 : Loc), n = ((getReg s m.r).extractLsb' 0 16).toInt → WithinLimits d n →
      locate s v .write = .ok l0 → locate s (v + 1) .write = .ok l1 →
      ∃ t d', exec (.msp m) s = .next t ∧ MovedStack s d d' n ∧ wordAt t l0 = hiWord d' ∧ wordAt t l1 = loWord d' ∧
        KeptBut s t (fun x => x = l0 ∨ x = l1) (fun _ => False) ∧ OnlyData s t ∧
        t.psd = (finished s s.regs false (decide ((spaceCount d : Int) = n)) false
          (decide ((wordCount d : Int) = -n))).psd) ∧
    (∀ (n c : Int), c = ((if ccOf s = 0 then 16 else (ccOf s).toNat : Nat) : Int) →
      ∀ i, (i = .psw m ∧ n = 1) ∨ (i = .plw m ∧ n = -1) ∨ (i = .psm m ∧ n = c) ∨ (i = .plm m ∧ n = -c) ∨
        (i = .msp m ∧ n = ((getReg s m.r).extractLsb' 0 16).toInt) →
      ∀ sp wp : Bool, sp = decide (spaceCount d - n < 0 ∨ 32767 < spaceCount d - n) →
        wp = decide (wordCount d + n < 0 ∨ 32767 < wordCount d + n) →
        ((sp = true ∧ spaceInhibit d = false) ∨ (wp = true ∧ wordInhibit d = false) →
          exec i s = .next (enterTrap { loc := 0x42#8 } s)) ∧
        ((sp = true ∨ wp = true) → (sp = true → spaceInhibit d = true) → (wp = true → wordInhibit d = true) →
          exec i s = .next (finished s s.regs sp (decide (spaceCount d = 0)) wp (decide (wordCount d = 0)))))

/-! ### Execute, branch, call -/

/-- BCS, BCR, BIR and BDR (47 R491, R492, R494-R497): untaken, the next instruction follows, whatever the address (the
spec's decision D43; 90_conflicts C23); taken, and the target open to instruction access, it is the next instruction. BIR and
BDR leave the register one up or down. -/
def Obligations.ConditionalBranches : Prop :=
  ∀ (s : State) (m : MR) (taken : Bool) (regs : Vector Word 64),
    ∀ i, (i = .bcs m ∧ taken = decide (ccOf s &&& m.r ≠ 0) ∧ regs = s.regs) ∨
      (i = .bcr m ∧ taken = decide (ccOf s &&& m.r = 0) ∧ regs = s.regs) ∨
      (i = .bir m ∧ taken = decide ((getReg s m.r + 1).toInt < 0) ∧ regs = oneReg s m.r (getReg s m.r + 1)) ∨
      (i = .bdr m ∧ taken = decide (0 < (getReg s m.r - 1).toInt) ∧ regs = oneReg s m.r (getReg s m.r - 1)) →
    (taken = false → exec i s = .next (onward s regs)) ∧
    (∀ v l, taken = true → effWordAddr s m alignWord = .ok v → locate s v .fetch = .ok l →
      exec i s = .next (branched s regs v)) ∧
    (∀ v e, taken = true → effWordAddr s m alignWord = .ok v → locate s v .fetch = .error e →
      exec i s = .next (enterTrap e s))

/-- EXU, BAL and the CALLs (47 R493, R498-R502; 60 R661): EXU has the word at its effective address executed next, at its
own instruction address (the subject is a step of its own, the model's choice, log 8); BAL links to the next instruction and branches, and if its target cannot be executed it traps
with the link made and RA = 1; a CALL traps as a completed instruction to X'48'-X'4B' with its R field as TCC. -/
def Obligations.ExecuteLinkCall : Prop :=
  (∀ (s : State) (m : MR) (v : WordAddr) (l : Loc), effWordAddr s m alignWord = .ok v → locate s v .fetch = .ok l →
    Sound s l → exec (.exu m) s = .next { s with pend := .subject (wordAt s l) }) ∧
  (∀ (s : State) (m : MR) (v : WordAddr) (link : Word), effWordAddr s m alignWord = .ok v →
    link = (if realExtended s then
        BitVec.ofNat 32 ((if s.psd.ia.getLsbD 16 then s.psd.ea.toNat * 2 ^ 16 else 0) + (s.psd.ia.toNat + 1) % 2 ^ 16)
      else BitVec.ofNat 32 ((s.psd.ia.toNat + 1) % 2 ^ 17)) →
    (∀ l, locate s v .fetch = .ok l → exec (.bal m) s = .next (branched s (oneReg s m.r link) v)) ∧
    (∀ e, locate s v .fetch = .error e →
      exec (.bal m) s = .next (enterTrap { e with ra := true } { s with regs := oneReg s m.r link }))) ∧
  (∀ (s : State) (m : MR), (m.ind = true → ∃ w, readWord s (directRef s m) = .ok w) →
    exec (.cal1 m) s = .next (enterTrap { loc := 0x48#8, tcc := m.r } (onward s s.regs)) ∧
    exec (.cal2 m) s = .next (enterTrap { loc := 0x49#8, tcc := m.r } (onward s s.regs)) ∧
    exec (.cal3 m) s = .next (enterTrap { loc := 0x4A#8, tcc := m.r } (onward s s.regs)) ∧
    exec (.cal4 m) s = .next (enterTrap { loc := 0x4B#8, tcc := m.r } (onward s s.regs)))

/-! ### Control -/

/-- LPSD and XPSD as normal instructions in master mode (48 R522, R523; 60 R662, R664, R688). LPSD loads the PSD; with CL the
highest-priority active level is armed or disarmed (a power level is always armed), with AD alone PDF and the fault status
are cleared, and with them the PFI-generated flag (the model's choice, log 37). XPSD stores the PSD with the next instruction's address and loads the following doubleword, ORing the inhibits.
A pointer to a block that is not installed traps with TCC = 0000 and nothing changed. -/
def Obligations.ExchangeStatus : Prop :=
  (∀ (s : State) (m : MR) (d : Dword) (lp cl ad : Bool) (p : Psd), s.psd.ms = false → operandDword s m = .ok d →
    lp = bitOf m.r 0 → cl = bitOf m.r 2 → ad = bitOf m.r 3 → p = psdLoaded s.psd d s.inst.lpsdLoadsMaEa lp →
    (lp = true → rpInvalid s (d.extractLsb' 4 4) = true →
      exec (.lpsd m) s = .next (enterTrap { loc := 0x4D#8, fault := some .instructionException } s)) ∧
    ((lp = true → rpInvalid s (d.extractLsb' 4 4) = false) →
      (cl = false → ad = false → exec (.lpsd m) s = .next { s with psd := p, jumped := true }) ∧
      (cl = false → ad = true → exec (.lpsd m) s =
        .next { s with psd := p, jumped := true, pdf := false, faultStatus := 0, pfiGenerated := false }) ∧
      (cl = true → (∀ l, (rankOf s l).isSome = true → ¬ LevelActive s l) →
        exec (.lpsd m) s = .next { s with psd := p, jumped := true }) ∧
      (∀ l, cl = true → (rankOf s l).isSome = true → LevelActive s l → (∀ m, Higher s m l → ¬ LevelActive s m) →
        exec (.lpsd m) s = .next { s with
          psd := p, jumped := true
          ints := updateGroup s.ints l.group (fun g =>
            if ad = true ∨ l.group = .power
            then { g with aw := g.aw ||| levelMask l.bit, wa := g.wa &&& ~~~ (levelMask l.bit) }
            else { g with aw := g.aw &&& ~~~ (levelMask l.bit), wa := g.wa &&& ~~~ (levelMask l.bit) }) }))) ∧
  (∀ (s : State) (m : MR) (v : WordAddr) (l0 l1 l2 l3 : Loc) (n1 n2 : Word), MemCanonical s → s.psd.ms = false →
    effWordAddr s m alignDword = .ok v → locate s v .write = .ok l0 → locate s (v + 1) .write = .ok l1 →
    locate s (wordPlus s v 2) .read = .ok l2 → locate s (wordPlus s v 3) .read = .ok l3 → Sound s l2 → Sound s l3 →
    wordAt s l2 = n1 → wordAt s l3 = n2 →
    (bitOf m.r 0 = true → rpInvalid s (field n2 24 27) = true →
      exec (.xpsd m) s = .next (enterTrap { loc := 0x4D#8, fault := some .instructionException } s)) ∧
    ((bitOf m.r 0 = true → rpInvalid s (field n2 24 27) = false) →
      ∃ t u, exec (.xpsd m) s = .next t ∧ u = { t with psd := s.psd } ∧
        wordAt u l0 = psdWord1 { s.psd with ia := nextIa s } ∧ wordAt u l1 = psdWord2 s.psd 0 false ∧
        KeptBut s u (fun l => l = l0 ∨ l = l1) (fun _ => False) ∧
        t.psd = { psdLoaded s.psd (n1 ++ n2) true (bitOf m.r 0) with
          ci := s.psd.ci || bit n2 5, ii := s.psd.ii || bit n2 6, ei := s.psd.ei || bit n2 7 } ∧
        t = { s with
          regs := t.regs, mem := t.mem, badParity := t.badParity, watch := t.watch, psd := t.psd, jumped := true }))

/-- LRP, WAIT and LRA in master mode (48 R525, R533, R538). LRP loads bits 26 and 27 of the effective word into the register
pointer, unless they name no installed block. WAIT stops the CPU after moving the instruction address on. LRA delivers
the real address that the map gives for the effective word's address, with its lock, its access code in CC3 CC4 and
whether it exists in CC1 CC2; a register address is delivered as it is with CC = 1100. -/
def Obligations.PointerWaitRealAddress : Prop :=
  (∀ (s : State) (m : MR) (w : Word), s.psd.ms = false → operandWord s m = .ok w →
    ((field w 26 27).toNat < s.inst.nblocks → exec (.lrp m) s =
      .next { s with psd := { s.psd with rp := (field w 26 27).zeroExtend 4, ia := nextIa s } }) ∧
    (s.inst.nblocks ≤ (field w 26 27).toNat →
      exec (.lrp m) s = .next (enterTrap { loc := 0x4D#8, fault := some .instructionException } s))) ∧
  (∀ (s : State) (m : MR), s.psd.ms = false →
    exec (.wait m) s = .next { s with psd := { s.psd with ia := nextIa s }, halt := .waiting }) ∧
  (∀ (s : State) (m : MR) (w : Word) (v a real : WordAddr) (p : BitVec 8) (low size : Nat), s.psd.ms = false →
    operandWord s m = .ok w →
    (s.psd.cc1 = false → s.psd.cc2 = false → v.toNat = w.toNat % 2 ^ 19 / 4 ∧ size = 4 ∧ low = w.toNat % 4) →
    (s.psd.cc1 = false → s.psd.cc2 = true → v.toNat = w.toNat % 2 ^ 18 / 2 ∧ size = 2 ∧ low = w.toNat % 2) →
    (s.psd.cc1 = true → s.psd.cc2 = false → v.toNat = w.toNat % 2 ^ 17 ∧ size = 1 ∧ low = 0) →
    (s.psd.cc1 = true → s.psd.cc2 = true → v.toNat = w.toNat % 2 ^ 16 * 2) →
    p = BitVec.ofNat 8 (v.toNat / 512) → a.toNat = (mapOf s p).toNat * 512 + v.toNat % 512 → real = homespaceBias s a →
    (v.toNat < 16 → exec (.lra m) s = .next (finishedCC s (oneReg s m.r w) 0b1100#4)) ∧
    (16 ≤ v.toNat → ∃ x : Word,
      x.toNat = (if a.toNat < 1024 then 2 ^ 30 else 0) + (lockOf s a).toNat * 2 ^ 24 +
        (if s.psd.cc1 = true ∧ s.psd.cc2 = true then real.toNat / 2 else real.toNat * size + low) ∧
      exec (.lra m) s = .next (finishedCC s (oneReg s m.r x)
        ((if memExists s real then 0b00#2 else 0b11#2) ++ s.acc[p.toNat]'p.isLt))))

/-- MMC in master mode (48 R526-R531; 60 R662): with an even R, `n` words from the address in R load the locks (16 pages a
word), the access codes (16), the map in 8-bit (4) or 13-bit format (2) from the page in Ru1 on; R and the page field are
advanced and the count is cleared (the page field by the pages loaded, as the rule says and not as the printed examples of
R528 and R530: the model's choice, log 29). Nothing else changes. An odd R or another block number traps. A later word of a
lock image that cannot be read traps with RA = 1: R and Ru1 show the point reached if it is nonexistent or protected (60
R668; the model's choice beside R527 and R532, log 29) and keep their values at a parity error (R532). It is stated for blocks
of at most 256 pages, and for the map and access codes with no mapping in effect, when what is loaded does not change
where the later image words are read. -/
def Obligations.MoveToControl : Prop :=
  (∀ (s : State) (m : MR) (v : WordAddr) (n per page : Nat) (w : Nat → Word) (c : Word), s.psd.ms = false →
    oddR m.r = false → c = getReg s (m.r + 1) → v = wrapWord s ((getReg s m.r).extractLsb' 0 22) →
    n = (if field c 0 7 = 0 then 256 else (field c 0 7).toNat) → page = (field c 15 22).toNat →
    (∀ k, k < n → readWord s (wordPlus s v k) = .ok (w k)) → n * per ≤ 256 →
    (m.x ∈ [0b001#3, 0b010#3] ∧ per = 16 ∨ m.x = 0b100#3 ∧ per = 4 ∨ m.x = 0b101#3 ∧ per = 2) →
    (m.x = 0b001#3 ∨ s.psd.mm = false) → s.inst.map13First = 3 → s.inst.map13Second = 19 →
    ∃ t, exec (.mmc m) s = .next t ∧ OnlyControl s t ∧ t.psd = (onward s s.regs).psd ∧
      getReg t m.r = withWordAddress s (getReg s m.r) (wordPlus s v n) ∧
      (getReg t (m.r + 1)).toNat = (field c 8 14).toNat * 2 ^ 17 + (page + n * per) % 256 * 2 ^ 9 + c.toNat % 2 ^ 9 ∧
      (∀ r, r ≠ m.r → r ≠ m.r + 1 → getReg t r = getReg s r) ∧ OtherBlocksKept s t ∧
      (∀ p : BitVec 8, ∃ k, k = (p.toNat + 256 - page) % 256 ∧
        (t.lock[p.toNat]'p.isLt = if m.x = 0b001#3 ∧ k < n * 16 then (w (k / 16)).extractLsb' (30 - 2 * (k % 16)) 2
          else s.lock[p.toNat]'p.isLt) ∧
        (t.acc[p.toNat]'p.isLt = if m.x = 0b010#3 ∧ k < n * 16 then (w (k / 16)).extractLsb' (30 - 2 * (k % 16)) 2
          else s.acc[p.toNat]'p.isLt) ∧
        (t.map[p.toNat]'p.isLt =
          if m.x = 0b100#3 ∧ k < n * 4 then ((w (k / 4)).extractLsb' (24 - 8 * (k % 4)) 8).zeroExtend 13
          else if m.x = 0b101#3 ∧ k < n * 2 then (w (k / 2)).extractLsb' (16 - 16 * (k % 2)) 13
          else s.map[p.toNat]'p.isLt))) ∧
  (∀ (s : State) (m : MR) (v : WordAddr) (n k : Nat) (w : Nat → Word) (c : Word) (e : Trap) (l0 l1 : Loc),
    s.psd.ms = false → oddR m.r = false → m.x = 0b001#3 → c = getReg s (m.r + 1) →
    v = wrapWord s ((getReg s m.r).extractLsb' 0 22) → n = (if field c 0 7 = 0 then 256 else (field c 0 7).toNat) →
    locate s v .read = .ok l0 → locate s (wordPlus s v (n - 1)) .read = .ok l1 → k < n →
    (∀ j, j < k → readWord s (wordPlus s v j) = .ok (w j)) → readWord s (wordPlus s v k) = .error e →
    ∃ u, exec (.mmc m) s = .next (enterTrap { e with ra := true } u) ∧ OnlyControl s u ∧ u.psd = s.psd ∧
      OtherBlocksKept s u ∧ (∀ r, r ≠ m.r → r ≠ m.r + 1 → getReg u r = getReg s r) ∧
      (e.loc = 0x40#8 → getReg u m.r = withWordAddress s (getReg s m.r) (wordPlus s v k) ∧
        (getReg u (m.r + 1)).toNat = (n - k) % 256 * 2 ^ 24 + (field c 8 14).toNat * 2 ^ 17 +
          ((field c 15 22).toNat + k * 16) % 256 * 2 ^ 9 + c.toNat % 2 ^ 9) ∧
      (e.loc ≠ 0x40#8 → u.regs = s.regs)) ∧
  (∀ (s : State) (m : MR), s.psd.ms = false →
    (oddR m.r = true → exec (.mmc m) s = registerTrapTaken s) ∧
    (oddR m.r = false → m.x ∉ [0b001#3, 0b010#3, 0b100#3, 0b101#3] →
      exec (.mmc m) s = .next (enterTrap { loc := 0x4D#8, tcc := 0b0010#4, fault := some .instructionException } s)))

/-- LMS in master mode (48 R534-R537), for each condition code before it; afterwards CC1, CC2 and CC4 are 0 (CC1 reports bad
parity for action 0001, log 27) and CC3 is open (log 15), as is what status word 2 reads after a clearing. The address is
always of memory. A reserved code clears R and traps, after the test of a read access and with RA = 1 (the model's choices,
log 31 and 32), and the bank notes it; the bits of status words 0 and 1 (R535, R536); and the memory faults that a bank
notes by itself (R535, R682), the loop check and the temperature or power failures with snapshot and interrupt signal by the
model's choice (log 27). -/
def Obligations.MemoryStatus : Prop :=
  (∀ (b : Bank) (k : Nat), k < 32 →
    bit (statusWord0 b) k = (if k ∈ [1, 2, 3, 4, 5, 6, 7, 8, 12, 13] then bit b.faults k
      else if k = 14 then b.number.getLsbD 1 else if k = 15 then b.number.getLsbD 0 else bit b.sw0Other k) ∧
    bit (statusWord1 b) k = (if 14 ≤ k ∧ k ≤ 18 then b.margins.getLsbD (18 - k) else bit b.sw1Config k)) ∧
  (∀ (s : State) (a : WordAddr),
    ∀ p ∈ [(MemoryFault.parity .read, 1), (.parity .partialWrite, 2), (.parity .addressBus, 3), (.parity .dataBus, 4),
      (.loopCheck, 5), (.parity .portSelection, 6), (.power, 7)],
    ∃ parity : Bool, applyEvent (.memoryFault p.1 a) s = { s with
      free := s.free + 1
      banks := updateBanks (fun b =>
        if b.snap = none then { b with
          faults := b.faults ||| 0x80000000#32 >>> p.2 ||| (if parity then 0x00040000#32 else 0), snap := some a, mfi := true }
        else { b with faults := b.faults ||| 0x00080000#32, mfi := true }) a s.banks }) ∧
  ∀ (s : State) (m : MR) (v a : WordAddr), MemCanonical s → s.psd.ms = false → effWordAddr s m alignWord = .ok v →
    ∃ c3 : Bool, ∀ f : State → State, f = (fun t => { t with free := s.free + 1 }) →
    (locateMemory s v .write = .ok a →
      (ccOf s = 0b0000#4 → parityBad s a = false →
        ∃ t w, exec (.lms m) s = .next (f t) ∧ readWordAt s.mem a = w ∧ getReg t m.r = w ∧
          readWordAt t.mem a = w ||| 0x80000000#32 ∧ KeptBut s t (· = .mem a) (· = m.r) ∧ OnlyData s t ∧
          t.psd = (finished s s.regs false false c3 false).psd) ∧
      (ccOf s = 0b1111#4 →
        ∃ t, exec (.lms m) s = .next (f t) ∧ StoredAt s t (.mem a) 0 false false c3 false)) ∧
    (locateMemory s v .read = .ok a → ∀ w, readWordAt s.mem a = w →
      (ccOf s = 0b0001#4 →
        exec (.lms m) s = .next (f (finished s (oneReg s m.r w) (parityBad s a) false c3 false))) ∧
      (ccOf s = 0b0010#4 → parityBad s a = false →
        exec (.lms m) s = .next (f { finished s (oneReg s m.r w) false false c3 false with
          badParity := a.toNat :: s.badParity })) ∧
      (ccOf s = 0b0111#4 →
        exec (.lms m) s = .next (f { finished s s.regs false false c3 false with
          banks := updateBanks (fun b => { b with margins := field (getReg s m.r) 8 12 }) a s.banks })) ∧
      (∀ b, bankAt s a = some b →
        (ccOf s = 0b1000#4 →
          exec (.lms m) s = .next (f (finished s (oneReg s m.r (statusWord0 b)) false false c3 false))) ∧
        (ccOf s = 0b1001#4 →
          exec (.lms m) s = .next (f (finished s (oneReg s m.r (statusWord1 b)) false false c3 false))) ∧
        (ccOf s = 0b1010#4 →
          exec (.lms m) s = .next (f (finished s (oneReg s m.r (b.sw2Other ++ b.snap.getD b.sw2Idle)) false false c3
            false))) ∧
        (ccOf s = 0b1100#4 → ∃ idle : WordAddr,
          exec (.lms m) s = .next { finished s (oneReg s m.r (statusWord0 b)) false false c3 false with
            free := s.free + 2
            banks := updateBanks (fun b => { b with faults := 0, snap := none, sw2Idle := idle, mfi := false }) a
              s.banks }) ∧
        (ccOf s = 0b1110#4 → ∃ idle : WordAddr,
          exec (.lms m) s = .next { finished s (oneReg s m.r (b.sw2Other ++ b.snap.getD b.sw2Idle)) false false c3
              false with
            free := s.free + 2
            banks := updateBanks (fun b => { b with faults := 0, snap := none, sw2Idle := idle, mfi := false }) a
              s.banks })) ∧
      (ccOf s ∈ [0b0011#4, 0b0100#4, 0b0101#4, 0b0110#4, 0b1011#4, 0b1101#4] →
        exec (.lms m) s = .next (enterTrap { loc := 0x4C#8, ra := true, fault := some .memoryParity
                                             bankFault := some (0x00800000#32, a) }
          { s with regs := oneReg s m.r 0 })))

/-- RD and WD in master mode (48 R539-R556; 60 R671, R675), by the low half of the effective word address: the internal
controls of mode 0 and the interrupt levels of mode 1, in group X'0' and the external groups. RD loads only a nonzero R; WD
of R = 0 transmits zeros. WD X'46' and X'47' clear and set MA, as the manual's table says (log 33). Other addresses of mode
0, group X'1', groups with no level installed and the other codes of RD do nothing (D16); the address bits beside group and
code are ignored (the model's choice, log 30). In modes 2 to F the address, and the data of WD, are presented, the answer of
the external element is taken, CC1 and CC2 zero, and with no element the answer is open (log 17), as is the snapshot sample
(log 16); an element that never answers gives the trap X'46' with TCC4, or with the watchdog timer overridden no end (60 R657,
log 21). -/
def Obligations.DirectControl : Prop :=
  ∀ (s : State) (m : MR) (v : WordAddr) (a : Half) (data : Word) (load : Word → Vector Word 64), s.psd.ms = false →
    effWordAddr s m alignWord = .ok v → a = v.extractLsb' 0 16 → data = (if m.r = 0 then 0 else getReg s m.r) →
    load = (fun w => if m.r = 0 then s.regs else oneReg s m.r w) →
    (a = 0x0000#16 → exec (.rd m) s = .next (finishedCC s s.regs s.inst.sense) ∧
      exec (.wd m) s = .next (onward s s.regs)) ∧
    (a = 0x0045#16 → exec (.rd m) s = .next (onward s (load
        (0#6 ++ s.inst.cpuNumber ++ s.clockMargin ++ 0#1 ++ BitVec.ofBool s.inst.powerNormal ++ s.inst.homespaceBias ++
          s.inst.model.code ++ 0#12))) ∧
      exec (.wd m) s = .next { onward s s.regs with clockMargin := field data 8 9 }) ∧
    (a = 0x0048#16 → exec (.rd m) s = .next (onward s (load
        (0#29 ++ BitVec.ofBool s.psd.ci ++ BitVec.ofBool s.psd.ii ++ BitVec.ofBool s.psd.ei))) ∧
      exec (.wd m) s = .next { onward s s.regs with psd := { (onward s s.regs).psd with
        ci := bit data 29, ii := bit data 30, ei := bit data 31 } }) ∧
    (a = 0x0049#16 →
      (s.snapArmed = true → ∃ x, exec (.rd m) s =
        .next { finished s (load x) s.psd.cc1 s.psd.cc2 true false with snapArmed := false, free := s.free + 1 }) ∧
      (s.snapArmed = false → ∃ x c, exec (.rd m) s =
        .next { finished s (load x) s.psd.cc1 s.psd.cc2 false c with free := s.free + 2 }) ∧
      exec (.wd m) s = .next { onward s s.regs with snapControl := data, snapArmed := true }) ∧
    (a.extractLsb' 3 13 = 0b0000000000100#13 → exec (.wd m) s =
      .next { onward s s.regs with psd := { (onward s s.regs).psd with
        ci := s.psd.ci && !bitOf a 13, ii := s.psd.ii && !bitOf a 14, ei := s.psd.ei && !bitOf a 15 } }) ∧
    (a.extractLsb' 3 13 = 0b0000000000110#13 → exec (.wd m) s =
      .next { onward s s.regs with psd := { (onward s s.regs).psd with
        ci := s.psd.ci || bitOf a 13, ii := s.psd.ii || bitOf a 14, ei := s.psd.ei || bitOf a 15 } }) ∧
    (a = 0x0040#16 → exec (.wd m) s = .next { onward s s.regs with alarm := false }) ∧
    (a = 0x0041#16 → exec (.wd m) s = .next { onward s s.regs with alarm := true }) ∧
    (a = 0x0042#16 → exec (.wd m) s = .next { onward s s.regs with pcf := !s.pcf, alarm := false }) ∧
    (a = 0x0046#16 → exec (.wd m) s =
      .next { onward s s.regs with psd := { (onward s s.regs).psd with ma := false } }) ∧
    (a = 0x0047#16 → exec (.wd m) s =
      .next { onward s s.regs with psd := { (onward s s.regs).psd with ma := true } }) ∧
    (a.extractLsb' 12 4 = 0 → a ∉ [0x0000#16, 0x0045#16, 0x0048#16, 0x0049#16] →
      exec (.rd m) s = .next (onward s s.regs)) ∧
    (a.extractLsb' 12 4 = 0 → a.extractLsb' 3 13 ∉ [0b0000000000100#13, 0b0000000000110#13] →
      a ∉ [0x0040#16, 0x0041#16, 0x0042#16, 0x0045#16, 0x0046#16, 0x0047#16, 0x0048#16, 0x0049#16] →
      exec (.wd m) s = .next (onward s s.regs)) ∧
    (a.extractLsb' 12 4 = 1 → a.extractLsb' 0 4 = 1 →
      exec (.rd m) s = .next (onward s s.regs) ∧ exec (.wd m) s = .next (onward s s.regs)) ∧
    (∀ (g : LevelGroup) (k j : IntGroup) (here mask : BitVec 16) (code : BitVec 3), a.extractLsb' 12 4 = 1 →
      (a.extractLsb' 0 4 = 0 ∧ g = .internal ∧ here = (if s.inst.counters12 then 0xFFF0#16 else 0x3CF0#16) ∨
        ∃ e : Fin 14, (a.extractLsb' 0 4).toNat = e.val + 2 ∧ g = .external e ∧ here = s.inst.extInstalled[e.val]) →
      k = groupOf s.ints g → mask = data.extractLsb' 0 16 &&& here → code = a.extractLsb' 8 3 →
      (here ≠ 0 → code ∈ [0b001#3, 0b010#3, 0b100#3] → exec (.rd m) s = .next (onward s (load
        (((if code = 0b001#3 then k.aw else if code = 0b010#3 then k.wa else k.en) &&& here).zeroExtend 32)))) ∧
      (here = 0 ∨ code ∉ [0b001#3, 0b010#3, 0b100#3] → exec (.rd m) s = .next (onward s s.regs)) ∧
      (LevelsControlled code mask here k j → ∃ t, exec (.wd m) s = .next t ∧
        t = { onward s s.regs with ints := t.ints } ∧ groupOf t.ints g = j ∧
        ∀ h, h ≠ g → groupOf t.ints h = groupOf s.ints h)) ∧
    (2 ≤ (a.extractLsb' 12 4).toNat → ∀ read write : Option DioRequest, read = some ⟨a, none⟩ → write = some ⟨a, some data⟩ →
      (∀ d c3 c4 rest, s.dioScript = .answer d c3 c4 :: rest →
        exec (.rd m) s = .next { finished s (load d) false false c3 c4 with dioScript := rest, dioRequest := read } ∧
        exec (.wd m) s = .next { finished s s.regs false false c3 c4 with dioScript := rest, dioRequest := write }) ∧
      (s.dioScript = [] → (∃ d c3 c4, exec (.rd m) s =
          .next { finished s (load d) false false c3 c4 with free := s.free + 2, dioRequest := read }) ∧
        ∃ c3 c4, exec (.wd m) s =
          .next { finished s s.regs false false c3 c4 with free := s.free + 2, dioRequest := write }) ∧
      ∀ rest, s.dioScript = .silent :: rest →
        (s.inst.watchdogOverride = true → exec (.rd m) s = .fault .busHang ∧ exec (.wd m) s = .fault .busHang) ∧
        (s.inst.watchdogOverride = false →
          exec (.rd m) s = .next (enterTrap { loc := 0x46#8, tcc := 0b0001#4, fault := some .watchdog }
            { s with dioScript := rest, dioRequest := read }) ∧
          exec (.wd m) s = .next (enterTrap { loc := 0x46#8, tcc := 0b0001#4, fault := some .watchdog }
            { s with dioScript := rest, dioRequest := write })))

/-! ### Input/output -/

/-- The I/O instructions in master mode (49 R580-R586, R600-R614). What each presents to the I/O system: its kind, the I/O
address in bits 19-31 of its effective address, its R field, and for SIO the command address in bits 11-31 of register 0.
The answers come from the script (log 7): they set CC1-CC3 (CC4 kept), where an answer that the instruction's table calls not
possible counts as 110 (the model's choice, log 7), move the interrupt request line, leave what they leave in X'20' and X'21',
and give SIO, TIO, TDV and HIO two status words for an even R, one for an odd R, none for R = 0 or with CC1 = 1; AIO one. Code
X'4F' is HIO, RIO, POLP or POLR by bits 15-17 of the effective address (as R601 says: the model's choice, log 22); POLP and
POLR leave the fault status in bits 24-29 of R. With no I/O system attached no address is recognized: CC1-CC3 = 110. A
silent element gives the trap X'46', or with the watchdog timer overridden no end (60 R657, log 21). -/
def Obligations.InputOutput : Prop :=
  ∀ (s : State) (m : MR) (v : WordAddr) (sel : BitVec 3) (q : IoKind → IoRequest), s.psd.ms = false →
    effWordAddr s m alignWord = .ok v → sel = v.extractLsb' 14 3 →
    (∀ k, q k = ⟨k, v.extractLsb' 0 13, m.r, if k = .sio then some (field (getReg s 0) 11 31) else none⟩) →
    (4 ≤ sel.toNat → ∀ i ∈ [Instr.hio m, .rio m, .polp m, .polr m],
      exec i s = .next (finished s s.regs true true false s.psd.cc4)) ∧
    (∀ (c1 c2 c3 line : Bool) (w1 w2 : Word) (comm : Option (Word × Word)) (rest : List IoAnswer)
        (two : Vector Word 64), MemCanonical s → s.ioScript = .answer c1 c2 c3 w1 w2 comm line :: rest →
      two = (if c1 = true ∨ m.r = 0 then s.regs else if oddR m.r then oneReg s m.r w2
        else pairRegsLowLast s m.r w1 w2) →
      (∃ u, Communicated s u comm ∧
        (∀ p ∈ [(Instr.sio m, IoKind.sio), (.tio m, .tio), (.tdv m, .tdv)], exec p.1 s = .next (answered
          (if c1 = true ∧ c2 = false ∧ c3 = true then finished u two true true false s.psd.cc4
            else finished u two c1 c2 c3 s.psd.cc4) (q p.2) rest line)) ∧
        exec (.aio m) s = .next (answered
          (if c1 = true ∧ c2 = true then finished u s.regs true true false s.psd.cc4
            else if c1 = true then finished u s.regs true false false s.psd.cc4
            else finished u (if m.r = 0 then s.regs else oneReg s m.r w2) false c2 c3 s.psd.cc4) (q .aio) rest line) ∧
        (sel = 0b000#3 → ∀ i ∈ [Instr.hio m, .rio m, .polp m, .polr m], exec i s = .next (answered
          (if c1 = true ∧ c2 = false then finished u two true true false s.psd.cc4
            else finished u two c1 c2 c3 s.psd.cc4) (q .hio) rest line))) ∧
      (sel = 0b001#3 → ∀ i ∈ [Instr.hio m, .rio m, .polp m, .polr m],
        exec i s = .next (answered (finished s s.regs c1 c1 false s.psd.cc4) (q .rio) rest line)) ∧
      (∀ k, (sel = 0b010#3 ∧ k = .polp) ∨ (sel = 0b011#3 ∧ k = .polr) →
        ∀ i ∈ [Instr.hio m, .rio m, .polp m, .polr m], exec i s = .next (answered
          (if c1 then finished s s.regs true true false s.psd.cc4
            else finished s (oneReg s m.r ((field w2 24 29).zeroExtend 32 <<< 2)) false false c3 s.psd.cc4)
          (q k) rest line))) ∧
    (∀ p, p ∈ [(Instr.sio m, IoKind.sio), (.tio m, .tio), (.tdv m, .tdv), (.aio m, .aio)] ∨
        (p.1 ∈ [Instr.hio m, .rio m, .polp m, .polr m] ∧
          (sel, p.2) ∈ [(0b000#3, IoKind.hio), (0b001#3, .rio), (0b010#3, .polp), (0b011#3, .polr)]) →
      (s.ioScript = [] →
        exec p.1 s = .next { finished s s.regs true true false s.psd.cc4 with ioRequest := some (q p.2) }) ∧
      ∀ rest, s.ioScript = .silent :: rest →
        (s.inst.watchdogOverride = true → exec p.1 s = .fault .busHang) ∧
        (s.inst.watchdogOverride = false →
          exec p.1 s = .next (enterTrap { loc := 0x46#8, tcc := 0b0100#4, fault := some .watchdog }
            { s with ioScript := rest, ioRequest := some (q p.2) })))
end

