-- ==== Sys2Proof/Laws/Memory.lean ====
section
/-! SUPPORT. Registers and memory: read after write, and the canonical form kept by every memory operation. -/

namespace Sys2Proof.Laws

open Sys2Proof Sys2Proof.Machine

/-! ### Registers -/

theorem regIndex_inj {p : Psd} {n k : BitVec 4} (h : regIndex p n = regIndex p k) : n = k := by
  unfold regIndex at h
  have h1 := BitVec.eq_of_toNat_eq h
  clear h
  generalize p.rp.extractLsb' 0 2 = x at h1
  revert h1
  revert x n k
  decide

@[simp] theorem getReg_setReg_same (n : BitVec 4) (v : Word) (s : State) : getReg (setReg n v s) n = v := by
  simp [getReg, setReg]

theorem getReg_setReg_ne {n k : BitVec 4} (h : k ≠ n) (v : Word) (s : State) :
    getReg (setReg n v s) k = getReg s k := by
  have : regIndex s.psd n ≠ regIndex s.psd k := fun e => h (regIndex_inj e).symm
  simp [getReg, setReg, this]

/-- A register after a register write. -/
theorem getReg_setReg (n k : BitVec 4) (v : Word) (s : State) :
    getReg (setReg n v s) k = if k = n then v else getReg s k := by
  by_cases h : k = n
  · subst h; simp
  · simp [getReg_setReg_ne h, h]

/-- A register read depends on the registers and the register pointer only. -/
theorem getReg_congr {s t : State} (hr : t.regs = s.regs) (hp : t.psd.rp = s.psd.rp) (n : BitVec 4) :
    getReg t n = getReg s n := by
  simp [getReg, regIndex, hr, hp]

theorem getReg_setRegPair_even {r : BitVec 4} (h : oddR r = false) (d : Dword) (s : State) :
    getReg (setRegPair r d s) r = hiWord d ∧ getReg (setRegPair r d s) (ru1 r) = loWord d := by
  have h1 : ru1 r ≠ r := by
    unfold ru1 oddR at *
    revert h; revert r; decide
  simp [setRegPair, getReg_setReg_ne h1]

/-! ### Bytes -/

theorem wfFrom_le {lo lo' : Nat} (h : lo' ≤ lo) : ∀ {m : Memory}, wfFrom lo m = true → wfFrom lo' m = true
  | [], _ => rfl
  | (k, b) :: rest, hw => by
    simp only [wfFrom, Bool.and_eq_true, decide_eq_true_eq] at hw ⊢
    exact ⟨⟨le_trans h hw.1.1, hw.1.2⟩, hw.2⟩

theorem wfFrom_writeCell {lo a : Nat} (b : Byte) (h : lo ≤ a) :
    ∀ {m : Memory}, wfFrom lo m = true → wfFrom lo (writeCell m a b) = true
  | [], _ => by
    unfold writeCell
    split
    · rfl
    · simp_all [wfFrom]
  | (k, c) :: rest, hw => by
    have hw' := hw
    simp only [wfFrom, Bool.and_eq_true, decide_eq_true_eq] at hw'
    unfold writeCell
    split
    · rename_i hk
      split
      · exact hw
      · simp only [wfFrom, Bool.and_eq_true, decide_eq_true_eq, bne_iff_ne]
        simp_all
    · split
      · rename_i hk
        subst hk
        split
        · exact wfFrom_le (by omega) hw'.2
        · simp_all [wfFrom]
      · have ih := wfFrom_writeCell b (lo := k + 1) (a := a) (by omega) hw'.2
        simp_all [wfFrom]

/-- A byte written keeps the canonical form. -/
theorem wf_writeCell {m : Memory} (h : m.wf = true) (a : Nat) (b : Byte) : Memory.wf (writeCell m a b) = true :=
  wfFrom_writeCell b (Nat.zero_le a) h

/-- A byte below every listed address reads as unwritten. -/
theorem readCell_below {lo a : Nat} (h : a < lo) : ∀ {m : Memory}, wfFrom lo m = true → readCell m a = unwritten
  | [], _ => rfl
  | (k, b) :: rest, hw => by
    simp only [wfFrom, Bool.and_eq_true, decide_eq_true_eq] at hw
    have : k ≠ a := by omega
    simp only [readCell, this, if_false]
    exact readCell_below (lo := k + 1) (by omega) hw.2

theorem readCell_writeCell_same {lo : Nat} (a : Nat) (b : Byte) :
    ∀ {m : Memory}, wfFrom lo m = true → readCell (writeCell m a b) a = b
  | [], _ => by
    unfold writeCell
    split
    · simp_all [readCell]
    · simp [readCell]
  | (k, c) :: rest, hw => by
    have hw' := hw
    simp only [wfFrom, Bool.and_eq_true, decide_eq_true_eq] at hw'
    unfold writeCell
    split
    · split
      · rename_i hk hb
        have : k ≠ a := by omega
        simp only [readCell, this, if_false, hb]
        exact readCell_below (lo := k + 1) (by omega) hw'.2
      · simp [readCell]
    · split
      · rename_i hk
        subst hk
        split
        · rename_i hb
          rw [hb]
          exact readCell_below (lo := a + 1) (by omega) hw'.2
        · simp [readCell]
      · rename_i hk
        have : k ≠ a := fun e => hk e.symm
        simp only [readCell, this, if_false]
        exact readCell_writeCell_same a b hw'.2

theorem readCell_writeCell_ne {a a' : Nat} (h : a' ≠ a) (b : Byte) :
    ∀ (m : Memory), readCell (writeCell m a b) a' = readCell m a'
  | [] => by
    unfold writeCell
    split <;> simp [readCell, h.symm]
  | (k, c) :: rest => by
    unfold writeCell
    split
    · split
      · rfl
      · simp [readCell, h.symm]
    · split
      · rename_i hk
        subst hk
        split <;> simp [readCell, h.symm]
      · simp only [readCell]
        rw [readCell_writeCell_ne h b rest]

/-- The byte at an address after a byte was written, in canonical memory. -/
theorem readCell_writeCell {m : Memory} (hw : m.wf = true) (a a' : Nat) (b : Byte) :
    readCell (writeCell m a b) a' = if a' = a then b else readCell m a' := by
  by_cases h : a' = a
  · subst h
    simpa using readCell_writeCell_same a' b hw
  · simp [h, readCell_writeCell_ne h]

/-! ### Words -/

/-- A word stored keeps the canonical form. -/
theorem wf_writeWordAt {m : Memory} (h : m.wf = true) (a : WordAddr) (w : Word) :
    Memory.wf (writeWordAt m a w) = true :=
  wf_writeCell (wf_writeCell (wf_writeCell (wf_writeCell h _ _) _ _) _ _) _ _

/-- A word stored leaves every byte outside it alone. -/
theorem readCell_writeWordAt_ne {m : Memory} {a : WordAddr} {x : Nat} (w : Word)
    (h : x < 4 * a.toNat ∨ 4 * a.toNat + 4 ≤ x) : readCell (writeWordAt m a w) x = readCell m x := by
  unfold writeWordAt
  rw [readCell_writeCell_ne (by omega), readCell_writeCell_ne (by omega), readCell_writeCell_ne (by omega),
    readCell_writeCell_ne (by omega)]

theorem bytes_append (w : Word) : byteOf w 0 ++ byteOf w 1 ++ byteOf w 2 ++ byteOf w 3 = w := by
  ext i hi
  simp only [byteOf, BitVec.getElem_append, BitVec.getElem_extractLsb']
  repeat' split
  all_goals (rw [← BitVec.getLsbD_eq_getElem]; congr 1; simp)
  all_goals omega

/-- A word stored is the word read. -/
theorem readWordAt_writeWordAt {m : Memory} (hw : m.wf = true) (a : WordAddr) (w : Word) :
    readWordAt (writeWordAt m a w) a = w := by
  have h0 := hw
  have h1 := wf_writeCell h0 (4 * a.toNat) (byteOf w 0)
  have h2 := wf_writeCell h1 (4 * a.toNat + 1) (byteOf w 1)
  have h3 := wf_writeCell h2 (4 * a.toNat + 2) (byteOf w 2)
  unfold readWordAt writeWordAt
  simp only [readCell_writeCell h3, readCell_writeCell h2, readCell_writeCell h1, readCell_writeCell h0]
  simpa using bytes_append w

/-- A word stored leaves every other word alone. -/
theorem readWordAt_writeWordAt_ne {m : Memory} {a a' : WordAddr} (h : a' ≠ a) (w : Word) :
    readWordAt (writeWordAt m a w) a' = readWordAt m a' := by
  have hn : a'.toNat ≠ a.toNat := fun e => h (BitVec.eq_of_toNat_eq e)
  unfold readWordAt
  rw [readCell_writeWordAt_ne w (by omega), readCell_writeWordAt_ne w (by omega),
    readCell_writeWordAt_ne w (by omega), readCell_writeWordAt_ne w (by omega)]

/-! ### Stores -/

/-- What a store can do: a register written, or a real word with its good parity. -/
theorem writeLoc_cases (l : Loc) (w : Word) (s : State) :
    (∃ n, l = .reg n ∧ writeLoc l w s = setReg n w s) ∨
    (∃ a, l = .mem a ∧ writeLoc l w s =
      { s with
        mem := writeWordAt s.mem a w
        badParity := s.badParity.filter (· != a.toNat)
        watch := s.watch.filter (· != a.toNat) }) := by
  cases l with
  | reg n => exact .inl ⟨n, rfl, rfl⟩
  | mem a => exact .inr ⟨a, rfl, rfl⟩

/-- A store keeps the canonical form. -/
theorem wf_writeLoc {s : State} (h : s.mem.wf = true) (l : Loc) (w : Word) : (writeLoc l w s).mem.wf = true := by
  cases l with
  | reg n => exact h
  | mem a => exact wf_writeWordAt h a w

theorem wf_writeWord {s s' : State} {v : WordAddr} {w : Word} (h : s.mem.wf = true) (e : writeWord s v w = .ok s') :
    s'.mem.wf = true := by
  unfold writeWord at e
  split at e
  · cases e; exact wf_writeLoc h _ _
  · cases e

theorem wf_writeByte {s s' : State} {b : ByteAddr} {x : Byte} (h : s.mem.wf = true) (e : writeByte s b x = .ok s') :
    s'.mem.wf = true := by
  unfold writeByte at e
  split at e
  · cases e; exact wf_writeLoc h _ _
  · cases e

theorem wf_writeHalf {s s' : State} {b : ByteAddr} {x : Half} (h : s.mem.wf = true) (e : writeHalf s b x = .ok s') :
    s'.mem.wf = true := by
  unfold writeHalf at e
  split at e
  · cases e; exact wf_writeLoc h _ _
  · cases e

/-! ### The access path -/

/-- Where an access can land: a register for addresses 0-15, else an implemented real word that the protection and the
write lock allow. -/
theorem locate_cases {s : State} {v : WordAddr} {k : Access} {l : Loc} (h : locate s v k = .ok l) :
    (v.toNat < 16 ∧ l = .reg (v.extractLsb' 0 4)) ∨
    (16 ≤ v.toNat ∧ l = .mem (homespaceBias s (actualAddr s v)) ∧
      memExists s (homespaceBias s (actualAddr s v)) = true ∧
      (protectionOn s = true → allowed (accOf s (pageOf v)) k = true) ∧
      (k = .write → keyOpens s.psd.wk (lockOf s (actualAddr s v)) = true)) := by
  unfold locate at h
  split at h
  · cases h; exact .inl ⟨by assumption, rfl⟩
  · rename_i hv
    refine .inr ⟨by omega, ?_⟩
    unfold locateMemory at h
    dsimp only at h
    split at h
    · rename_i a ha
      split at ha
      · cases ha
      · rename_i hc
        cases ha
        cases h
        simp only [Bool.or_eq_true, Bool.not_eq_true', Bool.and_eq_true, not_or, not_and, Bool.not_eq_false,
          beq_iff_eq] at hc
        exact ⟨rfl, by simpa using hc.2, fun hp => by simpa using hc.1.1 hp, fun hk => by simpa using hc.1.2 hk⟩
    · cases h

/-- A word read at addresses 0-15 is a general register. -/
theorem readWord_register {s : State} {v : WordAddr} (h : v.toNat < 16) :
    readWord s v = .ok (getReg s (v.extractLsb' 0 4)) := by
  simp [readWord, locate, h, readLoc, readLocNoting]

/-- A store leaves what is read at another place as it was, its parity as well. -/
theorem readLoc_writeLoc_ne {l l' : Loc} (h : l' ≠ l) (w : Word) (s : State) :
    readLoc (writeLoc l w s) l' = readLoc s l' := by
  cases l with
  | reg n =>
    cases l' with
    | reg k => simp only [readLoc, readLocNoting, writeLoc]; rw [getReg_setReg_ne (by rintro rfl; exact h rfl)]
    | mem a => rfl
  | mem a =>
    cases l' with
    | reg k => rfl
    | mem b =>
      have hb : b ≠ a := by rintro rfl; exact h rfl
      have hn : b.toNat ≠ a.toNat := fun e => hb (BitVec.eq_of_toNat_eq e)
      simp only [readLoc, readLocNoting, writeLoc, parityBad]
      rw [readWordAt_writeWordAt_ne hb]
      simp [List.contains_eq_mem, List.mem_filter, hn]

/-- A word read and then the same word stored need the same access in the same place. -/
theorem readForUpdate_ok {bits : Word} {s : State} {v : WordAddr} {l : Loc} {w : Word}
    (h : readForUpdate bits s v = .ok (l, w)) :
    locate s v .write = .ok l ∧ readLocNoting bits s l = .ok w := by
  unfold readForUpdate at h
  split at h
  · rename_i l' hl
    split at h
    · rename_i w' hw
      cases h
      exact ⟨hl, hw⟩
    · cases h
  · cases h

end Sys2Proof.Laws
end

