-- ==== Sys2Proof/Laws/State.lean ====
section
/-! SUPPORT. One lemma per field per update of the state, true by rfl, so that no proof unfolds a record update. -/

namespace Sys2Proof.Laws

open Sys2Proof Sys2Proof.Machine

/-! ### setReg -/

@[simp] theorem setReg_inst (n : BitVec 4) (v : Word) (s : State) : (setReg n v s).inst = s.inst := rfl
@[simp] theorem setReg_psd (n : BitVec 4) (v : Word) (s : State) : (setReg n v s).psd = s.psd := rfl
@[simp] theorem setReg_map (n : BitVec 4) (v : Word) (s : State) : (setReg n v s).map = s.map := rfl
@[simp] theorem setReg_acc (n : BitVec 4) (v : Word) (s : State) : (setReg n v s).acc = s.acc := rfl
@[simp] theorem setReg_lock (n : BitVec 4) (v : Word) (s : State) : (setReg n v s).lock = s.lock := rfl
@[simp] theorem setReg_mem (n : BitVec 4) (v : Word) (s : State) : (setReg n v s).mem = s.mem := rfl
@[simp] theorem setReg_badParity (n : BitVec 4) (v : Word) (s : State) : (setReg n v s).badParity = s.badParity := rfl
@[simp] theorem setReg_banks (n : BitVec 4) (v : Word) (s : State) : (setReg n v s).banks = s.banks := rfl
@[simp] theorem setReg_ints (n : BitVec 4) (v : Word) (s : State) : (setReg n v s).ints = s.ints := rfl
@[simp] theorem setReg_pdf (n : BitVec 4) (v : Word) (s : State) : (setReg n v s).pdf = s.pdf := rfl
@[simp] theorem setReg_faultStatus (n : BitVec 4) (v : Word) (s : State) : (setReg n v s).faultStatus = s.faultStatus := rfl
@[simp] theorem setReg_pfiGenerated (n : BitVec 4) (v : Word) (s : State) : (setReg n v s).pfiGenerated = s.pfiGenerated := rfl
@[simp] theorem setReg_tcc (n : BitVec 4) (v : Word) (s : State) : (setReg n v s).tcc = s.tcc := rfl
@[simp] theorem setReg_snapControl (n : BitVec 4) (v : Word) (s : State) : (setReg n v s).snapControl = s.snapControl := rfl
@[simp] theorem setReg_snapSample (n : BitVec 4) (v : Word) (s : State) : (setReg n v s).snapSample = s.snapSample := rfl
@[simp] theorem setReg_snapArmed (n : BitVec 4) (v : Word) (s : State) : (setReg n v s).snapArmed = s.snapArmed := rfl
@[simp] theorem setReg_alarm (n : BitVec 4) (v : Word) (s : State) : (setReg n v s).alarm = s.alarm := rfl
@[simp] theorem setReg_pcf (n : BitVec 4) (v : Word) (s : State) : (setReg n v s).pcf = s.pcf := rfl
@[simp] theorem setReg_clockMargin (n : BitVec 4) (v : Word) (s : State) : (setReg n v s).clockMargin = s.clockMargin := rfl
@[simp] theorem setReg_compute (n : BitVec 4) (v : Word) (s : State) : (setReg n v s).compute = s.compute := rfl
@[simp] theorem setReg_halt (n : BitVec 4) (v : Word) (s : State) : (setReg n v s).halt = s.halt := rfl
@[simp] theorem setReg_ioLine (n : BitVec 4) (v : Word) (s : State) : (setReg n v s).ioLine = s.ioLine := rfl
@[simp] theorem setReg_stopSwitches (n : BitVec 4) (v : Word) (s : State) : (setReg n v s).stopSwitches = s.stopSwitches := rfl
@[simp] theorem setReg_ioRequest (n : BitVec 4) (v : Word) (s : State) : (setReg n v s).ioRequest = s.ioRequest := rfl
@[simp] theorem setReg_dioRequest (n : BitVec 4) (v : Word) (s : State) : (setReg n v s).dioRequest = s.dioRequest := rfl
@[simp] theorem setReg_stoppedAt (n : BitVec 4) (v : Word) (s : State) : (setReg n v s).stoppedAt = s.stoppedAt := rfl
@[simp] theorem setReg_pend (n : BitVec 4) (v : Word) (s : State) : (setReg n v s).pend = s.pend := rfl
@[simp] theorem setReg_jumped (n : BitVec 4) (v : Word) (s : State) : (setReg n v s).jumped = s.jumped := rfl
@[simp] theorem setReg_completed (n : BitVec 4) (v : Word) (s : State) : (setReg n v s).completed = s.completed := rfl
@[simp] theorem setReg_watch (n : BitVec 4) (v : Word) (s : State) : (setReg n v s).watch = s.watch := rfl
@[simp] theorem setReg_stale (n : BitVec 4) (v : Word) (s : State) : (setReg n v s).stale = s.stale := rfl
@[simp] theorem setReg_free (n : BitVec 4) (v : Word) (s : State) : (setReg n v s).free = s.free := rfl
@[simp] theorem setReg_inputs (n : BitVec 4) (v : Word) (s : State) : (setReg n v s).inputs = s.inputs := rfl
@[simp] theorem setReg_ioScript (n : BitVec 4) (v : Word) (s : State) : (setReg n v s).ioScript = s.ioScript := rfl
@[simp] theorem setReg_dioScript (n : BitVec 4) (v : Word) (s : State) : (setReg n v s).dioScript = s.dioScript := rfl

/-! ### advance -/

@[simp] theorem advance_inst (s : State) : (advance s).inst = s.inst := rfl
@[simp] theorem advance_regs (s : State) : (advance s).regs = s.regs := rfl
@[simp] theorem advance_map (s : State) : (advance s).map = s.map := rfl
@[simp] theorem advance_acc (s : State) : (advance s).acc = s.acc := rfl
@[simp] theorem advance_lock (s : State) : (advance s).lock = s.lock := rfl
@[simp] theorem advance_mem (s : State) : (advance s).mem = s.mem := rfl
@[simp] theorem advance_badParity (s : State) : (advance s).badParity = s.badParity := rfl
@[simp] theorem advance_banks (s : State) : (advance s).banks = s.banks := rfl
@[simp] theorem advance_ints (s : State) : (advance s).ints = s.ints := rfl
@[simp] theorem advance_pdf (s : State) : (advance s).pdf = s.pdf := rfl
@[simp] theorem advance_faultStatus (s : State) : (advance s).faultStatus = s.faultStatus := rfl
@[simp] theorem advance_pfiGenerated (s : State) : (advance s).pfiGenerated = s.pfiGenerated := rfl
@[simp] theorem advance_tcc (s : State) : (advance s).tcc = s.tcc := rfl
@[simp] theorem advance_snapControl (s : State) : (advance s).snapControl = s.snapControl := rfl
@[simp] theorem advance_snapSample (s : State) : (advance s).snapSample = s.snapSample := rfl
@[simp] theorem advance_snapArmed (s : State) : (advance s).snapArmed = s.snapArmed := rfl
@[simp] theorem advance_alarm (s : State) : (advance s).alarm = s.alarm := rfl
@[simp] theorem advance_pcf (s : State) : (advance s).pcf = s.pcf := rfl
@[simp] theorem advance_clockMargin (s : State) : (advance s).clockMargin = s.clockMargin := rfl
@[simp] theorem advance_compute (s : State) : (advance s).compute = s.compute := rfl
@[simp] theorem advance_halt (s : State) : (advance s).halt = s.halt := rfl
@[simp] theorem advance_ioLine (s : State) : (advance s).ioLine = s.ioLine := rfl
@[simp] theorem advance_stopSwitches (s : State) : (advance s).stopSwitches = s.stopSwitches := rfl
@[simp] theorem advance_ioRequest (s : State) : (advance s).ioRequest = s.ioRequest := rfl
@[simp] theorem advance_dioRequest (s : State) : (advance s).dioRequest = s.dioRequest := rfl
@[simp] theorem advance_stoppedAt (s : State) : (advance s).stoppedAt = s.stoppedAt := rfl
@[simp] theorem advance_pend (s : State) : (advance s).pend = s.pend := rfl
@[simp] theorem advance_jumped (s : State) : (advance s).jumped = s.jumped := rfl
@[simp] theorem advance_completed (s : State) : (advance s).completed = s.completed := rfl
@[simp] theorem advance_watch (s : State) : (advance s).watch = s.watch := rfl
@[simp] theorem advance_stale (s : State) : (advance s).stale = s.stale := rfl
@[simp] theorem advance_free (s : State) : (advance s).free = s.free := rfl
@[simp] theorem advance_inputs (s : State) : (advance s).inputs = s.inputs := rfl
@[simp] theorem advance_ioScript (s : State) : (advance s).ioScript = s.ioScript := rfl
@[simp] theorem advance_dioScript (s : State) : (advance s).dioScript = s.dioScript := rfl

/-! ### setCC -/

@[simp] theorem setCC_inst (v : BitVec 4) (s : State) : (setCC v s).inst = s.inst := rfl
@[simp] theorem setCC_regs (v : BitVec 4) (s : State) : (setCC v s).regs = s.regs := rfl
@[simp] theorem setCC_map (v : BitVec 4) (s : State) : (setCC v s).map = s.map := rfl
@[simp] theorem setCC_acc (v : BitVec 4) (s : State) : (setCC v s).acc = s.acc := rfl
@[simp] theorem setCC_lock (v : BitVec 4) (s : State) : (setCC v s).lock = s.lock := rfl
@[simp] theorem setCC_mem (v : BitVec 4) (s : State) : (setCC v s).mem = s.mem := rfl
@[simp] theorem setCC_badParity (v : BitVec 4) (s : State) : (setCC v s).badParity = s.badParity := rfl
@[simp] theorem setCC_banks (v : BitVec 4) (s : State) : (setCC v s).banks = s.banks := rfl
@[simp] theorem setCC_ints (v : BitVec 4) (s : State) : (setCC v s).ints = s.ints := rfl
@[simp] theorem setCC_pdf (v : BitVec 4) (s : State) : (setCC v s).pdf = s.pdf := rfl
@[simp] theorem setCC_faultStatus (v : BitVec 4) (s : State) : (setCC v s).faultStatus = s.faultStatus := rfl
@[simp] theorem setCC_pfiGenerated (v : BitVec 4) (s : State) : (setCC v s).pfiGenerated = s.pfiGenerated := rfl
@[simp] theorem setCC_tcc (v : BitVec 4) (s : State) : (setCC v s).tcc = s.tcc := rfl
@[simp] theorem setCC_snapControl (v : BitVec 4) (s : State) : (setCC v s).snapControl = s.snapControl := rfl
@[simp] theorem setCC_snapSample (v : BitVec 4) (s : State) : (setCC v s).snapSample = s.snapSample := rfl
@[simp] theorem setCC_snapArmed (v : BitVec 4) (s : State) : (setCC v s).snapArmed = s.snapArmed := rfl
@[simp] theorem setCC_alarm (v : BitVec 4) (s : State) : (setCC v s).alarm = s.alarm := rfl
@[simp] theorem setCC_pcf (v : BitVec 4) (s : State) : (setCC v s).pcf = s.pcf := rfl
@[simp] theorem setCC_clockMargin (v : BitVec 4) (s : State) : (setCC v s).clockMargin = s.clockMargin := rfl
@[simp] theorem setCC_compute (v : BitVec 4) (s : State) : (setCC v s).compute = s.compute := rfl
@[simp] theorem setCC_halt (v : BitVec 4) (s : State) : (setCC v s).halt = s.halt := rfl
@[simp] theorem setCC_ioLine (v : BitVec 4) (s : State) : (setCC v s).ioLine = s.ioLine := rfl
@[simp] theorem setCC_stopSwitches (v : BitVec 4) (s : State) : (setCC v s).stopSwitches = s.stopSwitches := rfl
@[simp] theorem setCC_ioRequest (v : BitVec 4) (s : State) : (setCC v s).ioRequest = s.ioRequest := rfl
@[simp] theorem setCC_dioRequest (v : BitVec 4) (s : State) : (setCC v s).dioRequest = s.dioRequest := rfl
@[simp] theorem setCC_stoppedAt (v : BitVec 4) (s : State) : (setCC v s).stoppedAt = s.stoppedAt := rfl
@[simp] theorem setCC_pend (v : BitVec 4) (s : State) : (setCC v s).pend = s.pend := rfl
@[simp] theorem setCC_jumped (v : BitVec 4) (s : State) : (setCC v s).jumped = s.jumped := rfl
@[simp] theorem setCC_completed (v : BitVec 4) (s : State) : (setCC v s).completed = s.completed := rfl
@[simp] theorem setCC_watch (v : BitVec 4) (s : State) : (setCC v s).watch = s.watch := rfl
@[simp] theorem setCC_stale (v : BitVec 4) (s : State) : (setCC v s).stale = s.stale := rfl
@[simp] theorem setCC_free (v : BitVec 4) (s : State) : (setCC v s).free = s.free := rfl
@[simp] theorem setCC_inputs (v : BitVec 4) (s : State) : (setCC v s).inputs = s.inputs := rfl
@[simp] theorem setCC_ioScript (v : BitVec 4) (s : State) : (setCC v s).ioScript = s.ioScript := rfl
@[simp] theorem setCC_dioScript (v : BitVec 4) (s : State) : (setCC v s).dioScript = s.dioScript := rfl

/-! ### setCC1 -/

@[simp] theorem setCC1_inst (a : Bool) (s : State) : (setCC1 a s).inst = s.inst := rfl
@[simp] theorem setCC1_regs (a : Bool) (s : State) : (setCC1 a s).regs = s.regs := rfl
@[simp] theorem setCC1_map (a : Bool) (s : State) : (setCC1 a s).map = s.map := rfl
@[simp] theorem setCC1_acc (a : Bool) (s : State) : (setCC1 a s).acc = s.acc := rfl
@[simp] theorem setCC1_lock (a : Bool) (s : State) : (setCC1 a s).lock = s.lock := rfl
@[simp] theorem setCC1_mem (a : Bool) (s : State) : (setCC1 a s).mem = s.mem := rfl
@[simp] theorem setCC1_badParity (a : Bool) (s : State) : (setCC1 a s).badParity = s.badParity := rfl
@[simp] theorem setCC1_banks (a : Bool) (s : State) : (setCC1 a s).banks = s.banks := rfl
@[simp] theorem setCC1_ints (a : Bool) (s : State) : (setCC1 a s).ints = s.ints := rfl
@[simp] theorem setCC1_pdf (a : Bool) (s : State) : (setCC1 a s).pdf = s.pdf := rfl
@[simp] theorem setCC1_faultStatus (a : Bool) (s : State) : (setCC1 a s).faultStatus = s.faultStatus := rfl
@[simp] theorem setCC1_pfiGenerated (a : Bool) (s : State) : (setCC1 a s).pfiGenerated = s.pfiGenerated := rfl
@[simp] theorem setCC1_tcc (a : Bool) (s : State) : (setCC1 a s).tcc = s.tcc := rfl
@[simp] theorem setCC1_snapControl (a : Bool) (s : State) : (setCC1 a s).snapControl = s.snapControl := rfl
@[simp] theorem setCC1_snapSample (a : Bool) (s : State) : (setCC1 a s).snapSample = s.snapSample := rfl
@[simp] theorem setCC1_snapArmed (a : Bool) (s : State) : (setCC1 a s).snapArmed = s.snapArmed := rfl
@[simp] theorem setCC1_alarm (a : Bool) (s : State) : (setCC1 a s).alarm = s.alarm := rfl
@[simp] theorem setCC1_pcf (a : Bool) (s : State) : (setCC1 a s).pcf = s.pcf := rfl
@[simp] theorem setCC1_clockMargin (a : Bool) (s : State) : (setCC1 a s).clockMargin = s.clockMargin := rfl
@[simp] theorem setCC1_compute (a : Bool) (s : State) : (setCC1 a s).compute = s.compute := rfl
@[simp] theorem setCC1_halt (a : Bool) (s : State) : (setCC1 a s).halt = s.halt := rfl
@[simp] theorem setCC1_ioLine (a : Bool) (s : State) : (setCC1 a s).ioLine = s.ioLine := rfl
@[simp] theorem setCC1_stopSwitches (a : Bool) (s : State) : (setCC1 a s).stopSwitches = s.stopSwitches := rfl
@[simp] theorem setCC1_ioRequest (a : Bool) (s : State) : (setCC1 a s).ioRequest = s.ioRequest := rfl
@[simp] theorem setCC1_dioRequest (a : Bool) (s : State) : (setCC1 a s).dioRequest = s.dioRequest := rfl
@[simp] theorem setCC1_stoppedAt (a : Bool) (s : State) : (setCC1 a s).stoppedAt = s.stoppedAt := rfl
@[simp] theorem setCC1_pend (a : Bool) (s : State) : (setCC1 a s).pend = s.pend := rfl
@[simp] theorem setCC1_jumped (a : Bool) (s : State) : (setCC1 a s).jumped = s.jumped := rfl
@[simp] theorem setCC1_completed (a : Bool) (s : State) : (setCC1 a s).completed = s.completed := rfl
@[simp] theorem setCC1_watch (a : Bool) (s : State) : (setCC1 a s).watch = s.watch := rfl
@[simp] theorem setCC1_stale (a : Bool) (s : State) : (setCC1 a s).stale = s.stale := rfl
@[simp] theorem setCC1_free (a : Bool) (s : State) : (setCC1 a s).free = s.free := rfl
@[simp] theorem setCC1_inputs (a : Bool) (s : State) : (setCC1 a s).inputs = s.inputs := rfl
@[simp] theorem setCC1_ioScript (a : Bool) (s : State) : (setCC1 a s).ioScript = s.ioScript := rfl
@[simp] theorem setCC1_dioScript (a : Bool) (s : State) : (setCC1 a s).dioScript = s.dioScript := rfl

/-! ### setCC2 -/

@[simp] theorem setCC2_inst (a : Bool) (s : State) : (setCC2 a s).inst = s.inst := rfl
@[simp] theorem setCC2_regs (a : Bool) (s : State) : (setCC2 a s).regs = s.regs := rfl
@[simp] theorem setCC2_map (a : Bool) (s : State) : (setCC2 a s).map = s.map := rfl
@[simp] theorem setCC2_acc (a : Bool) (s : State) : (setCC2 a s).acc = s.acc := rfl
@[simp] theorem setCC2_lock (a : Bool) (s : State) : (setCC2 a s).lock = s.lock := rfl
@[simp] theorem setCC2_mem (a : Bool) (s : State) : (setCC2 a s).mem = s.mem := rfl
@[simp] theorem setCC2_badParity (a : Bool) (s : State) : (setCC2 a s).badParity = s.badParity := rfl
@[simp] theorem setCC2_banks (a : Bool) (s : State) : (setCC2 a s).banks = s.banks := rfl
@[simp] theorem setCC2_ints (a : Bool) (s : State) : (setCC2 a s).ints = s.ints := rfl
@[simp] theorem setCC2_pdf (a : Bool) (s : State) : (setCC2 a s).pdf = s.pdf := rfl
@[simp] theorem setCC2_faultStatus (a : Bool) (s : State) : (setCC2 a s).faultStatus = s.faultStatus := rfl
@[simp] theorem setCC2_pfiGenerated (a : Bool) (s : State) : (setCC2 a s).pfiGenerated = s.pfiGenerated := rfl
@[simp] theorem setCC2_tcc (a : Bool) (s : State) : (setCC2 a s).tcc = s.tcc := rfl
@[simp] theorem setCC2_snapControl (a : Bool) (s : State) : (setCC2 a s).snapControl = s.snapControl := rfl
@[simp] theorem setCC2_snapSample (a : Bool) (s : State) : (setCC2 a s).snapSample = s.snapSample := rfl
@[simp] theorem setCC2_snapArmed (a : Bool) (s : State) : (setCC2 a s).snapArmed = s.snapArmed := rfl
@[simp] theorem setCC2_alarm (a : Bool) (s : State) : (setCC2 a s).alarm = s.alarm := rfl
@[simp] theorem setCC2_pcf (a : Bool) (s : State) : (setCC2 a s).pcf = s.pcf := rfl
@[simp] theorem setCC2_clockMargin (a : Bool) (s : State) : (setCC2 a s).clockMargin = s.clockMargin := rfl
@[simp] theorem setCC2_compute (a : Bool) (s : State) : (setCC2 a s).compute = s.compute := rfl
@[simp] theorem setCC2_halt (a : Bool) (s : State) : (setCC2 a s).halt = s.halt := rfl
@[simp] theorem setCC2_ioLine (a : Bool) (s : State) : (setCC2 a s).ioLine = s.ioLine := rfl
@[simp] theorem setCC2_stopSwitches (a : Bool) (s : State) : (setCC2 a s).stopSwitches = s.stopSwitches := rfl
@[simp] theorem setCC2_ioRequest (a : Bool) (s : State) : (setCC2 a s).ioRequest = s.ioRequest := rfl
@[simp] theorem setCC2_dioRequest (a : Bool) (s : State) : (setCC2 a s).dioRequest = s.dioRequest := rfl
@[simp] theorem setCC2_stoppedAt (a : Bool) (s : State) : (setCC2 a s).stoppedAt = s.stoppedAt := rfl
@[simp] theorem setCC2_pend (a : Bool) (s : State) : (setCC2 a s).pend = s.pend := rfl
@[simp] theorem setCC2_jumped (a : Bool) (s : State) : (setCC2 a s).jumped = s.jumped := rfl
@[simp] theorem setCC2_completed (a : Bool) (s : State) : (setCC2 a s).completed = s.completed := rfl
@[simp] theorem setCC2_watch (a : Bool) (s : State) : (setCC2 a s).watch = s.watch := rfl
@[simp] theorem setCC2_stale (a : Bool) (s : State) : (setCC2 a s).stale = s.stale := rfl
@[simp] theorem setCC2_free (a : Bool) (s : State) : (setCC2 a s).free = s.free := rfl
@[simp] theorem setCC2_inputs (a : Bool) (s : State) : (setCC2 a s).inputs = s.inputs := rfl
@[simp] theorem setCC2_ioScript (a : Bool) (s : State) : (setCC2 a s).ioScript = s.ioScript := rfl
@[simp] theorem setCC2_dioScript (a : Bool) (s : State) : (setCC2 a s).dioScript = s.dioScript := rfl

/-! ### setCC3 -/

@[simp] theorem setCC3_inst (a : Bool) (s : State) : (setCC3 a s).inst = s.inst := rfl
@[simp] theorem setCC3_regs (a : Bool) (s : State) : (setCC3 a s).regs = s.regs := rfl
@[simp] theorem setCC3_map (a : Bool) (s : State) : (setCC3 a s).map = s.map := rfl
@[simp] theorem setCC3_acc (a : Bool) (s : State) : (setCC3 a s).acc = s.acc := rfl
@[simp] theorem setCC3_lock (a : Bool) (s : State) : (setCC3 a s).lock = s.lock := rfl
@[simp] theorem setCC3_mem (a : Bool) (s : State) : (setCC3 a s).mem = s.mem := rfl
@[simp] theorem setCC3_badParity (a : Bool) (s : State) : (setCC3 a s).badParity = s.badParity := rfl
@[simp] theorem setCC3_banks (a : Bool) (s : State) : (setCC3 a s).banks = s.banks := rfl
@[simp] theorem setCC3_ints (a : Bool) (s : State) : (setCC3 a s).ints = s.ints := rfl
@[simp] theorem setCC3_pdf (a : Bool) (s : State) : (setCC3 a s).pdf = s.pdf := rfl
@[simp] theorem setCC3_faultStatus (a : Bool) (s : State) : (setCC3 a s).faultStatus = s.faultStatus := rfl
@[simp] theorem setCC3_pfiGenerated (a : Bool) (s : State) : (setCC3 a s).pfiGenerated = s.pfiGenerated := rfl
@[simp] theorem setCC3_tcc (a : Bool) (s : State) : (setCC3 a s).tcc = s.tcc := rfl
@[simp] theorem setCC3_snapControl (a : Bool) (s : State) : (setCC3 a s).snapControl = s.snapControl := rfl
@[simp] theorem setCC3_snapSample (a : Bool) (s : State) : (setCC3 a s).snapSample = s.snapSample := rfl
@[simp] theorem setCC3_snapArmed (a : Bool) (s : State) : (setCC3 a s).snapArmed = s.snapArmed := rfl
@[simp] theorem setCC3_alarm (a : Bool) (s : State) : (setCC3 a s).alarm = s.alarm := rfl
@[simp] theorem setCC3_pcf (a : Bool) (s : State) : (setCC3 a s).pcf = s.pcf := rfl
@[simp] theorem setCC3_clockMargin (a : Bool) (s : State) : (setCC3 a s).clockMargin = s.clockMargin := rfl
@[simp] theorem setCC3_compute (a : Bool) (s : State) : (setCC3 a s).compute = s.compute := rfl
@[simp] theorem setCC3_halt (a : Bool) (s : State) : (setCC3 a s).halt = s.halt := rfl
@[simp] theorem setCC3_ioLine (a : Bool) (s : State) : (setCC3 a s).ioLine = s.ioLine := rfl
@[simp] theorem setCC3_stopSwitches (a : Bool) (s : State) : (setCC3 a s).stopSwitches = s.stopSwitches := rfl
@[simp] theorem setCC3_ioRequest (a : Bool) (s : State) : (setCC3 a s).ioRequest = s.ioRequest := rfl
@[simp] theorem setCC3_dioRequest (a : Bool) (s : State) : (setCC3 a s).dioRequest = s.dioRequest := rfl
@[simp] theorem setCC3_stoppedAt (a : Bool) (s : State) : (setCC3 a s).stoppedAt = s.stoppedAt := rfl
@[simp] theorem setCC3_pend (a : Bool) (s : State) : (setCC3 a s).pend = s.pend := rfl
@[simp] theorem setCC3_jumped (a : Bool) (s : State) : (setCC3 a s).jumped = s.jumped := rfl
@[simp] theorem setCC3_completed (a : Bool) (s : State) : (setCC3 a s).completed = s.completed := rfl
@[simp] theorem setCC3_watch (a : Bool) (s : State) : (setCC3 a s).watch = s.watch := rfl
@[simp] theorem setCC3_stale (a : Bool) (s : State) : (setCC3 a s).stale = s.stale := rfl
@[simp] theorem setCC3_free (a : Bool) (s : State) : (setCC3 a s).free = s.free := rfl
@[simp] theorem setCC3_inputs (a : Bool) (s : State) : (setCC3 a s).inputs = s.inputs := rfl
@[simp] theorem setCC3_ioScript (a : Bool) (s : State) : (setCC3 a s).ioScript = s.ioScript := rfl
@[simp] theorem setCC3_dioScript (a : Bool) (s : State) : (setCC3 a s).dioScript = s.dioScript := rfl

/-! ### setCC4 -/

@[simp] theorem setCC4_inst (a : Bool) (s : State) : (setCC4 a s).inst = s.inst := rfl
@[simp] theorem setCC4_regs (a : Bool) (s : State) : (setCC4 a s).regs = s.regs := rfl
@[simp] theorem setCC4_map (a : Bool) (s : State) : (setCC4 a s).map = s.map := rfl
@[simp] theorem setCC4_acc (a : Bool) (s : State) : (setCC4 a s).acc = s.acc := rfl
@[simp] theorem setCC4_lock (a : Bool) (s : State) : (setCC4 a s).lock = s.lock := rfl
@[simp] theorem setCC4_mem (a : Bool) (s : State) : (setCC4 a s).mem = s.mem := rfl
@[simp] theorem setCC4_badParity (a : Bool) (s : State) : (setCC4 a s).badParity = s.badParity := rfl
@[simp] theorem setCC4_banks (a : Bool) (s : State) : (setCC4 a s).banks = s.banks := rfl
@[simp] theorem setCC4_ints (a : Bool) (s : State) : (setCC4 a s).ints = s.ints := rfl
@[simp] theorem setCC4_pdf (a : Bool) (s : State) : (setCC4 a s).pdf = s.pdf := rfl
@[simp] theorem setCC4_faultStatus (a : Bool) (s : State) : (setCC4 a s).faultStatus = s.faultStatus := rfl
@[simp] theorem setCC4_pfiGenerated (a : Bool) (s : State) : (setCC4 a s).pfiGenerated = s.pfiGenerated := rfl
@[simp] theorem setCC4_tcc (a : Bool) (s : State) : (setCC4 a s).tcc = s.tcc := rfl
@[simp] theorem setCC4_snapControl (a : Bool) (s : State) : (setCC4 a s).snapControl = s.snapControl := rfl
@[simp] theorem setCC4_snapSample (a : Bool) (s : State) : (setCC4 a s).snapSample = s.snapSample := rfl
@[simp] theorem setCC4_snapArmed (a : Bool) (s : State) : (setCC4 a s).snapArmed = s.snapArmed := rfl
@[simp] theorem setCC4_alarm (a : Bool) (s : State) : (setCC4 a s).alarm = s.alarm := rfl
@[simp] theorem setCC4_pcf (a : Bool) (s : State) : (setCC4 a s).pcf = s.pcf := rfl
@[simp] theorem setCC4_clockMargin (a : Bool) (s : State) : (setCC4 a s).clockMargin = s.clockMargin := rfl
@[simp] theorem setCC4_compute (a : Bool) (s : State) : (setCC4 a s).compute = s.compute := rfl
@[simp] theorem setCC4_halt (a : Bool) (s : State) : (setCC4 a s).halt = s.halt := rfl
@[simp] theorem setCC4_ioLine (a : Bool) (s : State) : (setCC4 a s).ioLine = s.ioLine := rfl
@[simp] theorem setCC4_stopSwitches (a : Bool) (s : State) : (setCC4 a s).stopSwitches = s.stopSwitches := rfl
@[simp] theorem setCC4_ioRequest (a : Bool) (s : State) : (setCC4 a s).ioRequest = s.ioRequest := rfl
@[simp] theorem setCC4_dioRequest (a : Bool) (s : State) : (setCC4 a s).dioRequest = s.dioRequest := rfl
@[simp] theorem setCC4_stoppedAt (a : Bool) (s : State) : (setCC4 a s).stoppedAt = s.stoppedAt := rfl
@[simp] theorem setCC4_pend (a : Bool) (s : State) : (setCC4 a s).pend = s.pend := rfl
@[simp] theorem setCC4_jumped (a : Bool) (s : State) : (setCC4 a s).jumped = s.jumped := rfl
@[simp] theorem setCC4_completed (a : Bool) (s : State) : (setCC4 a s).completed = s.completed := rfl
@[simp] theorem setCC4_watch (a : Bool) (s : State) : (setCC4 a s).watch = s.watch := rfl
@[simp] theorem setCC4_stale (a : Bool) (s : State) : (setCC4 a s).stale = s.stale := rfl
@[simp] theorem setCC4_free (a : Bool) (s : State) : (setCC4 a s).free = s.free := rfl
@[simp] theorem setCC4_inputs (a : Bool) (s : State) : (setCC4 a s).inputs = s.inputs := rfl
@[simp] theorem setCC4_ioScript (a : Bool) (s : State) : (setCC4 a s).ioScript = s.ioScript := rfl
@[simp] theorem setCC4_dioScript (a : Bool) (s : State) : (setCC4 a s).dioScript = s.dioScript := rfl

/-! ### setCC12 -/

@[simp] theorem setCC12_inst (a b : Bool) (s : State) : (setCC12 a b s).inst = s.inst := rfl
@[simp] theorem setCC12_regs (a b : Bool) (s : State) : (setCC12 a b s).regs = s.regs := rfl
@[simp] theorem setCC12_map (a b : Bool) (s : State) : (setCC12 a b s).map = s.map := rfl
@[simp] theorem setCC12_acc (a b : Bool) (s : State) : (setCC12 a b s).acc = s.acc := rfl
@[simp] theorem setCC12_lock (a b : Bool) (s : State) : (setCC12 a b s).lock = s.lock := rfl
@[simp] theorem setCC12_mem (a b : Bool) (s : State) : (setCC12 a b s).mem = s.mem := rfl
@[simp] theorem setCC12_badParity (a b : Bool) (s : State) : (setCC12 a b s).badParity = s.badParity := rfl
@[simp] theorem setCC12_banks (a b : Bool) (s : State) : (setCC12 a b s).banks = s.banks := rfl
@[simp] theorem setCC12_ints (a b : Bool) (s : State) : (setCC12 a b s).ints = s.ints := rfl
@[simp] theorem setCC12_pdf (a b : Bool) (s : State) : (setCC12 a b s).pdf = s.pdf := rfl
@[simp] theorem setCC12_faultStatus (a b : Bool) (s : State) : (setCC12 a b s).faultStatus = s.faultStatus := rfl
@[simp] theorem setCC12_pfiGenerated (a b : Bool) (s : State) : (setCC12 a b s).pfiGenerated = s.pfiGenerated := rfl
@[simp] theorem setCC12_tcc (a b : Bool) (s : State) : (setCC12 a b s).tcc = s.tcc := rfl
@[simp] theorem setCC12_snapControl (a b : Bool) (s : State) : (setCC12 a b s).snapControl = s.snapControl := rfl
@[simp] theorem setCC12_snapSample (a b : Bool) (s : State) : (setCC12 a b s).snapSample = s.snapSample := rfl
@[simp] theorem setCC12_snapArmed (a b : Bool) (s : State) : (setCC12 a b s).snapArmed = s.snapArmed := rfl
@[simp] theorem setCC12_alarm (a b : Bool) (s : State) : (setCC12 a b s).alarm = s.alarm := rfl
@[simp] theorem setCC12_pcf (a b : Bool) (s : State) : (setCC12 a b s).pcf = s.pcf := rfl
@[simp] theorem setCC12_clockMargin (a b : Bool) (s : State) : (setCC12 a b s).clockMargin = s.clockMargin := rfl
@[simp] theorem setCC12_compute (a b : Bool) (s : State) : (setCC12 a b s).compute = s.compute := rfl
@[simp] theorem setCC12_halt (a b : Bool) (s : State) : (setCC12 a b s).halt = s.halt := rfl
@[simp] theorem setCC12_ioLine (a b : Bool) (s : State) : (setCC12 a b s).ioLine = s.ioLine := rfl
@[simp] theorem setCC12_stopSwitches (a b : Bool) (s : State) : (setCC12 a b s).stopSwitches = s.stopSwitches := rfl
@[simp] theorem setCC12_ioRequest (a b : Bool) (s : State) : (setCC12 a b s).ioRequest = s.ioRequest := rfl
@[simp] theorem setCC12_dioRequest (a b : Bool) (s : State) : (setCC12 a b s).dioRequest = s.dioRequest := rfl
@[simp] theorem setCC12_stoppedAt (a b : Bool) (s : State) : (setCC12 a b s).stoppedAt = s.stoppedAt := rfl
@[simp] theorem setCC12_pend (a b : Bool) (s : State) : (setCC12 a b s).pend = s.pend := rfl
@[simp] theorem setCC12_jumped (a b : Bool) (s : State) : (setCC12 a b s).jumped = s.jumped := rfl
@[simp] theorem setCC12_completed (a b : Bool) (s : State) : (setCC12 a b s).completed = s.completed := rfl
@[simp] theorem setCC12_watch (a b : Bool) (s : State) : (setCC12 a b s).watch = s.watch := rfl
@[simp] theorem setCC12_stale (a b : Bool) (s : State) : (setCC12 a b s).stale = s.stale := rfl
@[simp] theorem setCC12_free (a b : Bool) (s : State) : (setCC12 a b s).free = s.free := rfl
@[simp] theorem setCC12_inputs (a b : Bool) (s : State) : (setCC12 a b s).inputs = s.inputs := rfl
@[simp] theorem setCC12_ioScript (a b : Bool) (s : State) : (setCC12 a b s).ioScript = s.ioScript := rfl
@[simp] theorem setCC12_dioScript (a b : Bool) (s : State) : (setCC12 a b s).dioScript = s.dioScript := rfl

/-! ### setCC34 -/

@[simp] theorem setCC34_inst (a b : Bool) (s : State) : (setCC34 a b s).inst = s.inst := rfl
@[simp] theorem setCC34_regs (a b : Bool) (s : State) : (setCC34 a b s).regs = s.regs := rfl
@[simp] theorem setCC34_map (a b : Bool) (s : State) : (setCC34 a b s).map = s.map := rfl
@[simp] theorem setCC34_acc (a b : Bool) (s : State) : (setCC34 a b s).acc = s.acc := rfl
@[simp] theorem setCC34_lock (a b : Bool) (s : State) : (setCC34 a b s).lock = s.lock := rfl
@[simp] theorem setCC34_mem (a b : Bool) (s : State) : (setCC34 a b s).mem = s.mem := rfl
@[simp] theorem setCC34_badParity (a b : Bool) (s : State) : (setCC34 a b s).badParity = s.badParity := rfl
@[simp] theorem setCC34_banks (a b : Bool) (s : State) : (setCC34 a b s).banks = s.banks := rfl
@[simp] theorem setCC34_ints (a b : Bool) (s : State) : (setCC34 a b s).ints = s.ints := rfl
@[simp] theorem setCC34_pdf (a b : Bool) (s : State) : (setCC34 a b s).pdf = s.pdf := rfl
@[simp] theorem setCC34_faultStatus (a b : Bool) (s : State) : (setCC34 a b s).faultStatus = s.faultStatus := rfl
@[simp] theorem setCC34_pfiGenerated (a b : Bool) (s : State) : (setCC34 a b s).pfiGenerated = s.pfiGenerated := rfl
@[simp] theorem setCC34_tcc (a b : Bool) (s : State) : (setCC34 a b s).tcc = s.tcc := rfl
@[simp] theorem setCC34_snapControl (a b : Bool) (s : State) : (setCC34 a b s).snapControl = s.snapControl := rfl
@[simp] theorem setCC34_snapSample (a b : Bool) (s : State) : (setCC34 a b s).snapSample = s.snapSample := rfl
@[simp] theorem setCC34_snapArmed (a b : Bool) (s : State) : (setCC34 a b s).snapArmed = s.snapArmed := rfl
@[simp] theorem setCC34_alarm (a b : Bool) (s : State) : (setCC34 a b s).alarm = s.alarm := rfl
@[simp] theorem setCC34_pcf (a b : Bool) (s : State) : (setCC34 a b s).pcf = s.pcf := rfl
@[simp] theorem setCC34_clockMargin (a b : Bool) (s : State) : (setCC34 a b s).clockMargin = s.clockMargin := rfl
@[simp] theorem setCC34_compute (a b : Bool) (s : State) : (setCC34 a b s).compute = s.compute := rfl
@[simp] theorem setCC34_halt (a b : Bool) (s : State) : (setCC34 a b s).halt = s.halt := rfl
@[simp] theorem setCC34_ioLine (a b : Bool) (s : State) : (setCC34 a b s).ioLine = s.ioLine := rfl
@[simp] theorem setCC34_stopSwitches (a b : Bool) (s : State) : (setCC34 a b s).stopSwitches = s.stopSwitches := rfl
@[simp] theorem setCC34_ioRequest (a b : Bool) (s : State) : (setCC34 a b s).ioRequest = s.ioRequest := rfl
@[simp] theorem setCC34_dioRequest (a b : Bool) (s : State) : (setCC34 a b s).dioRequest = s.dioRequest := rfl
@[simp] theorem setCC34_stoppedAt (a b : Bool) (s : State) : (setCC34 a b s).stoppedAt = s.stoppedAt := rfl
@[simp] theorem setCC34_pend (a b : Bool) (s : State) : (setCC34 a b s).pend = s.pend := rfl
@[simp] theorem setCC34_jumped (a b : Bool) (s : State) : (setCC34 a b s).jumped = s.jumped := rfl
@[simp] theorem setCC34_completed (a b : Bool) (s : State) : (setCC34 a b s).completed = s.completed := rfl
@[simp] theorem setCC34_watch (a b : Bool) (s : State) : (setCC34 a b s).watch = s.watch := rfl
@[simp] theorem setCC34_stale (a b : Bool) (s : State) : (setCC34 a b s).stale = s.stale := rfl
@[simp] theorem setCC34_free (a b : Bool) (s : State) : (setCC34 a b s).free = s.free := rfl
@[simp] theorem setCC34_inputs (a b : Bool) (s : State) : (setCC34 a b s).inputs = s.inputs := rfl
@[simp] theorem setCC34_ioScript (a b : Bool) (s : State) : (setCC34 a b s).ioScript = s.ioScript := rfl
@[simp] theorem setCC34_dioScript (a b : Bool) (s : State) : (setCC34 a b s).dioScript = s.dioScript := rfl

/-! ### setCC123 -/

@[simp] theorem setCC123_inst (a b c : Bool) (s : State) : (setCC123 a b c s).inst = s.inst := rfl
@[simp] theorem setCC123_regs (a b c : Bool) (s : State) : (setCC123 a b c s).regs = s.regs := rfl
@[simp] theorem setCC123_map (a b c : Bool) (s : State) : (setCC123 a b c s).map = s.map := rfl
@[simp] theorem setCC123_acc (a b c : Bool) (s : State) : (setCC123 a b c s).acc = s.acc := rfl
@[simp] theorem setCC123_lock (a b c : Bool) (s : State) : (setCC123 a b c s).lock = s.lock := rfl
@[simp] theorem setCC123_mem (a b c : Bool) (s : State) : (setCC123 a b c s).mem = s.mem := rfl
@[simp] theorem setCC123_badParity (a b c : Bool) (s : State) : (setCC123 a b c s).badParity = s.badParity := rfl
@[simp] theorem setCC123_banks (a b c : Bool) (s : State) : (setCC123 a b c s).banks = s.banks := rfl
@[simp] theorem setCC123_ints (a b c : Bool) (s : State) : (setCC123 a b c s).ints = s.ints := rfl
@[simp] theorem setCC123_pdf (a b c : Bool) (s : State) : (setCC123 a b c s).pdf = s.pdf := rfl
@[simp] theorem setCC123_faultStatus (a b c : Bool) (s : State) : (setCC123 a b c s).faultStatus = s.faultStatus := rfl
@[simp] theorem setCC123_pfiGenerated (a b c : Bool) (s : State) : (setCC123 a b c s).pfiGenerated = s.pfiGenerated := rfl
@[simp] theorem setCC123_tcc (a b c : Bool) (s : State) : (setCC123 a b c s).tcc = s.tcc := rfl
@[simp] theorem setCC123_snapControl (a b c : Bool) (s : State) : (setCC123 a b c s).snapControl = s.snapControl := rfl
@[simp] theorem setCC123_snapSample (a b c : Bool) (s : State) : (setCC123 a b c s).snapSample = s.snapSample := rfl
@[simp] theorem setCC123_snapArmed (a b c : Bool) (s : State) : (setCC123 a b c s).snapArmed = s.snapArmed := rfl
@[simp] theorem setCC123_alarm (a b c : Bool) (s : State) : (setCC123 a b c s).alarm = s.alarm := rfl
@[simp] theorem setCC123_pcf (a b c : Bool) (s : State) : (setCC123 a b c s).pcf = s.pcf := rfl
@[simp] theorem setCC123_clockMargin (a b c : Bool) (s : State) : (setCC123 a b c s).clockMargin = s.clockMargin := rfl
@[simp] theorem setCC123_compute (a b c : Bool) (s : State) : (setCC123 a b c s).compute = s.compute := rfl
@[simp] theorem setCC123_halt (a b c : Bool) (s : State) : (setCC123 a b c s).halt = s.halt := rfl
@[simp] theorem setCC123_ioLine (a b c : Bool) (s : State) : (setCC123 a b c s).ioLine = s.ioLine := rfl
@[simp] theorem setCC123_stopSwitches (a b c : Bool) (s : State) : (setCC123 a b c s).stopSwitches = s.stopSwitches := rfl
@[simp] theorem setCC123_ioRequest (a b c : Bool) (s : State) : (setCC123 a b c s).ioRequest = s.ioRequest := rfl
@[simp] theorem setCC123_dioRequest (a b c : Bool) (s : State) : (setCC123 a b c s).dioRequest = s.dioRequest := rfl
@[simp] theorem setCC123_stoppedAt (a b c : Bool) (s : State) : (setCC123 a b c s).stoppedAt = s.stoppedAt := rfl
@[simp] theorem setCC123_pend (a b c : Bool) (s : State) : (setCC123 a b c s).pend = s.pend := rfl
@[simp] theorem setCC123_jumped (a b c : Bool) (s : State) : (setCC123 a b c s).jumped = s.jumped := rfl
@[simp] theorem setCC123_completed (a b c : Bool) (s : State) : (setCC123 a b c s).completed = s.completed := rfl
@[simp] theorem setCC123_watch (a b c : Bool) (s : State) : (setCC123 a b c s).watch = s.watch := rfl
@[simp] theorem setCC123_stale (a b c : Bool) (s : State) : (setCC123 a b c s).stale = s.stale := rfl
@[simp] theorem setCC123_free (a b c : Bool) (s : State) : (setCC123 a b c s).free = s.free := rfl
@[simp] theorem setCC123_inputs (a b c : Bool) (s : State) : (setCC123 a b c s).inputs = s.inputs := rfl
@[simp] theorem setCC123_ioScript (a b c : Bool) (s : State) : (setCC123 a b c s).ioScript = s.ioScript := rfl
@[simp] theorem setCC123_dioScript (a b c : Bool) (s : State) : (setCC123 a b c s).dioScript = s.dioScript := rfl

/-! ### PSD fields -/

@[simp] theorem advance_psd_cc1 (s : State) : (advance s).psd.cc1 = s.psd.cc1 := rfl
@[simp] theorem advance_psd_cc2 (s : State) : (advance s).psd.cc2 = s.psd.cc2 := rfl
@[simp] theorem advance_psd_cc3 (s : State) : (advance s).psd.cc3 = s.psd.cc3 := rfl
@[simp] theorem advance_psd_cc4 (s : State) : (advance s).psd.cc4 = s.psd.cc4 := rfl
@[simp] theorem advance_psd_fs (s : State) : (advance s).psd.fs = s.psd.fs := rfl
@[simp] theorem advance_psd_fz (s : State) : (advance s).psd.fz = s.psd.fz := rfl
@[simp] theorem advance_psd_fn (s : State) : (advance s).psd.fn = s.psd.fn := rfl
@[simp] theorem advance_psd_ms (s : State) : (advance s).psd.ms = s.psd.ms := rfl
@[simp] theorem advance_psd_mm (s : State) : (advance s).psd.mm = s.psd.mm := rfl
@[simp] theorem advance_psd_dm (s : State) : (advance s).psd.dm = s.psd.dm := rfl
@[simp] theorem advance_psd_am (s : State) : (advance s).psd.am = s.psd.am := rfl
@[simp] theorem advance_psd_ansi (s : State) : (advance s).psd.ansi = s.psd.ansi := rfl
@[simp] theorem advance_psd_ia (s : State) : (advance s).psd.ia = nextIa s := rfl
@[simp] theorem advance_psd_wk (s : State) : (advance s).psd.wk = s.psd.wk := rfl
@[simp] theorem advance_psd_ci (s : State) : (advance s).psd.ci = s.psd.ci := rfl
@[simp] theorem advance_psd_ii (s : State) : (advance s).psd.ii = s.psd.ii := rfl
@[simp] theorem advance_psd_ei (s : State) : (advance s).psd.ei = s.psd.ei := rfl
@[simp] theorem advance_psd_ma (s : State) : (advance s).psd.ma = s.psd.ma := rfl
@[simp] theorem advance_psd_ea (s : State) : (advance s).psd.ea = s.psd.ea := rfl
@[simp] theorem advance_psd_rp (s : State) : (advance s).psd.rp = s.psd.rp := rfl
@[simp] theorem setCC_psd_cc1 (v : BitVec 4) (s : State) : (setCC v s).psd.cc1 = v.getLsbD 3 := rfl
@[simp] theorem setCC_psd_cc2 (v : BitVec 4) (s : State) : (setCC v s).psd.cc2 = v.getLsbD 2 := rfl
@[simp] theorem setCC_psd_cc3 (v : BitVec 4) (s : State) : (setCC v s).psd.cc3 = v.getLsbD 1 := rfl
@[simp] theorem setCC_psd_cc4 (v : BitVec 4) (s : State) : (setCC v s).psd.cc4 = v.getLsbD 0 := rfl
@[simp] theorem setCC_psd_fs (v : BitVec 4) (s : State) : (setCC v s).psd.fs = s.psd.fs := rfl
@[simp] theorem setCC_psd_fz (v : BitVec 4) (s : State) : (setCC v s).psd.fz = s.psd.fz := rfl
@[simp] theorem setCC_psd_fn (v : BitVec 4) (s : State) : (setCC v s).psd.fn = s.psd.fn := rfl
@[simp] theorem setCC_psd_ms (v : BitVec 4) (s : State) : (setCC v s).psd.ms = s.psd.ms := rfl
@[simp] theorem setCC_psd_mm (v : BitVec 4) (s : State) : (setCC v s).psd.mm = s.psd.mm := rfl
@[simp] theorem setCC_psd_dm (v : BitVec 4) (s : State) : (setCC v s).psd.dm = s.psd.dm := rfl
@[simp] theorem setCC_psd_am (v : BitVec 4) (s : State) : (setCC v s).psd.am = s.psd.am := rfl
@[simp] theorem setCC_psd_ansi (v : BitVec 4) (s : State) : (setCC v s).psd.ansi = s.psd.ansi := rfl
@[simp] theorem setCC_psd_ia (v : BitVec 4) (s : State) : (setCC v s).psd.ia = s.psd.ia := rfl
@[simp] theorem setCC_psd_wk (v : BitVec 4) (s : State) : (setCC v s).psd.wk = s.psd.wk := rfl
@[simp] theorem setCC_psd_ci (v : BitVec 4) (s : State) : (setCC v s).psd.ci = s.psd.ci := rfl
@[simp] theorem setCC_psd_ii (v : BitVec 4) (s : State) : (setCC v s).psd.ii = s.psd.ii := rfl
@[simp] theorem setCC_psd_ei (v : BitVec 4) (s : State) : (setCC v s).psd.ei = s.psd.ei := rfl
@[simp] theorem setCC_psd_ma (v : BitVec 4) (s : State) : (setCC v s).psd.ma = s.psd.ma := rfl
@[simp] theorem setCC_psd_ea (v : BitVec 4) (s : State) : (setCC v s).psd.ea = s.psd.ea := rfl
@[simp] theorem setCC_psd_rp (v : BitVec 4) (s : State) : (setCC v s).psd.rp = s.psd.rp := rfl
@[simp] theorem setCC1_psd_cc1 (a : Bool) (s : State) : (setCC1 a s).psd.cc1 = a := rfl
@[simp] theorem setCC1_psd_cc2 (a : Bool) (s : State) : (setCC1 a s).psd.cc2 = s.psd.cc2 := rfl
@[simp] theorem setCC1_psd_cc3 (a : Bool) (s : State) : (setCC1 a s).psd.cc3 = s.psd.cc3 := rfl
@[simp] theorem setCC1_psd_cc4 (a : Bool) (s : State) : (setCC1 a s).psd.cc4 = s.psd.cc4 := rfl
@[simp] theorem setCC1_psd_fs (a : Bool) (s : State) : (setCC1 a s).psd.fs = s.psd.fs := rfl
@[simp] theorem setCC1_psd_fz (a : Bool) (s : State) : (setCC1 a s).psd.fz = s.psd.fz := rfl
@[simp] theorem setCC1_psd_fn (a : Bool) (s : State) : (setCC1 a s).psd.fn = s.psd.fn := rfl
@[simp] theorem setCC1_psd_ms (a : Bool) (s : State) : (setCC1 a s).psd.ms = s.psd.ms := rfl
@[simp] theorem setCC1_psd_mm (a : Bool) (s : State) : (setCC1 a s).psd.mm = s.psd.mm := rfl
@[simp] theorem setCC1_psd_dm (a : Bool) (s : State) : (setCC1 a s).psd.dm = s.psd.dm := rfl
@[simp] theorem setCC1_psd_am (a : Bool) (s : State) : (setCC1 a s).psd.am = s.psd.am := rfl
@[simp] theorem setCC1_psd_ansi (a : Bool) (s : State) : (setCC1 a s).psd.ansi = s.psd.ansi := rfl
@[simp] theorem setCC1_psd_ia (a : Bool) (s : State) : (setCC1 a s).psd.ia = s.psd.ia := rfl
@[simp] theorem setCC1_psd_wk (a : Bool) (s : State) : (setCC1 a s).psd.wk = s.psd.wk := rfl
@[simp] theorem setCC1_psd_ci (a : Bool) (s : State) : (setCC1 a s).psd.ci = s.psd.ci := rfl
@[simp] theorem setCC1_psd_ii (a : Bool) (s : State) : (setCC1 a s).psd.ii = s.psd.ii := rfl
@[simp] theorem setCC1_psd_ei (a : Bool) (s : State) : (setCC1 a s).psd.ei = s.psd.ei := rfl
@[simp] theorem setCC1_psd_ma (a : Bool) (s : State) : (setCC1 a s).psd.ma = s.psd.ma := rfl
@[simp] theorem setCC1_psd_ea (a : Bool) (s : State) : (setCC1 a s).psd.ea = s.psd.ea := rfl
@[simp] theorem setCC1_psd_rp (a : Bool) (s : State) : (setCC1 a s).psd.rp = s.psd.rp := rfl
@[simp] theorem setCC2_psd_cc1 (a : Bool) (s : State) : (setCC2 a s).psd.cc1 = s.psd.cc1 := rfl
@[simp] theorem setCC2_psd_cc2 (a : Bool) (s : State) : (setCC2 a s).psd.cc2 = a := rfl
@[simp] theorem setCC2_psd_cc3 (a : Bool) (s : State) : (setCC2 a s).psd.cc3 = s.psd.cc3 := rfl
@[simp] theorem setCC2_psd_cc4 (a : Bool) (s : State) : (setCC2 a s).psd.cc4 = s.psd.cc4 := rfl
@[simp] theorem setCC2_psd_fs (a : Bool) (s : State) : (setCC2 a s).psd.fs = s.psd.fs := rfl
@[simp] theorem setCC2_psd_fz (a : Bool) (s : State) : (setCC2 a s).psd.fz = s.psd.fz := rfl
@[simp] theorem setCC2_psd_fn (a : Bool) (s : State) : (setCC2 a s).psd.fn = s.psd.fn := rfl
@[simp] theorem setCC2_psd_ms (a : Bool) (s : State) : (setCC2 a s).psd.ms = s.psd.ms := rfl
@[simp] theorem setCC2_psd_mm (a : Bool) (s : State) : (setCC2 a s).psd.mm = s.psd.mm := rfl
@[simp] theorem setCC2_psd_dm (a : Bool) (s : State) : (setCC2 a s).psd.dm = s.psd.dm := rfl
@[simp] theorem setCC2_psd_am (a : Bool) (s : State) : (setCC2 a s).psd.am = s.psd.am := rfl
@[simp] theorem setCC2_psd_ansi (a : Bool) (s : State) : (setCC2 a s).psd.ansi = s.psd.ansi := rfl
@[simp] theorem setCC2_psd_ia (a : Bool) (s : State) : (setCC2 a s).psd.ia = s.psd.ia := rfl
@[simp] theorem setCC2_psd_wk (a : Bool) (s : State) : (setCC2 a s).psd.wk = s.psd.wk := rfl
@[simp] theorem setCC2_psd_ci (a : Bool) (s : State) : (setCC2 a s).psd.ci = s.psd.ci := rfl
@[simp] theorem setCC2_psd_ii (a : Bool) (s : State) : (setCC2 a s).psd.ii = s.psd.ii := rfl
@[simp] theorem setCC2_psd_ei (a : Bool) (s : State) : (setCC2 a s).psd.ei = s.psd.ei := rfl
@[simp] theorem setCC2_psd_ma (a : Bool) (s : State) : (setCC2 a s).psd.ma = s.psd.ma := rfl
@[simp] theorem setCC2_psd_ea (a : Bool) (s : State) : (setCC2 a s).psd.ea = s.psd.ea := rfl
@[simp] theorem setCC2_psd_rp (a : Bool) (s : State) : (setCC2 a s).psd.rp = s.psd.rp := rfl
@[simp] theorem setCC3_psd_cc1 (a : Bool) (s : State) : (setCC3 a s).psd.cc1 = s.psd.cc1 := rfl
@[simp] theorem setCC3_psd_cc2 (a : Bool) (s : State) : (setCC3 a s).psd.cc2 = s.psd.cc2 := rfl
@[simp] theorem setCC3_psd_cc3 (a : Bool) (s : State) : (setCC3 a s).psd.cc3 = a := rfl
@[simp] theorem setCC3_psd_cc4 (a : Bool) (s : State) : (setCC3 a s).psd.cc4 = s.psd.cc4 := rfl
@[simp] theorem setCC3_psd_fs (a : Bool) (s : State) : (setCC3 a s).psd.fs = s.psd.fs := rfl
@[simp] theorem setCC3_psd_fz (a : Bool) (s : State) : (setCC3 a s).psd.fz = s.psd.fz := rfl
@[simp] theorem setCC3_psd_fn (a : Bool) (s : State) : (setCC3 a s).psd.fn = s.psd.fn := rfl
@[simp] theorem setCC3_psd_ms (a : Bool) (s : State) : (setCC3 a s).psd.ms = s.psd.ms := rfl
@[simp] theorem setCC3_psd_mm (a : Bool) (s : State) : (setCC3 a s).psd.mm = s.psd.mm := rfl
@[simp] theorem setCC3_psd_dm (a : Bool) (s : State) : (setCC3 a s).psd.dm = s.psd.dm := rfl
@[simp] theorem setCC3_psd_am (a : Bool) (s : State) : (setCC3 a s).psd.am = s.psd.am := rfl
@[simp] theorem setCC3_psd_ansi (a : Bool) (s : State) : (setCC3 a s).psd.ansi = s.psd.ansi := rfl
@[simp] theorem setCC3_psd_ia (a : Bool) (s : State) : (setCC3 a s).psd.ia = s.psd.ia := rfl
@[simp] theorem setCC3_psd_wk (a : Bool) (s : State) : (setCC3 a s).psd.wk = s.psd.wk := rfl
@[simp] theorem setCC3_psd_ci (a : Bool) (s : State) : (setCC3 a s).psd.ci = s.psd.ci := rfl
@[simp] theorem setCC3_psd_ii (a : Bool) (s : State) : (setCC3 a s).psd.ii = s.psd.ii := rfl
@[simp] theorem setCC3_psd_ei (a : Bool) (s : State) : (setCC3 a s).psd.ei = s.psd.ei := rfl
@[simp] theorem setCC3_psd_ma (a : Bool) (s : State) : (setCC3 a s).psd.ma = s.psd.ma := rfl
@[simp] theorem setCC3_psd_ea (a : Bool) (s : State) : (setCC3 a s).psd.ea = s.psd.ea := rfl
@[simp] theorem setCC3_psd_rp (a : Bool) (s : State) : (setCC3 a s).psd.rp = s.psd.rp := rfl
@[simp] theorem setCC4_psd_cc1 (a : Bool) (s : State) : (setCC4 a s).psd.cc1 = s.psd.cc1 := rfl
@[simp] theorem setCC4_psd_cc2 (a : Bool) (s : State) : (setCC4 a s).psd.cc2 = s.psd.cc2 := rfl
@[simp] theorem setCC4_psd_cc3 (a : Bool) (s : State) : (setCC4 a s).psd.cc3 = s.psd.cc3 := rfl
@[simp] theorem setCC4_psd_cc4 (a : Bool) (s : State) : (setCC4 a s).psd.cc4 = a := rfl
@[simp] theorem setCC4_psd_fs (a : Bool) (s : State) : (setCC4 a s).psd.fs = s.psd.fs := rfl
@[simp] theorem setCC4_psd_fz (a : Bool) (s : State) : (setCC4 a s).psd.fz = s.psd.fz := rfl
@[simp] theorem setCC4_psd_fn (a : Bool) (s : State) : (setCC4 a s).psd.fn = s.psd.fn := rfl
@[simp] theorem setCC4_psd_ms (a : Bool) (s : State) : (setCC4 a s).psd.ms = s.psd.ms := rfl
@[simp] theorem setCC4_psd_mm (a : Bool) (s : State) : (setCC4 a s).psd.mm = s.psd.mm := rfl
@[simp] theorem setCC4_psd_dm (a : Bool) (s : State) : (setCC4 a s).psd.dm = s.psd.dm := rfl
@[simp] theorem setCC4_psd_am (a : Bool) (s : State) : (setCC4 a s).psd.am = s.psd.am := rfl
@[simp] theorem setCC4_psd_ansi (a : Bool) (s : State) : (setCC4 a s).psd.ansi = s.psd.ansi := rfl
@[simp] theorem setCC4_psd_ia (a : Bool) (s : State) : (setCC4 a s).psd.ia = s.psd.ia := rfl
@[simp] theorem setCC4_psd_wk (a : Bool) (s : State) : (setCC4 a s).psd.wk = s.psd.wk := rfl
@[simp] theorem setCC4_psd_ci (a : Bool) (s : State) : (setCC4 a s).psd.ci = s.psd.ci := rfl
@[simp] theorem setCC4_psd_ii (a : Bool) (s : State) : (setCC4 a s).psd.ii = s.psd.ii := rfl
@[simp] theorem setCC4_psd_ei (a : Bool) (s : State) : (setCC4 a s).psd.ei = s.psd.ei := rfl
@[simp] theorem setCC4_psd_ma (a : Bool) (s : State) : (setCC4 a s).psd.ma = s.psd.ma := rfl
@[simp] theorem setCC4_psd_ea (a : Bool) (s : State) : (setCC4 a s).psd.ea = s.psd.ea := rfl
@[simp] theorem setCC4_psd_rp (a : Bool) (s : State) : (setCC4 a s).psd.rp = s.psd.rp := rfl
@[simp] theorem setCC12_psd_cc1 (a b : Bool) (s : State) : (setCC12 a b s).psd.cc1 = a := rfl
@[simp] theorem setCC12_psd_cc2 (a b : Bool) (s : State) : (setCC12 a b s).psd.cc2 = b := rfl
@[simp] theorem setCC12_psd_cc3 (a b : Bool) (s : State) : (setCC12 a b s).psd.cc3 = s.psd.cc3 := rfl
@[simp] theorem setCC12_psd_cc4 (a b : Bool) (s : State) : (setCC12 a b s).psd.cc4 = s.psd.cc4 := rfl
@[simp] theorem setCC12_psd_fs (a b : Bool) (s : State) : (setCC12 a b s).psd.fs = s.psd.fs := rfl
@[simp] theorem setCC12_psd_fz (a b : Bool) (s : State) : (setCC12 a b s).psd.fz = s.psd.fz := rfl
@[simp] theorem setCC12_psd_fn (a b : Bool) (s : State) : (setCC12 a b s).psd.fn = s.psd.fn := rfl
@[simp] theorem setCC12_psd_ms (a b : Bool) (s : State) : (setCC12 a b s).psd.ms = s.psd.ms := rfl
@[simp] theorem setCC12_psd_mm (a b : Bool) (s : State) : (setCC12 a b s).psd.mm = s.psd.mm := rfl
@[simp] theorem setCC12_psd_dm (a b : Bool) (s : State) : (setCC12 a b s).psd.dm = s.psd.dm := rfl
@[simp] theorem setCC12_psd_am (a b : Bool) (s : State) : (setCC12 a b s).psd.am = s.psd.am := rfl
@[simp] theorem setCC12_psd_ansi (a b : Bool) (s : State) : (setCC12 a b s).psd.ansi = s.psd.ansi := rfl
@[simp] theorem setCC12_psd_ia (a b : Bool) (s : State) : (setCC12 a b s).psd.ia = s.psd.ia := rfl
@[simp] theorem setCC12_psd_wk (a b : Bool) (s : State) : (setCC12 a b s).psd.wk = s.psd.wk := rfl
@[simp] theorem setCC12_psd_ci (a b : Bool) (s : State) : (setCC12 a b s).psd.ci = s.psd.ci := rfl
@[simp] theorem setCC12_psd_ii (a b : Bool) (s : State) : (setCC12 a b s).psd.ii = s.psd.ii := rfl
@[simp] theorem setCC12_psd_ei (a b : Bool) (s : State) : (setCC12 a b s).psd.ei = s.psd.ei := rfl
@[simp] theorem setCC12_psd_ma (a b : Bool) (s : State) : (setCC12 a b s).psd.ma = s.psd.ma := rfl
@[simp] theorem setCC12_psd_ea (a b : Bool) (s : State) : (setCC12 a b s).psd.ea = s.psd.ea := rfl
@[simp] theorem setCC12_psd_rp (a b : Bool) (s : State) : (setCC12 a b s).psd.rp = s.psd.rp := rfl
@[simp] theorem setCC34_psd_cc1 (a b : Bool) (s : State) : (setCC34 a b s).psd.cc1 = s.psd.cc1 := rfl
@[simp] theorem setCC34_psd_cc2 (a b : Bool) (s : State) : (setCC34 a b s).psd.cc2 = s.psd.cc2 := rfl
@[simp] theorem setCC34_psd_cc3 (a b : Bool) (s : State) : (setCC34 a b s).psd.cc3 = a := rfl
@[simp] theorem setCC34_psd_cc4 (a b : Bool) (s : State) : (setCC34 a b s).psd.cc4 = b := rfl
@[simp] theorem setCC34_psd_fs (a b : Bool) (s : State) : (setCC34 a b s).psd.fs = s.psd.fs := rfl
@[simp] theorem setCC34_psd_fz (a b : Bool) (s : State) : (setCC34 a b s).psd.fz = s.psd.fz := rfl
@[simp] theorem setCC34_psd_fn (a b : Bool) (s : State) : (setCC34 a b s).psd.fn = s.psd.fn := rfl
@[simp] theorem setCC34_psd_ms (a b : Bool) (s : State) : (setCC34 a b s).psd.ms = s.psd.ms := rfl
@[simp] theorem setCC34_psd_mm (a b : Bool) (s : State) : (setCC34 a b s).psd.mm = s.psd.mm := rfl
@[simp] theorem setCC34_psd_dm (a b : Bool) (s : State) : (setCC34 a b s).psd.dm = s.psd.dm := rfl
@[simp] theorem setCC34_psd_am (a b : Bool) (s : State) : (setCC34 a b s).psd.am = s.psd.am := rfl
@[simp] theorem setCC34_psd_ansi (a b : Bool) (s : State) : (setCC34 a b s).psd.ansi = s.psd.ansi := rfl
@[simp] theorem setCC34_psd_ia (a b : Bool) (s : State) : (setCC34 a b s).psd.ia = s.psd.ia := rfl
@[simp] theorem setCC34_psd_wk (a b : Bool) (s : State) : (setCC34 a b s).psd.wk = s.psd.wk := rfl
@[simp] theorem setCC34_psd_ci (a b : Bool) (s : State) : (setCC34 a b s).psd.ci = s.psd.ci := rfl
@[simp] theorem setCC34_psd_ii (a b : Bool) (s : State) : (setCC34 a b s).psd.ii = s.psd.ii := rfl
@[simp] theorem setCC34_psd_ei (a b : Bool) (s : State) : (setCC34 a b s).psd.ei = s.psd.ei := rfl
@[simp] theorem setCC34_psd_ma (a b : Bool) (s : State) : (setCC34 a b s).psd.ma = s.psd.ma := rfl
@[simp] theorem setCC34_psd_ea (a b : Bool) (s : State) : (setCC34 a b s).psd.ea = s.psd.ea := rfl
@[simp] theorem setCC34_psd_rp (a b : Bool) (s : State) : (setCC34 a b s).psd.rp = s.psd.rp := rfl
@[simp] theorem setCC123_psd_cc1 (a b c : Bool) (s : State) : (setCC123 a b c s).psd.cc1 = a := rfl
@[simp] theorem setCC123_psd_cc2 (a b c : Bool) (s : State) : (setCC123 a b c s).psd.cc2 = b := rfl
@[simp] theorem setCC123_psd_cc3 (a b c : Bool) (s : State) : (setCC123 a b c s).psd.cc3 = c := rfl
@[simp] theorem setCC123_psd_cc4 (a b c : Bool) (s : State) : (setCC123 a b c s).psd.cc4 = s.psd.cc4 := rfl
@[simp] theorem setCC123_psd_fs (a b c : Bool) (s : State) : (setCC123 a b c s).psd.fs = s.psd.fs := rfl
@[simp] theorem setCC123_psd_fz (a b c : Bool) (s : State) : (setCC123 a b c s).psd.fz = s.psd.fz := rfl
@[simp] theorem setCC123_psd_fn (a b c : Bool) (s : State) : (setCC123 a b c s).psd.fn = s.psd.fn := rfl
@[simp] theorem setCC123_psd_ms (a b c : Bool) (s : State) : (setCC123 a b c s).psd.ms = s.psd.ms := rfl
@[simp] theorem setCC123_psd_mm (a b c : Bool) (s : State) : (setCC123 a b c s).psd.mm = s.psd.mm := rfl
@[simp] theorem setCC123_psd_dm (a b c : Bool) (s : State) : (setCC123 a b c s).psd.dm = s.psd.dm := rfl
@[simp] theorem setCC123_psd_am (a b c : Bool) (s : State) : (setCC123 a b c s).psd.am = s.psd.am := rfl
@[simp] theorem setCC123_psd_ansi (a b c : Bool) (s : State) : (setCC123 a b c s).psd.ansi = s.psd.ansi := rfl
@[simp] theorem setCC123_psd_ia (a b c : Bool) (s : State) : (setCC123 a b c s).psd.ia = s.psd.ia := rfl
@[simp] theorem setCC123_psd_wk (a b c : Bool) (s : State) : (setCC123 a b c s).psd.wk = s.psd.wk := rfl
@[simp] theorem setCC123_psd_ci (a b c : Bool) (s : State) : (setCC123 a b c s).psd.ci = s.psd.ci := rfl
@[simp] theorem setCC123_psd_ii (a b c : Bool) (s : State) : (setCC123 a b c s).psd.ii = s.psd.ii := rfl
@[simp] theorem setCC123_psd_ei (a b c : Bool) (s : State) : (setCC123 a b c s).psd.ei = s.psd.ei := rfl
@[simp] theorem setCC123_psd_ma (a b c : Bool) (s : State) : (setCC123 a b c s).psd.ma = s.psd.ma := rfl
@[simp] theorem setCC123_psd_ea (a b c : Bool) (s : State) : (setCC123 a b c s).psd.ea = s.psd.ea := rfl
@[simp] theorem setCC123_psd_rp (a b c : Bool) (s : State) : (setCC123 a b c s).psd.rp = s.psd.rp := rfl

/-! ### writeLoc -/

@[simp] theorem writeLoc_inst (l : Loc) (w : Word) (s : State) : (writeLoc l w s).inst = s.inst := by cases l <;> rfl
@[simp] theorem writeLoc_psd (l : Loc) (w : Word) (s : State) : (writeLoc l w s).psd = s.psd := by cases l <;> rfl
@[simp] theorem writeLoc_map (l : Loc) (w : Word) (s : State) : (writeLoc l w s).map = s.map := by cases l <;> rfl
@[simp] theorem writeLoc_acc (l : Loc) (w : Word) (s : State) : (writeLoc l w s).acc = s.acc := by cases l <;> rfl
@[simp] theorem writeLoc_lock (l : Loc) (w : Word) (s : State) : (writeLoc l w s).lock = s.lock := by cases l <;> rfl
@[simp] theorem writeLoc_banks (l : Loc) (w : Word) (s : State) : (writeLoc l w s).banks = s.banks := by cases l <;> rfl
@[simp] theorem writeLoc_ints (l : Loc) (w : Word) (s : State) : (writeLoc l w s).ints = s.ints := by cases l <;> rfl
@[simp] theorem writeLoc_pdf (l : Loc) (w : Word) (s : State) : (writeLoc l w s).pdf = s.pdf := by cases l <;> rfl
@[simp] theorem writeLoc_faultStatus (l : Loc) (w : Word) (s : State) : (writeLoc l w s).faultStatus = s.faultStatus := by cases l <;> rfl
@[simp] theorem writeLoc_pfiGenerated (l : Loc) (w : Word) (s : State) : (writeLoc l w s).pfiGenerated = s.pfiGenerated := by cases l <;> rfl
@[simp] theorem writeLoc_tcc (l : Loc) (w : Word) (s : State) : (writeLoc l w s).tcc = s.tcc := by cases l <;> rfl
@[simp] theorem writeLoc_snapControl (l : Loc) (w : Word) (s : State) : (writeLoc l w s).snapControl = s.snapControl := by cases l <;> rfl
@[simp] theorem writeLoc_snapSample (l : Loc) (w : Word) (s : State) : (writeLoc l w s).snapSample = s.snapSample := by cases l <;> rfl
@[simp] theorem writeLoc_snapArmed (l : Loc) (w : Word) (s : State) : (writeLoc l w s).snapArmed = s.snapArmed := by cases l <;> rfl
@[simp] theorem writeLoc_alarm (l : Loc) (w : Word) (s : State) : (writeLoc l w s).alarm = s.alarm := by cases l <;> rfl
@[simp] theorem writeLoc_pcf (l : Loc) (w : Word) (s : State) : (writeLoc l w s).pcf = s.pcf := by cases l <;> rfl
@[simp] theorem writeLoc_clockMargin (l : Loc) (w : Word) (s : State) : (writeLoc l w s).clockMargin = s.clockMargin := by cases l <;> rfl
@[simp] theorem writeLoc_compute (l : Loc) (w : Word) (s : State) : (writeLoc l w s).compute = s.compute := by cases l <;> rfl
@[simp] theorem writeLoc_halt (l : Loc) (w : Word) (s : State) : (writeLoc l w s).halt = s.halt := by cases l <;> rfl
@[simp] theorem writeLoc_ioLine (l : Loc) (w : Word) (s : State) : (writeLoc l w s).ioLine = s.ioLine := by cases l <;> rfl
@[simp] theorem writeLoc_stopSwitches (l : Loc) (w : Word) (s : State) : (writeLoc l w s).stopSwitches = s.stopSwitches := by cases l <;> rfl
@[simp] theorem writeLoc_ioRequest (l : Loc) (w : Word) (s : State) : (writeLoc l w s).ioRequest = s.ioRequest := by cases l <;> rfl
@[simp] theorem writeLoc_dioRequest (l : Loc) (w : Word) (s : State) : (writeLoc l w s).dioRequest = s.dioRequest := by cases l <;> rfl
@[simp] theorem writeLoc_stoppedAt (l : Loc) (w : Word) (s : State) : (writeLoc l w s).stoppedAt = s.stoppedAt := by cases l <;> rfl
@[simp] theorem writeLoc_pend (l : Loc) (w : Word) (s : State) : (writeLoc l w s).pend = s.pend := by cases l <;> rfl
@[simp] theorem writeLoc_jumped (l : Loc) (w : Word) (s : State) : (writeLoc l w s).jumped = s.jumped := by cases l <;> rfl
@[simp] theorem writeLoc_completed (l : Loc) (w : Word) (s : State) : (writeLoc l w s).completed = s.completed := by cases l <;> rfl
@[simp] theorem writeLoc_stale (l : Loc) (w : Word) (s : State) : (writeLoc l w s).stale = s.stale := by cases l <;> rfl
@[simp] theorem writeLoc_free (l : Loc) (w : Word) (s : State) : (writeLoc l w s).free = s.free := by cases l <;> rfl
@[simp] theorem writeLoc_inputs (l : Loc) (w : Word) (s : State) : (writeLoc l w s).inputs = s.inputs := by cases l <;> rfl
@[simp] theorem writeLoc_ioScript (l : Loc) (w : Word) (s : State) : (writeLoc l w s).ioScript = s.ioScript := by cases l <;> rfl
@[simp] theorem writeLoc_dioScript (l : Loc) (w : Word) (s : State) : (writeLoc l w s).dioScript = s.dioScript := by cases l <;> rfl

end Sys2Proof.Laws
end

