-- ==== Sys2Proof/Laws/Act.lean ====
section
/-! SUPPORT. How a meaning composed of parts runs, what each shared operation can do, and the properties that a
composed meaning keeps. -/

namespace Sys2Proof.Laws

open Sys2Proof Sys2Proof.Machine

/-! ### Running a part -/

@[simp] theorem pure_apply {α : Type} (a : α) (s : State) : (pure a : Act α) s = .ok a s := rfl

@[simp] theorem look_apply {α : Type} (f : State → α) (s : State) : look f s = .ok (f s) s := rfl

@[simp] theorem change_apply (f : State → State) (s : State) : change f s = .ok () (f s) := rfl

@[simp] theorem done_apply (s : State) : done s = .ok () (advance s) := rfl

@[simp] theorem raise_apply {α : Type} (t : Trap) (s : State) : (raise t : Act α) s = .error (.trap t) s := rfl

@[simp] theorem stopWith_apply {α : Type} (f : Fault) (s : State) : (stopWith f : Act α) s = .error (.fault f) s := rfl

@[simp] theorem draw_apply (w : Nat) (s : State) :
    draw w s = .ok (Config.freeValue w s.free) { s with free := s.free + 1 } := rfl

theorem bind_apply {α β : Type} (a : Act α) (f : α → Act β) (s : State) :
    (a >>= f) s = match a s with
      | .ok x s' => f x s'
      | .error e s' => .error e s' := by
  show EStateM.bind a f s = _
  unfold EStateM.bind
  cases a s <;> rfl

@[simp] theorem bind_look {α β : Type} (g : State → α) (f : α → Act β) (s : State) :
    (look g >>= f) s = f (g s) s := rfl

@[simp] theorem bind_change {β : Type} (g : State → State) (f : Unit → Act β) (s : State) :
    (change g >>= f) s = f () (g s) := rfl

@[simp] theorem bind_pure_left {α β : Type} (a : α) (f : α → Act β) (s : State) :
    ((pure a : Act α) >>= f) s = f a s := rfl

theorem bind_ok {α β : Type} {a : Act α} {x : α} {s s' : State} (h : a s = .ok x s') (f : α → Act β) :
    (a >>= f) s = f x s' := by
  rw [bind_apply, h]

theorem bind_error {α β : Type} {a : Act α} {e : Stop} {s s' : State} (h : a s = .error e s') (f : α → Act β) :
    (a >>= f) s = .error e s' := by
  rw [bind_apply, h]

/-- A composed part that ends well has two parts that end well. -/
theorem bind_ok_cases {α β : Type} {a : Act α} {f : α → Act β} {y : β} {s t : State}
    (h : (a >>= f) s = .ok y t) : ∃ x s', a s = .ok x s' ∧ f x s' = .ok y t := by
  rw [bind_apply] at h
  split at h
  · exact ⟨_, _, by assumption, h⟩
  · cases h

theorem need_ok {α : Type} {f : State → Except Trap α} {s : State} {a : α} (h : f s = .ok a) :
    need f s = .ok a s := by
  simp [need, h]

theorem need_error {α : Type} {f : State → Except Trap α} {s : State} {t : Trap} (h : f s = .error t) :
    need f s = .error (.trap t) s := by
  simp [need, h]

/-- Computing a value changes nothing. -/
theorem need_ok_cases {α : Type} {f : State → Except Trap α} {s s' : State} {a : α} (h : need f s = .ok a s') :
    f s = .ok a ∧ s' = s := by
  unfold need at h
  split at h
  · cases h; exact ⟨by assumption, rfl⟩
  · cases h

theorem commit_ok {f : State → Except Trap State} {s s' : State} (h : f s = .ok s') : commit f s = .ok () s' := by
  simp [commit, h]

theorem commit_error {f : State → Except Trap State} {s : State} {t : Trap} (h : f s = .error t) :
    commit f s = .error (.trap t) s := by
  simp [commit, h]

theorem commit_ok_cases {f : State → Except Trap State} {s s' : State} (h : commit f s = .ok () s') :
    f s = .ok s' := by
  unfold commit at h
  split at h
  · cases h; assumption
  · cases h

theorem attempt_ok {f : State → Except (Trap × State) State} {s s' : State} (h : f s = .ok s') :
    attempt f s = .ok () s' := by
  simp [attempt, h]

theorem attempt_error {f : State → Except (Trap × State) State} {s s' : State} {t : Trap} (h : f s = .error (t, s')) :
    attempt f s = .error (.trap t) s' := by
  simp [attempt, h]

theorem altering_ok {α : Type} {a : Act α} {x : α} {s s' : State} (h : a s = .ok x s') :
    altering a s = .ok x s' := by
  simp [altering, h]

theorem onceAltered_ok {α : Type} {a : Act α} {x : α} {s s' : State} (b : Bool) (h : a s = .ok x s') :
    onceAltered b a s = .ok x s' := by
  cases b
  · exact h
  · exact altering_ok h

theorem altering_ok_cases {α : Type} {a : Act α} {x : α} {s s' : State} (h : altering a s = .ok x s') :
    a s = .ok x s' := by
  unfold altering at h
  split at h
  · cases h
  · exact h

theorem requireMaster_ok {s : State} (h : s.psd.ms = false) : requireMaster s = .ok () s := by
  simp [requireMaster, h]

theorem requireMaster_slave {s : State} (h : s.psd.ms = true) :
    requireMaster s = .error (.trap { loc := 0x40#8, tcc := 0b0010#4 }) s := by
  simp [requireMaster, h]

theorem requireEven_ok {r : BitVec 4} {s : State} (h : oddR r = false) : requireEven r s = .ok () s := by
  simp [requireEven, h]

theorem requireEven_odd {r : BitVec 4} {s : State} (h : oddR r = true) :
    requireEven r s = .error (.trap registerTrap) s := by
  simp [requireEven, h]

theorem requireDecimal_ok {s : State} (hm : s.inst.model ≠ .model3) (hd : s.inst.decimalUnit = .present) :
    requireDecimal s = .ok () s := by
  simp [requireDecimal, hm, hd]

theorem requireByteString_ok {s : State} (hm : s.inst.model ≠ .model3) : requireByteString s = .ok () s := by
  simp [requireByteString, hm]

/-- Completion, and the overflow trap of a completed instruction (R656). -/
theorem doneWithOverflow_apply (s : State) :
    doneWithOverflow s =
      if s.psd.cc2 && s.psd.am then .error (.trap { loc := 0x43#8 }) (advance s) else .ok () (advance s) := rfl

theorem doneWithOverflow_ok {s : State} (h : s.psd.cc2 = false ∨ s.psd.am = false) :
    doneWithOverflow s = .ok () (advance s) := by
  rcases h with h | h <;> simp [doneWithOverflow_apply, h]

/-! ### Outcomes -/

theorem run_ok {a : Act Unit} {s s' : State} (h : a s = .ok () s') : run a s = .next s' := by
  simp [run, h]

theorem run_trap {a : Act Unit} {t : Trap} {s s' : State} (h : a s = .error (.trap t) s') :
    run a s = .next (enterTrap t s') := by
  simp [run, h]

theorem run_fault {a : Act Unit} {f : Fault} {s s' : State} (h : a s = .error (.fault f) s') :
    run a s = .fault f := by
  simp [run, h]

/-- What a meaning that answers a next state did: it ended well, or a trap was taken from the state it left. -/
theorem run_next {a : Act Unit} {s t : State} (h : run a s = .next t) :
    a s = .ok () t ∨ ∃ x s', a s = .error (.trap x) s' ∧ t = enterTrap x s' := by
  unfold run at h
  split at h
  · rename_i u s' e; cases h; cases u; exact .inl e
  · rename_i x s' e; cases h; exact .inr ⟨x, s', e, rfl⟩
  · cases h

/-! ### Properties that a part keeps -/

/-- The state that a part leaves, ended well or stopped. -/
def left {α : Type} : EStateM.Result Stop State α → State
  | .ok _ s => s
  | .error _ s => s

/-- The part keeps a property of the state, however it ends. -/
def Keeps {α : Type} (P : State → Prop) (a : Act α) : Prop := ∀ s, P s → P (left (a s))

theorem keeps_pure {α : Type} (P : State → Prop) (a : α) : Keeps P (pure a : Act α) := fun _ h => h

theorem keeps_look {α : Type} (P : State → Prop) (f : State → α) : Keeps P (look f) := fun _ h => h

theorem keeps_need {α : Type} (P : State → Prop) (f : State → Except Trap α) : Keeps P (need f) := by
  intro s h
  unfold need
  split <;> exact h

theorem keeps_raise {α : Type} (P : State → Prop) (t : Trap) : Keeps P (raise t : Act α) := fun _ h => h

theorem keeps_stopWith {α : Type} (P : State → Prop) (f : Fault) : Keeps P (stopWith f : Act α) := fun _ h => h

theorem keeps_change {P : State → Prop} {f : State → State} (hf : ∀ s, P s → P (f s)) : Keeps P (change f) :=
  fun s h => hf s h

theorem keeps_commit {P : State → Prop} {f : State → Except Trap State}
    (hf : ∀ s s', P s → f s = .ok s' → P s') : Keeps P (commit f) := by
  intro s h
  unfold commit
  split
  · exact hf _ _ h (by assumption)
  · exact h

theorem keeps_attempt {P : State → Prop} {f : State → Except (Trap × State) State}
    (hf : ∀ s s', P s → f s = .ok s' → P s') (he : ∀ s t s', P s → f s = .error (t, s') → P s') :
    Keeps P (attempt f) := by
  intro s h
  unfold attempt
  split
  · exact hf _ _ h (by assumption)
  · exact he _ _ _ h (by assumption)

theorem keeps_bind {α β : Type} {P : State → Prop} {a : Act α} {f : α → Act β} (ha : Keeps P a)
    (hf : ∀ x, Keeps P (f x)) : Keeps P (a >>= f) := by
  intro s h
  have h1 := ha s h
  rw [bind_apply]
  split
  · rename_i x s' e
    rw [e] at h1
    exact hf x s' h1
  · rename_i x s' e
    rw [e] at h1
    exact h1

theorem keeps_altering {α : Type} {P : State → Prop} {a : Act α} (ha : Keeps P a) : Keeps P (altering a) := by
  intro s h
  have h1 := ha s h
  unfold altering
  split
  · rename_i t s' e
    rw [e] at h1
    exact h1
  · exact h1

theorem keeps_onceAltered {α : Type} {P : State → Prop} {a : Act α} (b : Bool) (ha : Keeps P a) :
    Keeps P (onceAltered b a) := by
  cases b
  · exact ha
  · exact keeps_altering ha

theorem keeps_ite {α : Type} {P : State → Prop} {c : Prop} [Decidable c] {a b : Act α} (ha : Keeps P a)
    (hb : Keeps P b) : Keeps P (if c then a else b) := by
  split
  · exact ha
  · exact hb

theorem keeps_draw {P : State → Prop} (hP : ∀ s n, P s → P { s with free := n }) (w : Nat) : Keeps P (draw w) :=
  fun s h => hP s _ h

theorem keeps_done {P : State → Prop} (hP : ∀ s, P s → P (advance s)) : Keeps P done := keeps_change hP

theorem keeps_doneWithOverflow {P : State → Prop} (hP : ∀ s, P s → P (advance s)) : Keeps P doneWithOverflow := by
  intro s h
  have h1 := hP s h
  rw [doneWithOverflow_apply]
  split <;> exact h1

theorem keeps_requireMaster (P : State → Prop) : Keeps P requireMaster := by
  intro s h
  unfold requireMaster
  split <;> exact h

theorem keeps_requireEven (P : State → Prop) (r : BitVec 4) : Keeps P (requireEven r) := by
  intro s h
  unfold requireEven
  split <;> exact h

theorem keeps_requireDecimal (P : State → Prop) : Keeps P requireDecimal := by
  intro s h
  unfold requireDecimal
  repeat' split
  all_goals exact h

theorem keeps_requireByteString (P : State → Prop) : Keeps P requireByteString := by
  intro s h
  unfold requireByteString
  split <;> exact h

/-- The free values of an overlap change registers and the counter of free values only (U1, U2). -/
theorem keeps_freeOverlap {P : State → Prop} (hr : ∀ s n w, P s → P (setReg n w s))
    (hf : ∀ s n, P s → P { s with free := n }) (v : WordAddr) (r : BitVec 4) (n : Nat) :
    ∀ k, Keeps P (freeOverlap v r n k)
  | 0 => keeps_pure P ()
  | k + 1 => by
    unfold freeOverlap
    refine keeps_bind (keeps_freeOverlap hr hf v r n k) fun _ => keeps_bind (keeps_look P _) fun b => ?_
    split
    · exact keeps_bind (keeps_draw hf 32) fun w => keeps_change fun s h => hr s _ w h
    · exact keeps_pure P ()

/-- A meaning that answers a next state keeps a property that its parts keep and that taking a trap keeps. -/
theorem run_keeps {P : State → Prop} {a : Act Unit} {s t : State} (ha : Keeps P a)
    (ht : ∀ x s, P s → P (enterTrap x s)) (hs : P s) (h : run a s = .next t) : P t := by
  have h1 := ha s hs
  rcases run_next h with e | ⟨x, s', e, rfl⟩
  · rw [e] at h1
    exact h1
  · rw [e] at h1
    exact ht x s' h1

end Sys2Proof.Laws
end

