-- ==== Sys2Proof/Laws/Entry.lean ====
section
/-! SUPPORT. What exchanging the PSD, taking a trap and taking an interrupt can do. -/

namespace Sys2Proof.Laws

open Sys2Proof Sys2Proof.Machine

/-- A composed computation that succeeds has two parts that succeed. -/
theorem except_bind_ok {ε α β : Type} {x : Except ε α} {f : α → Except ε β} {b : β} (h : (x >>= f) = .ok b) :
    ∃ a, x = .ok a ∧ f a = .ok b := by
  cases x with
  | error e => cases h
  | ok a => exact ⟨a, rfl, h⟩

/-- The places of an exchange are those of four tested accesses (R523). -/
theorem exchangePlaces_cases {s : State} {a : Via} {l0 l1 l2 l3 : Loc}
    (h : exchangePlaces s a = .ok (l0, l1, l2, l3)) :
    locateVia s .write a = .ok l0 ∧ locateVia s .write (a.add s 1) = .ok l1 ∧
      locateVia s .read (a.add s 2) = .ok l2 ∧ locateVia s .read (a.add s 3) = .ok l3 := by
  unfold exchangePlaces at h
  obtain ⟨x0, h0, h⟩ := except_bind_ok h
  obtain ⟨x1, h1, h⟩ := except_bind_ok h
  obtain ⟨x2, h2, h⟩ := except_bind_ok h
  obtain ⟨x3, h3, h⟩ := except_bind_ok h
  cases h
  exact ⟨h0, h1, h2, h3⟩

theorem readTwo_cases {s : State} {l2 l3 : Loc} {n1 n2 : Word} (h : readTwo s l2 l3 = .ok (n1, n2)) :
    readLoc s l2 = .ok n1 ∧ readLoc s l3 = .ok n2 := by
  unfold readTwo at h
  obtain ⟨x, hx, h⟩ := except_bind_ok h
  obtain ⟨y, hy, h⟩ := except_bind_ok h
  cases h
  exact ⟨hx, hy⟩

/-- The old PSD stored in an exchange, even word first (R523). -/
def psdStored (s : State) (old : Psd) (tsf : BitVec 8) (ra : Bool) (l0 l1 : Loc) : State :=
  writeLoc l1 (psdWord2 old tsf ra) (writeLoc l0 (psdWord1 old) s)

/-- The new PSD is read as if the old one had not been stored, when their places differ. -/
theorem readTwo_psdStored {l0 l1 l2 l3 : Loc} (h20 : l2 ≠ l0) (h21 : l2 ≠ l1) (h30 : l3 ≠ l0) (h31 : l3 ≠ l1)
    (s : State) (old : Psd) (tsf : BitVec 8) (ra : Bool) :
    readTwo (psdStored s old tsf ra l0 l1) l2 l3 = readTwo s l2 l3 := by
  simp only [readTwo, psdStored, readLoc_writeLoc_ne h20, readLoc_writeLoc_ne h21, readLoc_writeLoc_ne h30,
    readLoc_writeLoc_ne h31]

/-- What an exchange that succeeds did: four accesses tested, two stores, two reads, the pointer test and the new PSD
(R523). -/
theorem exchangePsd_cases {s s' : State} {old : Psd} {a : Via} {lp ra : Bool} {e : Option (BitVec 8)} {tsf : BitVec 8}
    (h : exchangePsd s old a lp e tsf ra = .ok s') :
    ∃ l0 l1 l2 l3 n1 n2, exchangePlaces s a = .ok (l0, l1, l2, l3) ∧
      readTwo (psdStored s old tsf ra l0 l1) l2 l3 = .ok (n1, n2) ∧
      ¬ (lp = true ∧ rpInvalid s (field n2 24 27) = true) ∧
      s' = { psdStored s old tsf ra l0 l1 with psd := exchangedPsd s.psd n1 n2 lp, jumped := true } := by
  unfold exchangePsd at h
  split at h
  · cases h
  · rename_i l0 l1 l2 l3 hp
    dsimp only at h
    split at h
    · cases h
    · rename_i n1 n2 hr
      split at h
      · cases h
      · rename_i hc
        cases h
        exact ⟨l0, l1, l2, l3, n1, n2, hp, hr, by simpa using hc, rfl⟩

/-- What an exchange that traps leaves: the state as it was, or the old PSD stored (R523, D9). -/
theorem exchangePsd_error_cases {s s' : State} {old : Psd} {a : Via} {lp ra : Bool} {e : Option (BitVec 8)}
    {tsf : BitVec 8} {t : Trap} (h : exchangePsd s old a lp e tsf ra = .error (t, s')) :
    s' = s ∨ ∃ l0 l1, s' = psdStored s old tsf ra l0 l1 := by
  unfold exchangePsd at h
  split at h
  · cases h; exact .inl rfl
  · rename_i l0 l1 l2 l3 hp
    dsimp only at h
    split at h
    · cases h; exact .inr ⟨l0, l1, rfl⟩
    · split at h
      · cases h; exact .inl rfl
      · cases h

/-- The XPSD of an entry sequence that succeeds is an exchange. -/
theorem entryXpsd_cases {s s' : State} {loc : WordAddr} {w : Word} {tsf : BitVec 8} {ra : Bool}
    (h : entryXpsd s loc w tsf ra = .ok s') :
    ∃ a, entryAddress s w = .ok a ∧ exchangePsd s s.psd a (bit w 8) (some (loc.extractLsb' 0 8)) tsf ra = .ok s' := by
  unfold entryXpsd at h
  split at h
  · cases h
  · rename_i a ha
    split at h
    · cases h
    · rename_i s1 hs
      cases h
      exact ⟨a, ha, hs⟩

/-- The XPSD of an entry sequence that traps leaves what its exchange leaves. -/
theorem entryXpsd_error_cases {s s' : State} {loc : WordAddr} {w : Word} {tsf : BitVec 8} {ra : Bool} {t : Trap}
    (h : entryXpsd s loc w tsf ra = .error (t, s')) : s' = s ∨ ∃ l0 l1, s' = psdStored s s.psd tsf ra l0 l1 := by
  unfold entryXpsd at h
  split at h
  · cases h; exact .inl rfl
  · split at h
    · rename_i x r he
      cases h
      exact exchangePsd_error_cases he
    · cases h

/-- A property that the parts of an entry sequence keep. -/
structure EntryKeeps (P : State → Prop) : Prop where
  store : ∀ s tsf ra l0 l1, P s → P (psdStored s s.psd tsf ra l0 l1)
  exchange : ∀ s s' a lp e tsf ra, P s → exchangePsd s s.psd a lp e tsf ra = .ok s' → P s'
  pend : ∀ s p, P s → P { s with pend := p }
  modify : ∀ old t w s, P s → P (trapModify old t w s)

/-- A trap proper keeps what its parts keep (R640). -/
theorem trapSequence_keeps {P : State → Prop} (hP : EntryKeeps P) (t : Trap) (s : State) (h : P s) :
    P (trapSequence t s) := by
  unfold trapSequence
  split
  · exact hP.pend _ _ h
  · split
    · split
      · rename_i t' s' hs
        refine hP.pend _ _ ?_
        rcases entryXpsd_error_cases hs with rfl | ⟨l0, l1, rfl⟩
        · exact h
        · exact hP.store _ _ _ _ _ h
      · rename_i s' hs
        obtain ⟨a, -, he⟩ := entryXpsd_cases hs
        exact hP.modify _ _ _ _ (hP.exchange _ _ _ _ _ _ _ h he)
    · exact hP.pend _ _ h

/-- Taking a trap keeps what the entry sequence keeps, if the trap's own registers are outside it (R640, R664). -/
theorem enterTrap_keeps {P : State → Prop} (hP : EntryKeeps P)
    (hn : ∀ s b n, P s → P { s with banks := b, free := n })
    (ht : ∀ s x, P s → P { s with tcc := x, jumped := true, completed := false, stale := none, pend := .none })
    (hp : ∀ s x y, P s → P { s with pdf := x, faultStatus := y })
    (hh : ∀ s, P s → P { s with halt := .hung, pfiGenerated := true })
    (hm : ∀ s p, P s → P { s with halt := .memoryFault, pend := p }) (t : Trap) (s : State) (h : P s) :
    P (enterTrap t s) := by
  have h1 : P (noteBankFault t.bankFault { s with
      tcc := t.tcc, jumped := true, completed := false, stale := none, pend := .none }) := by
    unfold noteBankFault
    split
    · exact ht _ _ h
    · exact hn _ _ _ (ht _ _ h)
  unfold enterTrap
  dsimp only
  split
  · exact hm _ _ h1
  · split
    · exact trapSequence_keeps hP _ _ h1
    · split
      · exact hh _ h1
      · exact trapSequence_keeps hP _ _ (hp _ _ _ h1)

/-- Storing the old PSD keeps the canonical form of memory. -/
theorem wf_psdStored {s : State} (hw : s.mem.wf = true) (old : Psd) (tsf : BitVec 8) (ra : Bool) (l0 l1 : Loc) :
    (psdStored s old tsf ra l0 l1).mem.wf = true :=
  wf_writeLoc (wf_writeLoc hw _ _) _ _

/-- The exchange keeps the canonical form of memory. -/
theorem wf_exchangePsd {s s' : State} {old : Psd} {a : Via} {lp ra : Bool} {e : Option (BitVec 8)} {tsf : BitVec 8}
    (hw : s.mem.wf = true) (h : exchangePsd s old a lp e tsf ra = .ok s') : s'.mem.wf = true := by
  obtain ⟨l0, l1, l2, l3, n1, n2, -, -, -, rfl⟩ := exchangePsd_cases h
  exact wf_psdStored hw old tsf ra l0 l1

theorem trapModify_mem (old : State) (t : Trap) (w : Word) (s : State) : (trapModify old t w s).mem = s.mem := by
  unfold trapModify
  repeat' split
  all_goals rfl

/-- The parts of an entry sequence keep the canonical form of memory. -/
theorem wf_entryKeeps : EntryKeeps (fun s => s.mem.wf = true) where
  store _ _ _ _ _ h := wf_psdStored h _ _ _ _ _
  exchange _ _ _ _ _ _ _ h e := wf_exchangePsd h e
  pend _ _ h := h
  modify _ _ _ _ h := by rw [trapModify_mem]; exact h

/-- Taking a trap keeps the canonical form of memory. -/
theorem wf_enterTrap (t : Trap) {s : State} (h : s.mem.wf = true) : (enterTrap t s).mem.wf = true :=
  enterTrap_keeps (P := fun s => s.mem.wf = true) wf_entryKeeps (fun _ _ _ h => h) (fun _ _ h => h)
    (fun _ _ _ h => h) (fun _ h => h) (fun _ _ h => h) t s h

theorem trapModify_frame (old : State) (t : Trap) (w : Word) (s : State) :
    (trapModify old t w s).map = s.map ∧ (trapModify old t w s).acc = s.acc ∧ (trapModify old t w s).lock = s.lock ∧
      (trapModify old t w s).ints = s.ints ∧ (trapModify old t w s).inst = s.inst := by
  unfold trapModify
  repeat' split
  all_goals exact ⟨rfl, rfl, rfl, rfl, rfl⟩

/-- Taking a trap leaves memory control storage, the interrupt levels and the installation as they were. -/
theorem enterTrap_frame (t : Trap) (s : State) :
    (enterTrap t s).map = s.map ∧ (enterTrap t s).acc = s.acc ∧ (enterTrap t s).lock = s.lock ∧
      (enterTrap t s).ints = s.ints ∧ (enterTrap t s).inst = s.inst := by
  have key : ∀ r : State, r.map = s.map ∧ r.acc = s.acc ∧ r.lock = s.lock ∧ r.ints = s.ints ∧ r.inst = s.inst →
      ∀ x : State, x.map = r.map ∧ x.acc = r.acc ∧ x.lock = r.lock ∧ x.ints = r.ints ∧ x.inst = r.inst →
      x.map = s.map ∧ x.acc = s.acc ∧ x.lock = s.lock ∧ x.ints = s.ints ∧ x.inst = s.inst := by
    rintro r ⟨a, b, c, d, e⟩ x ⟨a', b', c', d', e'⟩
    exact ⟨a'.trans a, b'.trans b, c'.trans c, d'.trans d, e'.trans e⟩
  refine enterTrap_keeps
    (P := fun x => x.map = s.map ∧ x.acc = s.acc ∧ x.lock = s.lock ∧ x.ints = s.ints ∧ x.inst = s.inst)
    ⟨?_, ?_, fun _ _ h => h, fun old t w r h => key r h _ (trapModify_frame old t w r)⟩ (fun _ _ _ h => h)
    (fun _ _ h => h) (fun _ _ _ h => h) (fun _ h => h) (fun _ _ h => h) t s ⟨rfl, rfl, rfl, rfl, rfl⟩
  · intro r tsf ra l0 l1 h
    simpa [psdStored] using h
  · intro r r' a lp e tsf ra h he
    obtain ⟨l0, l1, l2, l3, n1, n2, -, -, -, rfl⟩ := exchangePsd_cases he
    simpa [psdStored] using h

end Sys2Proof.Laws
end

