-- ==== Sys2Proof/Laws/Events.lean ====
section
/-! SUPPORT. What the external events leave of the canonical form of memory; what the ADDRESS STOP switches can add to an
activity of the CPU. -/

namespace Sys2Proof.Laws

open Sys2Proof Sys2Proof.Machine

/-- Memory of any value is in canonical form. -/
theorem wfFrom_anyMemory (s : State) (f : Nat) : ∀ n lo, wfFrom lo (anyMemory s f lo n) = true
  | 0, _ => rfl
  | n + 1, lo => by
    unfold anyMemory
    split
    · rename_i h
      simp only [Bool.and_eq_true] at h
      simp [wfFrom, h.2, wfFrom_anyMemory s f n (lo + 1)]
    · exact wfFrom_le (Nat.le_succ lo) (wfFrom_anyMemory s f n (lo + 1))

/-- Power-up leaves memory in canonical form. -/
theorem wf_powerUp (s : State) : (powerUp s).mem.wf = true := by
  unfold powerUp
  dsimp only
  split <;> exact wfFrom_anyMemory _ _ _ _

/-- A word put into a real location keeps the canonical form of memory. -/
theorem wf_putReal {s : State} (h : s.mem.wf = true) (a : WordAddr) (w : Word) : (putReal a w s).mem.wf = true := by
  unfold putReal
  split
  · exact wf_writeLoc h _ _
  · exact h

/-- Words put into Homespace keep the canonical form of memory. -/
theorem wf_putHomespace : ∀ (l : List Word) (a : WordAddr) {s : State}, s.mem.wf = true →
    (putHomespace a l s).mem.wf = true
  | [], _, _, h => h
  | w :: l, a, _, h => wf_putHomespace l (a + 1) (wf_putReal h _ w)

/-- A fault injected keeps what does not look at the pending trap. -/
theorem injectTrap_cases (t : Trap) (s : State) : injectTrap t s = s ∨ injectTrap t s = { s with pend := .trap t } := by
  unfold injectTrap
  split
  · exact .inr rfl
  · exact .inl rfl

/-- No event but power-up, MEMORY CLEAR and the stores of the panel and of other agents touches memory; every event keeps
its canonical form. -/
theorem wf_applyEvent (e : Event) {s : State} (h : s.mem.wf = true) : (applyEvent e s).mem.wf = true := by
  have inject : ∀ t (r : State), r.mem.wf = true → (injectTrap t r).mem.wf = true := by
    intro t r hr
    rcases injectTrap_cases t r with e | e <;> rw [e] <;> exact hr
  have idle : ∀ f : State → State, (∀ r : State, r.mem.wf = true → (f r).mem.wf = true) →
      (whenIdle f s).mem.wf = true := by
    intro f hf
    unfold whenIdle
    split
    · exact hf s h
    · exact h
  cases e <;> dsimp only [applyEvent]
  case powerOn => exact wf_powerUp s
  case run => exact idle _ fun _ hr => hr
  case stepOne =>
    refine idle (fun r => if stopped r then r else { r with compute := .step, halt := clearedHalt r.halt }) fun r hr => ?_
    split <;> exact hr
  case cpuReset => exact idle _ fun _ hr => hr
  case sysReset => exact idle _ fun _ hr => hr
  case memoryClear =>
    refine idle (fun r => { r with mem := [], badParity := [] }) fun r _ => ?_
    rfl
  case load u => exact idle _ fun r hr => wf_putHomespace (bootstrap r u) _ hr
  case insert1 w => exact idle _ fun _ hr => hr
  case insert2 w => exact idle _ fun _ hr => hr
  case store a w =>
    refine idle _ fun r hr => ?_
    unfold panelStore
    dsimp only
    generalize (if r.psd.mm = true then wrapWord r a else a) = v
    split
    · exact hr
    · exact wf_putReal hr _ _
  case incrementAddress => exact idle _ fun _ hr => hr
  case snapEnter w => exact idle _ fun _ hr => hr
  case switch v =>
    cases v <;> dsimp only [moveSwitch] <;> (try split) <;> exact h
  case agentStore a w => exact wf_putReal h _ _
  case mapParity => exact inject _ _ h
  case dataBusCheck => exact inject _ _ h
  case memoryParity k a => exact inject _ _ h
  case memoryBusHang b =>
    dsimp only [memoryBusHangs]
    repeat' split
    · exact h
    · exact h
    · exact inject _ _ h
  all_goals first
    | exact h
    | (split <;> first | exact h | exact inject _ _ h)

/-- The ADDRESS STOP switches leave an activity as it is or make a halt after it (R715). -/
theorem withReferenceStop_cases (f : State → Host.Outcome State Fault Refusal) (s : State) :
    withReferenceStop f s = f s ∨ withReferenceStop f s = mapNext haltAtReference (f s) := by
  unfold withReferenceStop
  split
  · exact .inr rfl
  · exact .inl rfl

/-- With the switches elsewhere than in MEM REF and no halt of theirs, an activity is as it is (R715). -/
theorem withReferenceStop_of_not {f : State → Host.Outcome State Fault Refusal} {s : State} (hh : s.halt ≠ .addressStop)
    (hm : s.stopSwitches.mode ≠ .memRef) : withReferenceStop f s = f s := by
  simp [withReferenceStop, meetsSwitches, watchesReferences, hh, hm]

/-- The halt changes the halt condition alone. -/
theorem haltAtReference_cases (s : State) : haltAtReference s = s ∨ haltAtReference s = { s with halt := .addressStop } := by
  unfold haltAtReference
  split <;> simp

@[simp] theorem haltAtReference_mem (s : State) : (haltAtReference s).mem = s.mem := by
  unfold haltAtReference; split <;> rfl
@[simp] theorem haltAtReference_psd (s : State) : (haltAtReference s).psd = s.psd := by
  unfold haltAtReference; split <;> rfl
@[simp] theorem haltAtReference_inst (s : State) : (haltAtReference s).inst = s.inst := by
  unfold haltAtReference; split <;> rfl
@[simp] theorem haltAtReference_inputs (s : State) : (haltAtReference s).inputs = s.inputs := by
  unfold haltAtReference; split <;> rfl

/-- The end of STEP changes the COMPUTE switch alone. -/
theorem settle_cases (s : State) : settle s = s ∨ settle s = { s with compute := .idle } := by
  unfold settle
  split <;> simp

@[simp] theorem settle_mem (s : State) : (settle s).mem = s.mem := by unfold settle; split <;> rfl
@[simp] theorem settle_psd (s : State) : (settle s).psd = s.psd := by unfold settle; split <;> rfl
@[simp] theorem settle_inst (s : State) : (settle s).inst = s.inst := by unfold settle; split <;> rfl
@[simp] theorem settle_inputs (s : State) : (settle s).inputs = s.inputs := by unfold settle; split <;> rfl
@[simp] theorem settle_pend (s : State) : (settle s).pend = s.pend := by unfold settle; split <;> rfl
@[simp] theorem settle_halt (s : State) : (settle s).halt = s.halt := by unfold settle; split <;> rfl

/-- COMPUTE is left in STEP only while a trap or a subject is pending and the clock runs (R710). -/
theorem pending_of_settle_step {s : State} (h : (settle s).compute = .step) :
    s.pend ≠ .none ∧ s.halt ≠ .memoryFault := by
  unfold settle at h
  split at h
  · cases h
  · rename_i hn
    constructor <;> intro e <;> exact hn (by simp [h, e])

/-! ### The trials of ADDRESS STOP: the faults that the banks hold steer no access -/

/-- Two trials that leave different addresses in the banks show an access (R715). -/
theorem accesses_of_snap {f : State → Host.Outcome State Fault Refusal} {ws : List Nat} {s a b : State}
    (ha : f (faultsCleared s) = .next a) (hb : f (invertParity ws (faultsCleared s)) = .next b)
    (h : a.banks.map (·.snap) ≠ b.banks.map (·.snap)) : accesses f ws s = true := by
  unfold accesses alike
  rw [ha, hb]
  have hne : ¬ ({ a with badParity := [] } = { invertParity ws b with badParity := [] }) := fun e =>
    h (congrArg (fun t : State => t.banks.map (·.snap)) e)
  simp [hne]

@[simp] theorem memExists_faultsCleared (s : State) (a : WordAddr) :
    memExists (faultsCleared s) a = memExists s a := by
  simp [memExists, faultsCleared, List.any_map, Function.comp_def, Bank.holds]

@[simp] theorem locate_faultsCleared (s : State) (v : WordAddr) (k : Access) :
    locate (faultsCleared s) v k = locate s v k := by
  unfold locate locateMemory
  simp only [memExists_faultsCleared]
  rfl

@[simp] theorem readWord_faultsCleared (s : State) (v : WordAddr) : readWord (faultsCleared s) v = readWord s v := by
  unfold readWord
  rw [locate_faultsCleared]
  rfl

@[simp] theorem fetchWord_faultsCleared (s : State) : fetchWord (faultsCleared s) = fetchWord s := by
  unfold fetchWord
  rw [locate_faultsCleared]
  rfl

/-- What a next state with a changed state comes from. -/
theorem mapNext_next {f : State → State} {o : Host.Outcome State Fault Refusal} {t : State} (h : mapNext f o = .next t) :
    ∃ r, o = .next r ∧ t = f r := by
  cases o with
  | next r => cases h; exact ⟨r, rfl, rfl⟩
  | fault _ => cases h
  | refused _ => cases h

end Sys2Proof.Laws
end

