-- ==== Sys2Proof/Laws/Finish.lean ====
section
/-! SUPPORT. From the shared operations of the meanings to the vocabulary of the statements (Safety): what the loads, the
sums and the completions leave, each said once. -/

namespace Sys2Proof.Laws

open Sys2Proof Sys2Proof.Machine

/-! ### Signs -/

theorem decide_neg {w : Nat} (v : BitVec w) : decide (v.toInt < 0) = v.msb := (BitVec.msb_eq_toInt).symm

theorem decide_pos {w : Nat} (v : BitVec w) : decide (0 < v.toInt) = (!v.msb && v != 0) := by
  rw [BitVec.msb_eq_toInt]
  by_cases hz : v = 0
  · subst hz; simp
  · have h0 : v.toInt ≠ 0 := fun h => hz (BitVec.eq_of_toInt_eq (by simpa using h))
    have hb : (v != 0) = true := by simpa using hz
    rw [hb, Bool.and_true, ← decide_not]
    exact decide_eq_decide.2 (by omega)

theorem ofInt_neg_toInt {w : Nat} (v : BitVec w) : BitVec.ofInt w (-v.toInt) = -v := by
  rw [BitVec.ofInt_neg, BitVec.ofInt_toInt]

/-- The absolute value as a bit string is that of the number (R226, R228, R230). -/
theorem ofInt_abs_toInt {w : Nat} (v : BitVec w) : BitVec.ofInt w |v.toInt| = absolute v := by
  unfold absolute
  have h := decide_neg v
  cases hv : v.msb <;> rw [hv] at h
  · rw [abs_of_nonneg (by simpa using h)]; simp
  · rw [abs_of_neg (by simpa using h), ofInt_neg_toInt]; simp

/-! ### Completions -/

theorem advance_loadWord (r : BitVec 4) (v : Word) (s : State) :
    advance (loadWord r v s) = loaded s (oneReg s r v) v := by
  simp only [loaded, decide_pos, decide_neg]; rfl

theorem advance_loadDword (r : BitVec 4) (d : Dword) (s : State) :
    advance (loadDword r d s) = loaded s (pairRegs s r (hiWord d) (loWord d)) d := by
  simp only [loaded, decide_pos, decide_neg]; rfl

theorem advance_arithCC {w : Nat} (x : BitVec w × Bool × Bool) (s : State) :
    advance (arithCC x s) = finished s s.regs x.2.1 x.2.2 (decide (0 < x.1.toInt)) (decide (x.1.toInt < 0)) := by
  simp only [decide_pos, decide_neg]; rfl

theorem advance_eq_onward (s : State) : advance s = onward s s.regs := rfl

/-- A change and then the completion with the overflow test. -/
theorem completes_of_change (s : State) (f : State → State) {t : State} (h : advance (f s) = t) :
    CompletesOrOverflows (run (do change f; doneWithOverflow) s) t := by
  subst h
  constructor
  · intro h
    apply run_ok
    rw [bind_change]
    apply doneWithOverflow_ok
    have h' : ¬ ((f s).psd.cc2 = true ∧ (f s).psd.am = true) := h
    revert h'
    cases (f s).psd.cc2 <;> cases (f s).psd.am <;> simp
  · intro h
    have h' : (f s).psd.cc2 = true ∧ (f s).psd.am = true := h
    apply run_trap
    rw [bind_change, doneWithOverflow_apply]
    simp [h'.1, h'.2]

/-! ### Running past a part that succeeds -/

theorem run_need {α : Type} {f : State → Except Trap α} {s : State} {a : α} (h : f s = .ok a) (k : α → Act Unit) :
    run (need f >>= k) s = run (k a) s := by
  unfold run
  rw [bind_ok (need_ok h)]

theorem run_need_error {α : Type} {f : State → Except Trap α} {s : State} {t : Trap} (h : f s = .error t)
    (k : α → Act Unit) : run (need f >>= k) s = .next (enterTrap t s) :=
  run_trap (bind_error (need_error h) k)

theorem run_bind {α : Type} {a : Act α} {x : α} {s s' : State} (h : a s = .ok x s') (k : α → Act Unit) :
    run (a >>= k) s = run (k x) s' := by
  unfold run
  rw [bind_ok h]

theorem run_look {α : Type} (g : State → α) (k : α → Act Unit) (s : State) : run (look g >>= k) s = run (k (g s)) s := rfl

theorem run_change (g : State → State) (k : Unit → Act Unit) (s : State) :
    run (change g >>= k) s = run (k ()) (g s) := rfl

theorem run_done (s : State) : run done s = .next (advance s) := rfl

/-! ### The image words of MMC (R527, R532, R668) -/

theorem imageWord_ok {r : BitVec 4} {b : ControlBlock} {v : WordAddr} {c : Word} {k : Nat} {s : State} {w : Word}
    (h : readWord s (wordPlus s v k) = .ok w) : imageWord r b v c k s = .ok w s := by
  simp [imageWord, h]

theorem imageWord_error {r : BitVec 4} {b : ControlBlock} {v : WordAddr} {c : Word} {k : Nat} {s : State} {t : Trap}
    (h : readWord s (wordPlus s v k) = .error t) :
    imageWord r b v c k s =
      .error (.trap { t with ra := true }) (if t.loc = 0x40#8 then imageProgress r b v c k s else s) := by
  simp [imageWord, h]

/-- At the end the count in Ru1 is 0 (R527). -/
theorem imageCount_left (c : Word) : field c 0 7 - BitVec.ofNat 8 (imageCount c) = 0 := by
  unfold imageCount
  split
  · rename_i h; rw [h]; decide
  · simp

end Sys2Proof.Laws
end

