-- ==== Sys2Proof/Laws/PerInstr.lean ====
section
/-! SUPPORT. The per-instruction family `Encoding`: the operation code that an instruction is encoded with is an assigned
one. -/

namespace Sys2Proof.Laws

open Sys2Proof Sys2Proof.Machine

theorem field_refWord (op : BitVec 7) (m : MR) : field (refWord op m) 1 7 = op := by
  obtain ⟨ind, r, x, addr⟩ := m
  ext i hi
  simp only [field, refWord, BitVec.getElem_extractLsb', BitVec.getLsbD_append]
  interval_cases i <;> simp

theorem field_valueWord (op : BitVec 7) (r : BitVec 4) (v : BitVec 20) : field (valueWord op r v) 1 7 = op := by
  ext i hi
  simp only [field, valueWord, BitVec.getElem_extractLsb', BitVec.getLsbD_append]
  interval_cases i <;> simp

/-- The instruction's operation code is assigned (R181). -/
def Encoding.Statement (i : Instr) : Prop := (findFormat (field (encode i) 1 7) opcodes).isSome = true

theorem assigned_ref {op : BitVec 7} (h : (findFormat op opcodes).isSome = true) (m : MR) :
    (findFormat (field (refWord op m) 1 7) opcodes).isSome = true := by
  rw [field_refWord]; exact h

theorem assigned_value {op : BitVec 7} (h : (findFormat op opcodes).isSome = true) (r : BitVec 4) (v : BitVec 20) :
    (findFormat (field (valueWord op r v) 1 7) opcodes).isSome = true := by
  rw [field_valueWord]; exact h

theorem Encoding.lcfi (i : Imm) : Encoding.Statement (.lcfi i) := assigned_value (by decide) _ _

theorem Encoding.cal1 (m : MR) : Encoding.Statement (.cal1 m) := assigned_ref (by decide) m

theorem Encoding.cal2 (m : MR) : Encoding.Statement (.cal2 m) := assigned_ref (by decide) m

theorem Encoding.cal3 (m : MR) : Encoding.Statement (.cal3 m) := assigned_ref (by decide) m

theorem Encoding.cal4 (m : MR) : Encoding.Statement (.cal4 m) := assigned_ref (by decide) m

theorem Encoding.plw (m : MR) : Encoding.Statement (.plw m) := assigned_ref (by decide) m

theorem Encoding.psw (m : MR) : Encoding.Statement (.psw m) := assigned_ref (by decide) m

theorem Encoding.plm (m : MR) : Encoding.Statement (.plm m) := assigned_ref (by decide) m

theorem Encoding.psm (m : MR) : Encoding.Statement (.psm m) := assigned_ref (by decide) m

theorem Encoding.lpsd (m : MR) : Encoding.Statement (.lpsd m) := assigned_ref (by decide) m

theorem Encoding.xpsd (m : MR) : Encoding.Statement (.xpsd m) := assigned_ref (by decide) m

theorem Encoding.ad (m : MR) : Encoding.Statement (.ad m) := assigned_ref (by decide) m

theorem Encoding.cd (m : MR) : Encoding.Statement (.cd m) := assigned_ref (by decide) m

theorem Encoding.ld (m : MR) : Encoding.Statement (.ld m) := assigned_ref (by decide) m

theorem Encoding.msp (m : MR) : Encoding.Statement (.msp m) := assigned_ref (by decide) m

theorem Encoding.std (m : MR) : Encoding.Statement (.std m) := assigned_ref (by decide) m

theorem Encoding.sd (m : MR) : Encoding.Statement (.sd m) := assigned_ref (by decide) m

theorem Encoding.clm (m : MR) : Encoding.Statement (.clm m) := assigned_ref (by decide) m

theorem Encoding.lcd (m : MR) : Encoding.Statement (.lcd m) := assigned_ref (by decide) m

theorem Encoding.lad (m : MR) : Encoding.Statement (.lad m) := assigned_ref (by decide) m

theorem Encoding.fsl (m : MR) : Encoding.Statement (.fsl m) := assigned_ref (by decide) m

theorem Encoding.fal (m : MR) : Encoding.Statement (.fal m) := assigned_ref (by decide) m

theorem Encoding.fdl (m : MR) : Encoding.Statement (.fdl m) := assigned_ref (by decide) m

theorem Encoding.fml (m : MR) : Encoding.Statement (.fml m) := assigned_ref (by decide) m

theorem Encoding.ai (i : Imm) : Encoding.Statement (.ai i) := assigned_value (by decide) _ _

theorem Encoding.ci (i : Imm) : Encoding.Statement (.ci i) := assigned_value (by decide) _ _

theorem Encoding.li (i : Imm) : Encoding.Statement (.li i) := assigned_value (by decide) _ _

theorem Encoding.mi (i : Imm) : Encoding.Statement (.mi i) := assigned_value (by decide) _ _

theorem Encoding.sf (m : MR) : Encoding.Statement (.sf m) := assigned_ref (by decide) m

theorem Encoding.s (m : MR) : Encoding.Statement (.s m) := assigned_ref (by decide) m

theorem Encoding.las (m : MR) : Encoding.Statement (.las m) := assigned_ref (by decide) m

theorem Encoding.cvs (m : MR) : Encoding.Statement (.cvs m) := assigned_ref (by decide) m

theorem Encoding.cva (m : MR) : Encoding.Statement (.cva m) := assigned_ref (by decide) m

theorem Encoding.lm (m : MR) : Encoding.Statement (.lm m) := assigned_ref (by decide) m

theorem Encoding.stm (m : MR) : Encoding.Statement (.stm m) := assigned_ref (by decide) m

theorem Encoding.lra (m : MR) : Encoding.Statement (.lra m) := assigned_ref (by decide) m

theorem Encoding.lms (m : MR) : Encoding.Statement (.lms m) := assigned_ref (by decide) m

theorem Encoding.wait (m : MR) : Encoding.Statement (.wait m) := assigned_ref (by decide) m

theorem Encoding.lrp (m : MR) : Encoding.Statement (.lrp m) := assigned_ref (by decide) m

theorem Encoding.aw (m : MR) : Encoding.Statement (.aw m) := assigned_ref (by decide) m

theorem Encoding.cw (m : MR) : Encoding.Statement (.cw m) := assigned_ref (by decide) m

theorem Encoding.lw (m : MR) : Encoding.Statement (.lw m) := assigned_ref (by decide) m

theorem Encoding.mtw (m : MR) : Encoding.Statement (.mtw m) := assigned_ref (by decide) m

theorem Encoding.stw (m : MR) : Encoding.Statement (.stw m) := assigned_ref (by decide) m

theorem Encoding.dw (m : MR) : Encoding.Statement (.dw m) := assigned_ref (by decide) m

theorem Encoding.mw (m : MR) : Encoding.Statement (.mw m) := assigned_ref (by decide) m

theorem Encoding.sw (m : MR) : Encoding.Statement (.sw m) := assigned_ref (by decide) m

theorem Encoding.clr (m : MR) : Encoding.Statement (.clr m) := assigned_ref (by decide) m

theorem Encoding.lcw (m : MR) : Encoding.Statement (.lcw m) := assigned_ref (by decide) m

theorem Encoding.law (m : MR) : Encoding.Statement (.law m) := assigned_ref (by decide) m

theorem Encoding.fss (m : MR) : Encoding.Statement (.fss m) := assigned_ref (by decide) m

theorem Encoding.fas (m : MR) : Encoding.Statement (.fas m) := assigned_ref (by decide) m

theorem Encoding.fds (m : MR) : Encoding.Statement (.fds m) := assigned_ref (by decide) m

theorem Encoding.fms (m : MR) : Encoding.Statement (.fms m) := assigned_ref (by decide) m

theorem Encoding.ttbs (b : Bs) : Encoding.Statement (.ttbs b) := assigned_value (by decide) _ _

theorem Encoding.tbs (b : Bs) : Encoding.Statement (.tbs b) := assigned_value (by decide) _ _

theorem Encoding.anlz (m : MR) : Encoding.Statement (.anlz m) := assigned_ref (by decide) m

theorem Encoding.cs (m : MR) : Encoding.Statement (.cs m) := assigned_ref (by decide) m

theorem Encoding.xw (m : MR) : Encoding.Statement (.xw m) := assigned_ref (by decide) m

theorem Encoding.sts (m : MR) : Encoding.Statement (.sts m) := assigned_ref (by decide) m

theorem Encoding.eor (m : MR) : Encoding.Statement (.eor m) := assigned_ref (by decide) m

theorem Encoding.or (m : MR) : Encoding.Statement (.or m) := assigned_ref (by decide) m

theorem Encoding.ls (m : MR) : Encoding.Statement (.ls m) := assigned_ref (by decide) m

theorem Encoding.and (m : MR) : Encoding.Statement (.and m) := assigned_ref (by decide) m

theorem Encoding.sio (m : MR) : Encoding.Statement (.sio m) := assigned_ref (by decide) m

theorem Encoding.tio (m : MR) : Encoding.Statement (.tio m) := assigned_ref (by decide) m

theorem Encoding.tdv (m : MR) : Encoding.Statement (.tdv m) := assigned_ref (by decide) m

theorem Encoding.hio (m : MR) : Encoding.Statement (.hio m) := assigned_ref (by decide) m

theorem Encoding.rio (m : MR) : Encoding.Statement (.rio m) := assigned_ref (by decide) m

theorem Encoding.polp (m : MR) : Encoding.Statement (.polp m) := assigned_ref (by decide) m

theorem Encoding.polr (m : MR) : Encoding.Statement (.polr m) := assigned_ref (by decide) m

theorem Encoding.ah (m : MR) : Encoding.Statement (.ah m) := assigned_ref (by decide) m

theorem Encoding.ch (m : MR) : Encoding.Statement (.ch m) := assigned_ref (by decide) m

theorem Encoding.lh (m : MR) : Encoding.Statement (.lh m) := assigned_ref (by decide) m

theorem Encoding.mth (m : MR) : Encoding.Statement (.mth m) := assigned_ref (by decide) m

theorem Encoding.sth (m : MR) : Encoding.Statement (.sth m) := assigned_ref (by decide) m

theorem Encoding.dh (m : MR) : Encoding.Statement (.dh m) := assigned_ref (by decide) m

theorem Encoding.mh (m : MR) : Encoding.Statement (.mh m) := assigned_ref (by decide) m

theorem Encoding.sh (m : MR) : Encoding.Statement (.sh m) := assigned_ref (by decide) m

theorem Encoding.lch (m : MR) : Encoding.Statement (.lch m) := assigned_ref (by decide) m

theorem Encoding.lah (m : MR) : Encoding.Statement (.lah m) := assigned_ref (by decide) m

theorem Encoding.cbs (b : Bs) : Encoding.Statement (.cbs b) := assigned_value (by decide) _ _

theorem Encoding.mbs (b : Bs) : Encoding.Statement (.mbs b) := assigned_value (by decide) _ _

theorem Encoding.ebs (b : Bs) : Encoding.Statement (.ebs b) := assigned_value (by decide) _ _

theorem Encoding.bdr (m : MR) : Encoding.Statement (.bdr m) := assigned_ref (by decide) m

theorem Encoding.bir (m : MR) : Encoding.Statement (.bir m) := assigned_ref (by decide) m

theorem Encoding.awm (m : MR) : Encoding.Statement (.awm m) := assigned_ref (by decide) m

theorem Encoding.exu (m : MR) : Encoding.Statement (.exu m) := assigned_ref (by decide) m

theorem Encoding.bcr (m : MR) : Encoding.Statement (.bcr m) := assigned_ref (by decide) m

theorem Encoding.bcs (m : MR) : Encoding.Statement (.bcs m) := assigned_ref (by decide) m

theorem Encoding.bal (m : MR) : Encoding.Statement (.bal m) := assigned_ref (by decide) m

theorem Encoding.int (m : MR) : Encoding.Statement (.int m) := assigned_ref (by decide) m

theorem Encoding.rd (m : MR) : Encoding.Statement (.rd m) := assigned_ref (by decide) m

theorem Encoding.wd (m : MR) : Encoding.Statement (.wd m) := assigned_ref (by decide) m

theorem Encoding.aio (m : MR) : Encoding.Statement (.aio m) := assigned_ref (by decide) m

theorem Encoding.mmc (m : MR) : Encoding.Statement (.mmc m) := assigned_ref (by decide) m

theorem Encoding.lcf (m : MR) : Encoding.Statement (.lcf m) := assigned_ref (by decide) m

theorem Encoding.cb (m : MR) : Encoding.Statement (.cb m) := assigned_ref (by decide) m

theorem Encoding.lb (m : MR) : Encoding.Statement (.lb m) := assigned_ref (by decide) m

theorem Encoding.mtb (m : MR) : Encoding.Statement (.mtb m) := assigned_ref (by decide) m

theorem Encoding.stcf (m : MR) : Encoding.Statement (.stcf m) := assigned_ref (by decide) m

theorem Encoding.stb (m : MR) : Encoding.Statement (.stb m) := assigned_ref (by decide) m

theorem Encoding.pack (m : MR) : Encoding.Statement (.pack m) := assigned_ref (by decide) m

theorem Encoding.unpk (m : MR) : Encoding.Statement (.unpk m) := assigned_ref (by decide) m

theorem Encoding.ds (m : MR) : Encoding.Statement (.ds m) := assigned_ref (by decide) m

theorem Encoding.da (m : MR) : Encoding.Statement (.da m) := assigned_ref (by decide) m

theorem Encoding.dd (m : MR) : Encoding.Statement (.dd m) := assigned_ref (by decide) m

theorem Encoding.dm (m : MR) : Encoding.Statement (.dm m) := assigned_ref (by decide) m

theorem Encoding.dsa (m : MR) : Encoding.Statement (.dsa m) := assigned_ref (by decide) m

theorem Encoding.dc (m : MR) : Encoding.Statement (.dc m) := assigned_ref (by decide) m

theorem Encoding.dl (m : MR) : Encoding.Statement (.dl m) := assigned_ref (by decide) m

theorem Encoding.dst (m : MR) : Encoding.Statement (.dst m) := assigned_ref (by decide) m

end Sys2Proof.Laws
end

