-- ==== Sys2Proof/Tests/Slice0.lean ====
section
/-! SUPPORT. Tests of the model: ill-formed terms refused, words decoded, single steps on small states; and for each
statement with hypotheses a state and operands that meet them. -/

namespace Sys2Proof.Tests

open Sys2Proof Sys2Proof.Config Sys2Proof.Machine

set_option Elab.async false

/-! ### Small states -/

/-- Registers from number `n` on. -/
def putRegs : Nat → List Word → State → State
  | _, [], s => s
  | n, w :: rest, s => putRegs (n + 1) rest (setReg (BitVec.ofNat 4 n) w s)

/-- Words of real memory. -/
def putWords : List (Nat × Word) → Memory → Memory
  | [], m => m
  | (a, w) :: rest, m => putWords rest (writeWordAt m (BitVec.ofNat 22 a) w)

/-- The machine after reset with a few registers, memory words and a program status. -/
def small (regs : List Word) (words : List (Nat × Word)) (p : Psd := Psd.reset) : State :=
  putRegs 0 regs { State.reset with mem := putWords words [], psd := p }

/-- A direct reference without index. -/
def ref (r : BitVec 4) (a : BitVec 17) : MR := ⟨false, r, 0, a⟩

/-- The outcome is a next state with a property. -/
def ends (o : Result) (p : State → Bool) : Bool :=
  match o with
  | .next t => p t
  | _ => false

theorem of_ends {o : Result} {p : State → Bool} (h : ends o p = true) : ∃ t, o = .next t ∧ p t = true := by
  match o, h with
  | .next t, h => exact ⟨t, rfl, h⟩

/-! ### Well-formedness -/

/-- X'4F' terms whose selector is not theirs are refused (49_input_output R601). -/
theorem test_illformed_refused :
    Instr.wellFormed (.hio (ref 0 0x04000)) = false ∧ Instr.wellFormed (.hio (ref 0 0x0C000)) = false ∧
    Instr.wellFormed (.rio (ref 0 0x08000)) = false ∧ Instr.wellFormed (.polp (ref 0 0x00000)) = false ∧
    Instr.wellFormed (.polr (ref 0 0x10000)) = false := by decide

/-! ### Decoding -/

/-- Unassigned codes, X'0C' both nonexistent and privileged, and an immediate with bit 0 = 1 are refused (R176, R177). -/
theorem test_decode_refused :
    decodeWord 0x00000000#32 = .error (.unassigned false) ∧ decodeWord 0x0C000000#32 = .error (.unassigned true) ∧
    decodeWord 0x62000000#32 = .error (.unassigned false) ∧ decodeWord 0xA2000001#32 = .error .indirectImmediate := by
  decide +kernel

/-- The table's numbering of bits: the word's bytes lie most significant first (20_memory R101). -/
theorem test_decodeTableWord : decodeTableWord 32 0x220FFFFF = some (.li ⟨0, 0xFFFFF⟩) := by decide +kernel

/-- Words written from the encodings of operation codes X'00' to X'1F' (30_encoding R171-R173, R181), every field filled. -/
theorem test_decode_00 :
    ∀ p ∈ ([
      (0x0258F31C#32, .lcfi ⟨5, 0x8F31C⟩), (0x04C55E2B#32, .cal1 ⟨false, 12, 2, 0x15E2B⟩),
      (0x853761FC#32, .cal2 ⟨true, 3, 3, 0x161FC⟩), (0x86A965CD#32, .cal3 ⟨true, 10, 4, 0x165CD⟩),
      (0x071B699E#32, .cal4 ⟨false, 1, 5, 0x1699E⟩), (0x088D6D6F#32, .plw ⟨false, 8, 6, 0x16D6F⟩),
      (0x89FF7140#32, .psw ⟨true, 15, 7, 0x17140⟩), (0x8A637511#32, .plm ⟨true, 6, 1, 0x17511⟩),
      (0x0BD578E2#32, .psm ⟨false, 13, 2, 0x178E2⟩), (0x0E477CB3#32, .lpsd ⟨false, 4, 3, 0x17CB3⟩),
      (0x8FB98084#32, .xpsd ⟨true, 11, 4, 0x18084⟩), (0x902B8455#32, .ad ⟨true, 2, 5, 0x18455⟩),
      (0x119D8826#32, .cd ⟨false, 9, 6, 0x18826⟩), (0x120F8BF7#32, .ld ⟨false, 0, 7, 0x18BF7⟩),
      (0x93738FC8#32, .msp ⟨true, 7, 1, 0x18FC8⟩), (0x95E59399#32, .std ⟨true, 14, 2, 0x19399⟩),
      (0x1857976A#32, .sd ⟨false, 5, 3, 0x1976A⟩), (0x19C99B3B#32, .clm ⟨false, 12, 4, 0x19B3B⟩),
      (0x9A3B9F0C#32, .lcd ⟨true, 3, 5, 0x19F0C⟩), (0x9BADA2DD#32, .lad ⟨true, 10, 6, 0x1A2DD⟩),
      (0x1C1FA6AE#32, .fsl ⟨false, 1, 7, 0x1A6AE⟩), (0x1D83AA7F#32, .fal ⟨false, 8, 1, 0x1AA7F⟩),
      (0x9EF5AE50#32, .fdl ⟨true, 15, 2, 0x1AE50⟩), (0x9F67B221#32, .fml ⟨true, 6, 3, 0x1B221⟩)] :
      List (Word × Instr)), decodeWord p.1 = .ok p.2 := by
  decide +kernel

/-- Words written from the encodings of operation codes X'20' to X'3F' (30_encoding R171-R173, R181), every field filled. -/
theorem test_decode_20 :
    ∀ p ∈ ([
      (0x20DBD984#32, .ai ⟨13, 0xBD984⟩), (0x214BF873#32, .ci ⟨4, 0xBF873⟩),
      (0x22BC1762#32, .li ⟨11, 0xC1762⟩), (0x232C3651#32, .mi ⟨2, 0xC3651⟩),
      (0x2493C536#32, .sf ⟨false, 9, 1, 0x1C536⟩), (0x2505C907#32, .s ⟨false, 0, 2, 0x1C907⟩),
      (0xA677CCD8#32, .las ⟨true, 7, 3, 0x1CCD8⟩), (0xA8E9D0A9#32, .cvs ⟨true, 14, 4, 0x1D0A9⟩),
      (0x295BD47A#32, .cva ⟨false, 5, 5, 0x1D47A⟩), (0x2ACDD84B#32, .lm ⟨false, 12, 6, 0x1D84B⟩),
      (0xAB3FDC1C#32, .stm ⟨true, 3, 7, 0x1DC1C⟩), (0xACA3DFED#32, .lra ⟨true, 10, 1, 0x1DFED⟩),
      (0x2D15E3BE#32, .lms ⟨false, 1, 2, 0x1E3BE⟩), (0x2E87E78F#32, .wait ⟨false, 8, 3, 0x1E78F⟩),
      (0xAFF9EB60#32, .lrp ⟨true, 15, 4, 0x1EB60⟩), (0xB06BEF31#32, .aw ⟨true, 6, 5, 0x1EF31⟩),
      (0x31DDF302#32, .cw ⟨false, 13, 6, 0x1F302⟩), (0x324FF6D3#32, .lw ⟨false, 4, 7, 0x1F6D3⟩),
      (0xB3B3FAA4#32, .mtw ⟨true, 11, 1, 0x1FAA4⟩), (0xB525FE75#32, .stw ⟨true, 2, 2, 0x1FE75⟩),
      (0x36960246#32, .dw ⟨false, 9, 3, 0x00246⟩), (0x37080617#32, .mw ⟨false, 0, 4, 0x00617⟩),
      (0xB87A09E8#32, .sw ⟨true, 7, 5, 0x009E8⟩), (0xB9EC0DB9#32, .clr ⟨true, 14, 6, 0x00DB9⟩),
      (0x3A5E118A#32, .lcw ⟨false, 5, 7, 0x0118A⟩), (0x3BC2155B#32, .law ⟨false, 12, 1, 0x0155B⟩),
      (0xBC34192C#32, .fss ⟨true, 3, 2, 0x0192C⟩), (0xBDA61CFD#32, .fas ⟨true, 10, 3, 0x01CFD⟩),
      (0x3E1820CE#32, .fds ⟨false, 1, 4, 0x020CE⟩), (0x3F8A249F#32, .fms ⟨false, 8, 5, 0x0249F⟩)] :
      List (Word × Instr)), decodeWord p.1 = .ok p.2 := by
  decide +kernel

/-- Words written from the encodings of operation codes X'40' to X'5F' (30_encoding R171-R173, R181), every field filled. -/
theorem test_decode_40 :
    ∀ p ∈ ([
      (0x40FF7986#32, .ttbs ⟨15, 0xF7986⟩), (0x416F9875#32, .tbs ⟨6, 0xF9875⟩),
      (0x44D23012#32, .anlz ⟨false, 13, 1, 0x03012⟩), (0x454433E3#32, .cs ⟨false, 4, 2, 0x033E3⟩),
      (0xC6B637B4#32, .xw ⟨true, 11, 3, 0x037B4⟩), (0xC7283B85#32, .sts ⟨true, 2, 4, 0x03B85⟩),
      (0x489A3F56#32, .eor ⟨false, 9, 5, 0x03F56⟩), (0x490C4327#32, .or ⟨false, 0, 6, 0x04327⟩),
      (0xCA7E46F8#32, .ls ⟨true, 7, 7, 0x046F8⟩), (0xCBE24AC9#32, .and ⟨true, 14, 1, 0x04AC9⟩),
      (0x4C544E9A#32, .sio ⟨false, 5, 2, 0x04E9A⟩), (0x4DC6526B#32, .tio ⟨false, 12, 3, 0x0526B⟩),
      (0xCE38563C#32, .tdv ⟨true, 3, 4, 0x0563C⟩), (0xCFAA1A0D#32, .hio ⟨true, 10, 5, 0x01A0D⟩),
      (0x4F1C5DDE#32, .rio ⟨false, 1, 6, 0x05DDE⟩), (0x4F8EA1AF#32, .polp ⟨false, 8, 7, 0x0A1AF⟩),
      (0xCFF2E580#32, .polr ⟨true, 15, 1, 0x0E580⟩), (0xD0646951#32, .ah ⟨true, 6, 2, 0x06951⟩),
      (0x51D66D22#32, .ch ⟨false, 13, 3, 0x06D22⟩), (0x524870F3#32, .lh ⟨false, 4, 4, 0x070F3⟩),
      (0xD3BA74C4#32, .mth ⟨true, 11, 5, 0x074C4⟩), (0xD52C7895#32, .sth ⟨true, 2, 6, 0x07895⟩),
      (0x569E7C66#32, .dh ⟨false, 9, 7, 0x07C66⟩), (0x57028037#32, .mh ⟨false, 0, 1, 0x08037⟩),
      (0xD8748408#32, .sh ⟨true, 7, 2, 0x08408⟩), (0xDAE687D9#32, .lch ⟨true, 14, 3, 0x087D9⟩),
      (0x5B588BAA#32, .lah ⟨false, 5, 4, 0x08BAA⟩)] :
      List (Word × Instr)), decodeWord p.1 = .ok p.2 := by
  decide +kernel

/-- Words written from the encodings of operation codes X'60' to X'7F' (30_encoding R171-R173, R181), every field filled. -/
theorem test_decode_60 :
    ∀ p ∈ ([
      (0x60C2BCBB#32, .cbs ⟨12, 0x2BCBB⟩), (0x6132DBAA#32, .mbs ⟨3, 0x2DBAA⟩),
      (0x63A2FA99#32, .ebs ⟨10, 0x2FA99⟩), (0x64129AEE#32, .bdr ⟨false, 1, 1, 0x09AEE⟩),
      (0x65849EBF#32, .bir ⟨false, 8, 2, 0x09EBF⟩), (0xE6F6A290#32, .awm ⟨true, 15, 3, 0x0A290⟩),
      (0xE768A661#32, .exu ⟨true, 6, 4, 0x0A661⟩), (0x68DAAA32#32, .bcr ⟨false, 13, 5, 0x0AA32⟩),
      (0x694CAE03#32, .bcs ⟨false, 4, 6, 0x0AE03⟩), (0xEABEB1D4#32, .bal ⟨true, 11, 7, 0x0B1D4⟩),
      (0xEB22B5A5#32, .int ⟨true, 2, 1, 0x0B5A5⟩), (0x6C94B976#32, .rd ⟨false, 9, 2, 0x0B976⟩),
      (0x6D06BD47#32, .wd ⟨false, 0, 3, 0x0BD47⟩), (0xEE78C118#32, .aio ⟨true, 7, 4, 0x0C118⟩),
      (0xEFEAC4E9#32, .mmc ⟨true, 14, 5, 0x0C4E9⟩), (0x705CC8BA#32, .lcf ⟨false, 5, 6, 0x0C8BA⟩),
      (0x71CECC8B#32, .cb ⟨false, 12, 7, 0x0CC8B⟩), (0xF232D05C#32, .lb ⟨true, 3, 1, 0x0D05C⟩),
      (0xF3A4D42D#32, .mtb ⟨true, 10, 2, 0x0D42D⟩), (0x7416D7FE#32, .stcf ⟨false, 1, 3, 0x0D7FE⟩),
      (0x7588DBCF#32, .stb ⟨false, 8, 4, 0x0DBCF⟩), (0xF6FADFA0#32, .pack ⟨true, 15, 5, 0x0DFA0⟩),
      (0xF76CE371#32, .unpk ⟨true, 6, 6, 0x0E371⟩), (0x78DEE742#32, .ds ⟨false, 13, 7, 0x0E742⟩),
      (0x7942EB13#32, .da ⟨false, 4, 1, 0x0EB13⟩), (0xFAB4EEE4#32, .dd ⟨true, 11, 2, 0x0EEE4⟩),
      (0xFB26F2B5#32, .dm ⟨true, 2, 3, 0x0F2B5⟩), (0x7C98F686#32, .dsa ⟨false, 9, 4, 0x0F686⟩),
      (0x7D0AFA57#32, .dc ⟨false, 0, 5, 0x0FA57⟩), (0xFE7CFE28#32, .dl ⟨true, 7, 6, 0x0FE28⟩),
      (0xFFEF01F9#32, .dst ⟨true, 14, 7, 0x101F9⟩)] :
      List (Word × Instr)), decodeWord p.1 = .ok p.2 := by
  decide +kernel

/-! ### Witnesses: states that meet the hypotheses of the statements -/

/-- Whether the state that a trap entry or an instruction needs is running: COMPUTE in RUN, no halt. -/
def started (s : State) : State := { s with compute := .run, halt := .none }

theorem canonical_words : ∀ (ws : List (Nat × Word)) (m : Memory), Memory.wf m = true → Memory.wf (putWords ws m) = true
  | [], _, h => h
  | (a, w) :: rest, _, h => canonical_words rest _ (Laws.wf_writeWordAt h (BitVec.ofNat 22 a) w)

theorem canonical_regs : ∀ (ws : List Word) (n : Nat) (s : State), MemCanonical s → MemCanonical (putRegs n ws s)
  | [], _, _, h => h
  | w :: rest, n, s, h => canonical_regs rest (n + 1) (setReg (BitVec.ofNat 4 n) w s) h

/-- The small states have canonical memory. -/
theorem small_canonical (rs : List Word) (ws : List (Nat × Word)) (p : Psd) : MemCanonical (small rs ws p) := by
  unfold small
  exact canonical_regs rs 0 _ (canonical_words ws [] rfl)

/-- Where no word has bad parity every place is sound. -/
theorem sound_of {s : State} (h : s.badParity = []) : ∀ l, Sound s l
  | .reg _ => trivial
  | .mem a => by simp [Sound, parityBad, h]

/-- A bounded condition on two numbers, checked. -/
theorem both_below {n : Nat} {p : Nat → Nat → Prop} (h : ∀ i, i < n → ∀ j, j < n → p i j) :
    ∀ i j, i < n → j < n → p i j := fun i j hi hj => h i hi j hj

/-- A condition on two numbers in order, checked. -/
theorem ordered_below {n : Nat} {p : Nat → Nat → Prop} (h : ∀ k, k < n → ∀ j, j < k → p j k) :
    ∀ j k, j < k → k < n → p j k := fun j k hj hk => h k hk j hj

/-- `DecodeEncode` at the four kinds of X'4F' word, HIO at the selector 111. -/
theorem witness_DecodeEncode :
    Instr.wellFormed (.hio (ref 15 0x1FFFF)) = true ∧ Instr.wellFormed (.rio (ref 0 0x04000)) = true ∧
    Instr.wellFormed (.polp (ref 1 0x0BFFF)) = true ∧ Instr.wellFormed (.polr (ref 2 0x0C000)) = true ∧
    Instr.wellFormed (.li ⟨0, 0xFFFFF⟩) = true := by decide

/-- `EncodeDecode` at the greatest word of X'4F' and of X'22'. -/
theorem witness_EncodeDecode :
    decodeWord 0xCFFFFFFF#32 = .ok (.hio ⟨true, 15, 7, 0x1FFFF⟩) ∧ decodeWord 0x22FFFFFF#32 = .ok (.li ⟨15, 0xFFFFF⟩) := by
  decide +kernel

/-- `ResetState`: the machine is idle after reset, and the bootstrap locations and the first word of memory exist; with a
map a STORE is to a register as well (virtual address X'2000F'); a running machine. -/
theorem witness_ResetState :
    State.reset.compute = .idle ∧ (started State.reset).compute ≠ .idle ∧
    (∀ k, k < 10 → memExists State.reset (homespaceBias State.reset (BitVec.ofNat 22 (0x22 + k))) = true) ∧
    (15#22).toNat < 16 ∧ 16 ≤ (16#22).toNat ∧ memExists State.reset (homespaceBias State.reset (actualAddr State.reset 16)) = true ∧
    { State.reset with psd := { Psd.reset with mm := true } }.psd.mm = true ∧ (0x2000F#22 &&& 0x1FFFF#22).toNat = 15 := by
  decide +kernel

/-- A running state whose next instruction, in location X'26', stores register 1 into location 20. -/
def storing : State := started (small [0, 7] [(0x26, 0x35100014#32)])

/-- `StepKeepsCanonical`, `StepKeepsPointer`: a state that steps to a next state which is another one. -/
theorem witness_StepKeeps :
    MemCanonical storing ∧ PointerInstalled storing ∧ storing.inputs = [] ∧
    (∀ es ∈ [[Event.interruptButton, .cpuReset]], ∀ e ∈ es, ∀ w, e ≠ .insert2 w) ∧ ∃ t, step storing = .next t ∧ decide (readWordAt t.mem 20 = 7) = true :=
  ⟨by unfold MemCanonical; decide +kernel, by unfold PointerInstalled; decide +kernel, by decide +kernel, by simp, of_ends (by decide +kernel)⟩

/-- With no events to come and no line up, a boundary changes nothing. -/
theorem quiet {s : State} (h : s.inputs = [] ∧ s.ioLine = false ∧ s.banks.any (fun b => b.mfi) = false) :
    takeInputs s = s := by
  simp only [takeInputs, levelLines, h.1, h.2.1, h.2.2, Bool.false_eq_true, if_false]

/-- A running state in whose location X'26' there is no instruction, and one in which an EXU has fetched a word. -/
def blank : State := started (small [] [])
def subject : State := { storing with pend := .subject 0x35100014#32 }

/-- `StepRunsInstruction`: an instruction, a word that is none, and the subject of an EXU. -/
theorem witness_StepRunsInstruction :
    (storing.pend = .none ∧ takeInputs storing = storing ∧ boundary storing = .instruction ∧ storing.snapArmed = false ∧
      storing.stale = none ∧ fetchWord storing = .ok 0x35100014#32 ∧
      decodeWord 0x35100014#32 = .ok (.stw (ref 1 20))) ∧
    (blank.pend = .none ∧ takeInputs blank = blank ∧ boundary blank = .instruction ∧
      blank.snapArmed = false ∧ blank.stale = none ∧ fetchWord blank = .ok 0#32 ∧
      decodeWord 0#32 = .error (.unassigned false)) ∧
    subject.pend = .subject 0x35100014#32 :=
  ⟨⟨rfl, quiet (by decide +kernel), by decide +kernel⟩, ⟨rfl, quiet (by decide +kernel), by decide +kernel⟩, rfl⟩

/-- Running with the ADDRESS STOP switches in INSTR, at X'26' and, with PAGE, at X'3F'. -/
def stopping (page : Bool) (at_ : WordAddr) : State := { storing with stopSwitches := ⟨.instr, at_, page, false⟩ }

/-- Virtual addressing with the next instruction in a page that is mapped beyond the installed memory. -/
def nowhere : State :=
  { storing with map := storing.map.set 2 256#13, psd := { storing.psd with mm := true, ia := 1024#17 } }

/-- `StepRunsInstruction`: the ADDRESS STOP with and without PAGE; an instruction that cannot be fetched. -/
theorem witness_StepRunsInstruction_stops :
    (∀ b ∈ [true, false], ∀ s, s = stopping b (if b then 0x3F#22 else 0x26#22) → s.pend = .none ∧ takeInputs s = s ∧
      s.compute = .run ∧ s.halt = .none ∧ nextInterrupt s = none ∧ s.stopSwitches.mode = .instr ∧ s.snapArmed = false ∧
      s.stoppedAt ≠ some (pc s) ∧ (pc s).toNat % 131072 / (if b then 512 else 1) =
        s.stopSwitches.select.toNat % 131072 / (if b then 512 else 1)) ∧
    (nowhere.pend = .none ∧ takeInputs nowhere = nowhere ∧ boundary nowhere = .instruction ∧ nowhere.snapArmed = false ∧
      fetchWord nowhere = .error (storageTrap true false 0)) ∧
    locate storing (pc storing) .fetch = .ok (.mem 0x26) := by
  refine ⟨?_, ⟨rfl, quiet (by decide +kernel), by decide +kernel⟩, by decide +kernel⟩
  rintro (_ | _) - s rfl
  · exact ⟨rfl, quiet (by decide +kernel), by decide +kernel⟩
  · exact ⟨rfl, quiet (by decide +kernel), by decide +kernel⟩

/-- Slave mode. -/
def slave : State := small [0, 7] [] { Psd.reset with ms := true }

/-- `SlaveModePrivileged`, `SlaveIsolation`: slave mode, in which an instruction goes on within it and another traps. -/
theorem witness_SlaveMode :
    slave.psd.ms = true ∧ (∃ t, exec (.stw (ref 1 20)) slave = .next t ∧ t.psd.ms = true) ∧
    ∃ t, exec (.lpsd (ref 1 20)) slave = .next t ∧ t.jumped = true :=
  ⟨by decide +kernel, of_ends (by decide +kernel), of_ends (by decide +kernel)⟩

/-- A state with an XPSD to location X'80' in the trap locations X'40' and X'43' and the interrupt location X'5C', and an
MTW of location X'85' in X'5D'; bits 8 and 9 of the first XPSD are 1. In X'42' an XPSD with bit 10, in X'46' one with bit 0
and its indirect word in X'90'. -/
def entries : State :=
  small [] [(0x40, 0x0FC00080#32), (0x43, 0x0F000080#32), (0x42, 0x0F200080#32), (0x46, 0x8F000090#32), (0x5C, 0x0F800080#32), (0x5D, 0x33F00085#32),
    (0x82, 0x10000123#32), (0x83, 0x00000010#32), (0x90, 0x00000080#32)] { Psd.reset with cc1 := true, ia := 0x1FFFF#17 }

/-- Location `a` exists, is not biased, can be written and has good parity. -/
def plain (s : State) (a : WordAddr) : Bool :=
  homespaceBias s a == a && memExists s a && keyOpens s.psd.wk (lockOf s a) && !parityBad s a

/-- The places of the entries are plain. -/
theorem entries_plain :
    [0x40#22, 0x42#22, 0x43#22, 0x46#22, 0x5C#22, 0x5D#22, 0x80#22, 0x81#22, 0x82#22, 0x83#22, 0x85#22].all (plain entries) = true := by
  decide +kernel

/-- The exchange at X'80' by an XPSD with bit 10 = 0. -/
theorem places_real {w : Word} (h : bit w 10 = false) (hr : EntryReal entries w 0x80#22) :
    EntryPlaces entries w (.mem 0x80) (.mem 0x81) (.mem 0x82) (.mem 0x83) :=
  ⟨fun _ => ⟨0x80#22, 0x80#22, hr, by unfold RealPlace; decide +kernel⟩, fun h' => absurd h' (by simp [h])⟩

/-- `TrapEntry`: a location that loads TCC, with bits 8 and 9 of the XPSD, one that does not, one with bit 10, and one with bit
0 for a processor detected fault; the locations are those of `entries_plain`. -/
theorem witness_TrapEntry :
    MemCanonical entries ∧ entries.pdf = false ∧ entries.inst.memoryFaultHalt = false ∧
    (∀ p ∈ [(0x40#8, 0x0FC00080#32), (0x43#8, 0x0F000080#32), (0x42#8, 0x0F200080#32), (0x46#8, 0x8F000090#32)],
      readWordAt entries.mem (p.1.zeroExtend 22) = p.2 ∧ opOf p.2 = 0x0F#7) ∧
    (∀ w ∈ [0x0FC00080#32, 0x0F000080#32, 0x0F200080#32, 0x8F000090#32],
      EntryPlaces entries w (.mem 0x80) (.mem 0x81) (.mem 0x82) (.mem 0x83)) ∧
    Sound entries (.mem 0x82) ∧ Sound entries (.mem 0x83) ∧ wordAt entries (.mem 0x82) = 0x10000123#32 ∧
    wordAt entries (.mem 0x83) = 0x00000010#32 ∧ rpInvalid entries (field 0x00000010#32 24 27) = false ∧
    runoutTrap.fault = some .watchdog ∧ runoutTrap.loc = 0x46#8 := by
  refine ⟨small_canonical _ _ _, by decide +kernel, by decide +kernel, by simp; decide +kernel, ?_,
    sound_of (by decide +kernel) _, sound_of (by decide +kernel) _, by decide +kernel⟩
  intro w hw
  simp only [List.mem_cons, List.not_mem_nil, or_false] at hw
  rcases hw with rfl | rfl | rfl | rfl
  · exact places_real (by decide) ⟨fun _ => by decide +kernel, fun h => absurd h (by decide)⟩
  · exact places_real (by decide) ⟨fun _ => by decide +kernel, fun h => absurd h (by decide)⟩
  · exact ⟨fun h => absurd h (by decide), fun _ => ⟨0x80#22, by decide +kernel⟩⟩
  · exact places_real (by decide) ⟨fun h => absurd h (by decide),
      fun _ => ⟨.mem 0x90, 0x80#32, by unfold RealPlace; decide +kernel, sound_of (by decide +kernel) _, by decide +kernel⟩⟩

/-- `SecondFaultHangs`: PDF clear, PDF set, a hung CPU, and the MEMORY FAULT switch in HALT. -/
theorem witness_SecondFaultHangs :
    entries.inst.memoryFaultHalt = false ∧
    { entries with inst := { entries.inst with memoryFaultHalt := true } }.inst.memoryFaultHalt = true ∧
    ({ loc := 0x4C#8, fault := some .dataBus } : Trap).fault = some .dataBus ∧
    { entries with halt := .memoryFault, pend := .trap { loc := 0x4C#8 } }.pend = .trap { loc := 0x4C#8 } ∧
    entries.pdf = false ∧ { entries with pdf := true }.pdf = true ∧
    (exceptionTrap 0b1100#4 0).fault = some .instructionException ∧ (exceptionTrap 0b1100#4 0).bankFault = none ∧
    { entries with halt := .hung }.halt = .hung ∧ { entries with halt := .hung }.pend = .none ∧
    { entries with halt := .hung }.inputs = [] := by
  decide +kernel

/-- A store into location 20, and a load from it, at X'26', with the ADDRESS STOP switches in MEM REF at location `at_`, with
PAGE and WRT. -/
def referring (w : Word) (at_ : WordAddr) (page write : Bool) : State :=
  { started (small [0, 7] [(0x26, w)]) with stopSwitches := ⟨.memRef, at_, page, write⟩ }

/-- `SecondFaultHangs`, the MEM REF halt: a load of the selected page, and a store into the selected word with WRT. -/
theorem witness_SecondFaultHangs_references :
    (∀ s, s = referring 0x32100014#32 0x1F#22 true false ∨ s = referring 0x35100014#32 20#22 false true →
      s.pend = .none ∧ takeInputs s = s ∧ boundary s = .instruction ∧ s.compute = .run ∧ s.snapArmed = false ∧
      s.stale = none ∧ s.stopSwitches.mode = .memRef ∧ effWordAddr s (ref 1 20) alignWord = .ok 20#22 ∧
      locate s 20#22 .read = .ok (.mem 20) ∧ locate s 20#22 .write = .ok (.mem 20) ∧ parityBad s 20#22 = false) ∧
    fetchWord (referring 0x32100014#32 0x1F#22 true false) = .ok 0x32100014#32 ∧
    fetchWord (referring 0x35100014#32 20#22 false true) = .ok 0x35100014#32 ∧
    decodeWord 0x32100014#32 = .ok (.lw (ref 1 20)) ∧ decodeWord 0x35100014#32 = .ok (.stw (ref 1 20)) ∧
    20 / 512 = 0x1F / 512 := by
  refine ⟨?_, by decide +kernel⟩
  rintro s (rfl | rfl)
  · exact ⟨rfl, quiet (by decide +kernel), by decide +kernel⟩
  · exact ⟨rfl, quiet (by decide +kernel), by decide +kernel⟩

/-- The MEM REF halt (R715): a load and a store of the selected word; with WRT the store alone; the fetch counts; another
word does not. -/
theorem test_memRef :
    (ends (step (referring 0x32100014#32 20#22 false false)) (fun t => t.halt == .addressStop && t.psd.ia == 0x27#17) &&
      ends (step (referring 0x35100014#32 20#22 false false)) (fun t => t.halt == .addressStop) &&
      ends (step (referring 0x35100014#32 20#22 false true)) (fun t => t.halt == .addressStop) &&
      ends (step (referring 0x32100014#32 20#22 false true)) (fun t => t.halt == .none) &&
      ends (step (referring 0x32100014#32 0x26#22 false false)) (fun t => t.halt == .addressStop) &&
      ends (step (referring 0x32100014#32 21#22 false false)) (fun t => t.halt == .none)) = true := by
  decide +kernel

/-- The same with a word of bad parity, whose bank holds an address already (R537). -/
def reachingBad (w : Word) (at_ : WordAddr) (bad : Nat) : State :=
  { referring w at_ false false with badParity := [bad], banks := [{ freshBank 0 with snap := some 5, mfi := true }] }

/-- The addresses that the banks hold after one instruction. -/
def snapshots (s : State) : Option (List (Option WordAddr)) :=
  match runInstruction s with
  | .next t => some (t.banks.map (·.snap))
  | _ => none

theorem accesses_of_snapshots {s : State} {ws : List Nat} {x y : List (Option WordAddr)}
    (hx : snapshots (faultsCleared s) = some x) (hy : snapshots (invertParity ws (faultsCleared s)) = some y)
    (h : x ≠ y) : accesses runInstruction ws s = true := by
  unfold snapshots at hx hy
  split at hx
  · split at hy
    · cases hx
      cases hy
      exact Laws.accesses_of_snap (by assumption) (by assumption) h
    · cases hy
  · cases hx

/-- The references at which MEM REF stops before a read of bad parity ends the instruction: the fetch of a load, and the
first word of a doubleword (R715). -/
theorem test_memRef_before_bad_parity :
    accesses runInstruction [0x26] (reachingBad 0x32100014#32 0x26#22 20) = true ∧
    accesses runInstruction [20] (reachingBad 0x12200014#32 20#22 21) = true := by
  constructor
  · exact accesses_of_snapshots (x := [some 20]) (y := [some 0x26]) (by decide +kernel) (by decide +kernel) (by decide)
  · exact accesses_of_snapshots (x := [some 21]) (y := [some 20]) (by decide +kernel) (by decide +kernel) (by decide)

/-- STEP of a hung CPU leaves it idle, so that CPU RESET works; a stepped load that the MEMORY FAULT switch stops leaves the
CPU idle with its trap pending (R710, R716). -/
theorem test_stepOne_stopped :
    (ends (step { blank with compute := .idle, halt := .hung, inputs := [[.stepOne], [.cpuReset]] })
        (fun t => t.compute == .idle && ends (step t) (fun u => u.halt == .waiting)) &&
      ends (step { reachingBad 0x32100014#32 0#22 20 with
          compute := .step, inst := { Config.basic with memoryFaultHalt := true } })
        (fun t => t.compute == .idle && t.halt == .memoryFault && t.pend != .none)) = true := by
  decide +kernel

/-- `SecondFaultHangs`, the STEP switch: an EXU that has been stepped up to its subject. -/
theorem witness_SecondFaultHangs_step :
    ∃ s, s = { started (small [] [(0x26, 0x67000014#32)]) with compute := .step } ∧ s.pend = .none ∧ s.inputs = [] ∧
      s.compute = .step ∧ ∃ t, step s = .next t ∧ (t.compute == .step && t.pend != .none) = true :=
  ⟨_, rfl, rfl, rfl, rfl, of_ends (by decide +kernel)⟩

/-- A first-phase runout is taken after an instruction that completed, and dropped after one that trapped (R657, U19). -/
theorem test_runout :
    (applyEvent .watchdogPhase1 { storing with completed := true }).pend = .trap runoutTrap ∧
    (applyEvent .watchdogPhase1 (enterTrap { loc := 0x43#8 } { started entries with completed := true })).pend = .none := by
  decide +kernel

/-- Two armed and enabled levels, the I/O level X'5C' and the panel level X'5D', of which some are waiting, in `entries`
with its next instruction at X'40'. -/
def interrupted (waiting : BitVec 16) (h : Halt) : State :=
  { entries with
    compute := .run, halt := h, jumped := false, psd := { entries.psd with ia := 0x40#17 }
    ints := { entries.ints with internal := ⟨0x0030#16, waiting, 0x0030#16⟩ } }

/-- `InterruptEntry`, the step: taken while waiting and while running. -/
theorem witness_InterruptEntry_step :
    ∀ h ∈ [Halt.waiting, .none],
      (interrupted 0x0020#16 h).pend = .none ∧ (interrupted 0x0020#16 h).inputs = [] ∧
      takeInputs (interrupted 0x0020#16 h) = interrupted 0x0020#16 h ∧ (interrupted 0x0020#16 h).compute = .run ∧
      nextInterrupt (interrupted 0x0020#16 h) = some levelIo ∧ (interrupted 0x0020#16 h).halt = h ∧
      anticipatedTrap (interrupted 0x0020#16 h) = none := by
  intro h hm
  simp only [List.mem_cons, List.not_mem_nil, or_false] at hm
  rcases hm with rfl | rfl
  · exact ⟨rfl, rfl, quiet (by decide +kernel), by decide +kernel⟩
  · exact ⟨rfl, rfl, quiet (by decide +kernel), by decide +kernel⟩

/-- `InterruptEntry`, the entry: an XPSD with bit 8, and an MTW by -1 at a level that is no counter's; the places are
those of `entries_plain`. -/
theorem witness_InterruptEntry :
    MemCanonical (interrupted 0x0020#16 .none) ∧ (interrupted 0x0020#16 .none).pend = .none ∧
    (levelIo.loc = 0x5C#22 ∧ readWordAt (interrupted 0x0020#16 .none).mem 0x5C#22 = 0x0F800080#32 ∧
      bit 0x0F800080#32 8 = true ∧ opOf 0x0F800080#32 = 0x0F#7 ∧
      rpInvalid (interrupted 0x0020#16 .none) (field 0x00000010#32 24 27) = false) ∧
    EntryPlaces (interrupted 0x0020#16 .none) 0x0F800080#32 (.mem 0x80) (.mem 0x81) (.mem 0x82) (.mem 0x83) ∧
    (levelPanel.loc = 0x5D#22 ∧ readWordAt (interrupted 0x0010#16 .none).mem 0x5D#22 = 0x33F00085#32 ∧
      CounterOperand (interrupted 0x0010#16 .none) levelPanel 0x33F00085#32 (.mem 0x85#22) 0 ∧
      Counted 0x33#7 0 0xF#4 0#32 0xFFFFFFFF#32 false) := by
  refine ⟨by unfold MemCanonical; decide +kernel, by decide +kernel, by decide +kernel, ?_, by decide +kernel,
    by decide +kernel,
    ⟨by decide +kernel, by unfold Sound; decide +kernel, fun _ => ⟨rfl, _, rfl, by decide +kernel⟩,
      fun h => absurd h (by decide +kernel)⟩, .inr (.inr (by decide +kernel))⟩
  exact ⟨fun _ => ⟨0x80#22, 0x80#22, ⟨fun _ => by decide +kernel, fun h => absurd h (by decide)⟩,
    by unfold RealPlace; decide +kernel⟩, fun h => absurd h (by decide)⟩

/-- Counter 1 with an MTH by 1 at location X'85', whose first halfword is -1, and counter 4 with an MTB by -1 at register 3,
whose first byte is 1. -/
def counting : State :=
  small [0, 0, 0, 0x01000000#32] [(0x52, 0x53100085#32), (0x55, 0x73F00003#32), (0x85, 0xFFFF1234#32)]

/-- `InterruptEntry`, the counters: a halfword and a byte that become zero. -/
theorem witness_InterruptEntry_counters :
    MemCanonical counting ∧
    CounterOperand counting ⟨.internal, 0⟩ 0x53100085#32 (.mem 0x85#22) 0 ∧
    Counted 0x53#7 0 1#4 0xFFFF1234#32 0x00001234#32 true ∧
    CounterOperand counting ⟨.internal, 3⟩ 0x73F00003#32 (.reg 3) 0 ∧
    Counted 0x73#7 0 0xF#4 0x01000000#32 0#32 true := by
  refine ⟨small_canonical _ _ _,
    ⟨by decide +kernel, by unfold Sound; decide +kernel, fun _ => ⟨rfl, _, rfl, by decide +kernel⟩,
      fun h => absurd h (by decide +kernel)⟩,
    .inr (.inl ⟨rfl, 0, by decide +kernel⟩),
    ⟨by decide +kernel, trivial, fun h => absurd (by decide +kernel) h, fun _ => ⟨12, by decide +kernel⟩⟩,
    .inl (by decide +kernel)⟩

/-- Real addressing with a few registers and words, the arithmetic mask on. -/
def bench : State :=
  small [0, 1, 0x80000000#32, 0xFFFFFFFF#32, 0x00000003#32, 0x7FFFFFFF#32, 0x0000FFFF#32, 40]
    [(20, 0x80000000#32), (21, 0x00000000#32), (22, 0x80FF7F01#32), (23, 0x00000016#32), (24, 0xFFFFFFFF#32),
     (25, 0x00000000#32), (26, 0x00000007#32)] { Psd.reset with am := true, cc1 := true }

/-- The bench with a condition code. -/
def benchCC (c : BitVec 4) : State := setCC c bench

/-- Virtual addressing in master-protected mode: page 0 is open, page 1 may be neither read nor written, page 2 is mapped
beyond the installed memory; and the real page 3 is locked. -/
def guarded : State :=
  { bench with
    acc := bench.acc.set 1 3#2, map := bench.map.set 2 256#13, lock := bench.lock.set 3 2#2
    psd := { bench.psd with mm := true, ma := true, wk := 1 } }

/-- Real extended addressing with an extension address. -/
def extended : State := { bench with psd := { bench.psd with ma := true, ea := 1 } }

/-- `AccessPath`: a register at the end of its range, memory at its beginning, a page closed to reading, a locked page, and
an address beyond the last bank. -/
theorem witness_AccessPath :
    (15#22).toNat < 16 ∧ 16 ≤ (16#22).toNat ∧ memExists bench 131071#22 = true ∧ memExists bench 131072#22 = false ∧
    (512 ≤ (512#22).toNat ∧ guarded.psd.mm = true ∧ guarded.acc[1] = 3) ∧
    (guarded.psd.mm = true ∧ memExists guarded (mapped guarded 1024#22) = false) ∧
    (guarded.lock[3] = 2 ∧ guarded.psd.wk = 1) := by
  decide +kernel

/-- `EffectiveAddress`: direct, indirect, indexed, in real and in real extended addressing, at each alignment. -/
theorem witness_EffectiveAddress :
    3 < 4 ∧ (ref 1 20).ind = false ∧ (⟨true, 1, 7, 23⟩ : MR).ind = true ∧
    readWord bench (directRef bench ⟨true, 1, 7, 23⟩) = .ok 0x00000016#32 ∧ realExtended bench = false ∧
    readWord extended (directRef extended ⟨true, 1, 7, 23⟩) = .ok 0x00000016#32 ∧ realExtended extended = true ∧
    bit 0x00000016#32 0 = false ∧ bitOf 0x1FFFF#17 0 = true := by
  decide +kernel

/-- `MemoryExtensional` at a memory that is not empty. -/
theorem witness_MemoryExtensional : Memory.wf [(64, 1#8), (65, 2#8)] = true ∧ Memory.wf [(64, 0#8)] = false := by decide

/-- Operands of each size at the ends of their ranges: `LoadWords`, `LoadComplementAbsolute`, `LoadDoubles`, `Logical`,
`Compare`, `AddSubtractWords`, `AddSubtractDoubles`, `Multiply`, `FloatingArithmetic`, and the arithmetic mask both ways. -/
theorem witness_operands :
    operandByte bench ⟨false, 1, 0, 22⟩ = .ok 0x80#8 ∧ operandHalf bench (ref 1 20) = .ok 0x8000#16 ∧
    operandHalf bench ⟨false, 1, 1, 22⟩ = .ok 0x7F01#16 ∧ operandWord bench (ref 1 20) = .ok 0x80000000#32 ∧
    operandWord bench (ref 1 2) = .ok 0x80000000#32 ∧ operandDword bench (ref 2 20) = .ok 0x8000000000000000#64 ∧
    operandDword bench (ref 2 25) = .ok 0xFFFFFFFF00000000#64 ∧
    oddR 2#4 = false ∧ oddR 3#4 = true ∧ bench.psd.am = true ∧ slave.psd.am = false ∧
    operandWord slave (ref 1 20) = .ok 0 := by
  decide +kernel

/-- `LoadSelectiveAndControls`: masks of even and odd registers, and a control byte. -/
theorem witness_LoadSelective :
    (operandWord bench (ref 3 20) = .ok 0x80000000#32 ∧ oddR 3#4 = true ∧
      0x80000000#32 = 0x80000000#32 &&& getReg bench 3) ∧
    (operandWord bench (ref 2 22) = .ok 0x80FF7F01#32 ∧ oddR 2#4 = false ∧ ∀ k, k < 32 →
      (0x80FF7F01#32).getLsbD k = if (getReg bench (2 + 1)).getLsbD k then (0x80FF7F01#32).getLsbD k
        else (getReg bench 2).getLsbD k) ∧
    (ref 3 22).r = 3#4 ∧ operandByte bench (ref 3 22) = .ok 0x80#8 := by
  decide +kernel

/-- `ExchangeAndSet`, `StoreWords`, `StoreParts`: the last register, the first word of memory, and for LAS and LMS the
memory word under a register's address. -/
theorem witness_stores :
    MemCanonical bench ∧ (∀ l, Sound bench l) ∧
    (effWordAddr bench (ref 2 15) alignWord = .ok 15 ∧ locate bench 15 .write = .ok (.reg 15) ∧ wordAt bench (.reg 15) = 0) ∧
    (effWordAddr bench (ref 2 16) alignWord = .ok 16 ∧ locate bench 16 .write = .ok (.mem 16) ∧ wordAt bench (.mem 16) = 0) ∧
    (effWordAddr bench (ref 2 0) alignWord = .ok 0 ∧ locateMemory bench 0 .write = .ok 0 ∧ parityBad bench 0 = false ∧
      readWordAt bench.mem 0 = 0) ∧
    (effAddr bench ⟨false, 2, 1, 22⟩ alignByte = .ok 89 ∧ wordOf 89 = 22 ∧ locate bench 22 .write = .ok (.mem 22)) ∧
    (effAddr bench ⟨false, 2, 1, 22⟩ alignHalf = .ok 90 ∧ wordOf 90 = 22) ∧
    0xFFFFFFFF#32 = getReg bench 3 ||| wordAt bench (.mem 16) ∧
    ∀ k, k < 32 → (0x80FF7F01#32).getLsbD k = if (getReg bench (2 + 1)).getLsbD k then (0x80FF7F01#32).getLsbD k
      else (wordAt bench (.mem 16)).getLsbD k :=
  ⟨small_canonical _ _ _, sound_of (by decide +kernel), by decide +kernel⟩

/-- `StoreDouble` over registers 14 and 15 and over memory. -/
theorem witness_StoreDouble :
    MemCanonical bench ∧ effWordAddr bench (ref 2 15) alignDword = .ok 14 ∧ locate bench 14 .write = .ok (.reg 14) ∧
    locate bench (14 + 1) .write = .ok (.reg 15) ∧ effWordAddr bench (ref 3 16) alignDword = .ok 16 ∧
    locate bench 16 .write = .ok (.mem 16) ∧ locate bench (16 + 1) .write = .ok (.mem 17) :=
  ⟨small_canonical _ _ _, by decide +kernel⟩

/-- `LoadMultiple` and `StoreMultiple` with 16 words, from register 5 round, and with 1. -/
theorem witness_multiple :
    (MemCanonical (benchCC 0) ∧ effWordAddr (benchCC 0) (ref 5 30) alignWord = .ok 30 ∧ ccOf (benchCC 0) = 0 ∧
      NoOverlap (benchCC 0) 30 5 16 ∧ (∀ k, k < 16 → readWord (benchCC 0) (wordPlus (benchCC 0) 30 k) = .ok 0) ∧
      (∀ k, k < 16 → locate (benchCC 0) (wordPlus (benchCC 0) 30 k) .write = .ok (.mem (BitVec.ofNat 22 (30 + k)))) ∧
      ∀ j k, j < k → k < 16 → Loc.mem (BitVec.ofNat 22 (30 + j)) ≠ .mem (BitVec.ofNat 22 (30 + k))) ∧
    (effWordAddr (benchCC 1) (ref 5 6) alignWord = .ok 6 ∧ (ccOf (benchCC 1)).toNat = 1 ∧ ccOf (benchCC 1) ≠ 0 ∧
      NoOverlap (benchCC 1) 6 5 1 ∧ (∀ k, k < 1 → readWord (benchCC 1) (wordPlus (benchCC 1) 6 k) = .ok 0x0000FFFF#32) ∧
      ∀ k, k < 1 → locate (benchCC 1) (wordPlus (benchCC 1) 6 k) .write = .ok (.reg 6)) :=
  ⟨⟨by unfold MemCanonical; decide +kernel, by decide +kernel, by decide +kernel, both_below (by decide +kernel),
      by decide +kernel, by decide +kernel, ordered_below (by decide +kernel)⟩,
    by decide +kernel, by decide +kernel, by decide +kernel, both_below (by decide +kernel), by decide +kernel,
    by decide +kernel⟩

/-- Instruction words to analyze, one of each group: CBS, LI, LB, LH, LW and LD, of location 20. -/
def analyzed : State :=
  small [0, 1] [(30, 0x60000014#32), (31, 0x22000014#32), (32, 0x72000014#32), (33, 0x52000014#32), (34, 0x32000014#32),
    (35, 0x12000014#32)]

/-- `AnalyzeInterpret`. -/
theorem witness_AnalyzeInterpret :
    (operandWord analyzed (ref 1 30) = .ok 0x60000014#32 ∧ groupOfOp (opOf 0x60000014#32) = .immediateByte) ∧
    (operandWord analyzed (ref 1 31) = .ok 0x22000014#32 ∧ groupOfOp (opOf 0x22000014#32) = .immediateWord) ∧
    (operandWord analyzed (ref 1 32) = .ok 0x72000014#32 ∧ groupOfOp (opOf 0x72000014#32) = .byte ∧
      effAddr analyzed (refOf 0x72000014#32) alignByte = .ok 80) ∧
    (operandWord analyzed (ref 1 33) = .ok 0x52000014#32 ∧ groupOfOp (opOf 0x52000014#32) = .half ∧
      effAddr analyzed (refOf 0x52000014#32) alignHalf = .ok 80) ∧
    (operandWord analyzed (ref 1 34) = .ok 0x32000014#32 ∧ groupOfOp (opOf 0x32000014#32) = .word ∧
      effAddr analyzed (refOf 0x32000014#32) alignWord = .ok 80) ∧
    (operandWord analyzed (ref 1 35) = .ok 0x12000014#32 ∧ groupOfOp (opOf 0x12000014#32) = .dword ∧
      effAddr analyzed (refOf 0x12000014#32) alignDword = .ok 80) ∧
    (guarded.psd.ms = false ∧ guarded.psd.mm = true ∧ guarded.psd.ma = true ∧
      effWordAddr guarded (ref 1 512) alignWord = .ok 512 ∧ readWord guarded 512 = .error (storageTrap false true 1) ∧
      effWordAddr guarded ⟨true, 1, 0, 512⟩ alignWord = .error (storageTrap false true 1)) ∧
    readWord { guarded with badParity := [20] } 20 = .error (parityTrap 0x40000000#32 20) ∧
    (operandWord { guarded with mem := writeWordAt guarded.mem 30 0xB2000200#32 } (ref 1 30) = .ok 0xB2000200#32 ∧
      groupOfOp (opOf 0xB2000200#32) = .word ∧ bit 0xB2000200#32 0 = true ∧ directRef guarded (refOf 0xB2000200#32) = 512) := by
  decide +kernel

/-- `Divide`: quotients at both ends of the range, beyond it, and a zero divisor. -/
theorem witness_Divide :
    (operandHalf bench ⟨false, 2, 1, 24⟩ = .ok 0xFFFF#16 ∧ getReg bench 2 = 0x80000000#32 ∧
      (0x80000000#32).toInt.tdiv (0xFFFF#16).toInt = 2 ^ 31) ∧
    (operandHalf bench (ref 2 25) = .ok 0#16 ∧ (0#16).toInt = 0) ∧
    (operandHalf bench ⟨false, 5, 1, 26⟩ = .ok 7#16 ∧ (7#16).toInt ≠ 0 ∧ getReg bench 5 = 0x7FFFFFFF#32) ∧
    (operandWord bench (ref 4 20) = .ok 0x80000000#32 ∧ oddR 4#4 = false ∧
      getReg bench 4 ++ getReg bench (4 + 1) = 0x000000037FFFFFFF#64 ∧
      (0x000000037FFFFFFF#64).toInt.tdiv (0x80000000#32).toInt = -6) ∧
    (operandWord bench (ref 3 21) = .ok 0#32 ∧ oddR 3#4 = true) ∧
    (operandWord bench (ref 4 26) = .ok 7#32 ∧ (0x000000037FFFFFFF#64).toInt.tdiv 7 = 2 ^ 31 - 1) ∧
    (operandWord bench (ref 4 24) = .ok 0xFFFFFFFF#32 ∧ (0x000000037FFFFFFF#64).toInt.tdiv (-1) < -2 ^ 31) := by
  decide +kernel

/-- `ModifyMemory`: a word, a byte and a halfword, with R fields 0 and not 0, the register 15 as a place. -/
theorem witness_ModifyMemory :
    MemCanonical bench ∧ (∀ l, Sound bench l) ∧
    (effWordAddr bench (ref 15 20) alignWord = .ok 20 ∧ locate bench 20 .write = .ok (.mem 20) ∧
      wordAt bench (.mem 20) = 0x80000000#32 ∧ (15#4) ≠ 0 ∧ (0x80000000#32).toInt + (15#4).toInt = -2 ^ 31 - 1) ∧
    (effWordAddr bench (ref 15 15) alignWord = .ok 15 ∧ locate bench 15 .write = .ok (.reg 15)) ∧
    (effAddr bench ⟨false, 15, 1, 22⟩ alignByte = .ok 89 ∧ locate bench (wordOf 89) .write = .ok (.mem 22) ∧
      (89#24).extractLsb' 0 2 = 1#2 ∧ byteAt bench (.mem 22) 1 = 0xFF#8) ∧
    (effAddr bench ⟨false, 1, 1, 22⟩ alignHalf = .ok 90 ∧ locate bench (wordOf 90) .write = .ok (.mem 22) ∧
      (90#24).extractLsb' 1 1 = 1#1 ∧ halfOf (wordAt bench (.mem 22)) 1 = 0x7F01#16) ∧
    (operandWord bench (ref 0 20) = .ok 0x80000000#32 ∧ operandByte bench (ref 0 20) = .ok 0x80#8 ∧
      operandHalf bench (ref 0 20) = .ok 0x8000#16) :=
  ⟨small_canonical _ _ _, sound_of (by decide +kernel), by decide +kernel⟩

/-- `Shift`: the control word in the address, and through an indirect word; each type, one word and two, left and right; a
search that stops at the first place, in between and at the count. -/
theorem witness_Shift :
    (shiftControl bench (ref 2 0x00105) = .ok 0x00105#17 ∧ (0x00105#17).extractLsb' 9 2 = 0#2 ∧
      (0x00105#17).getLsbD 8 = true) ∧
    (shiftControl bench (ref 2 0x0047F) = .ok 0x0047F#17 ∧ (0x0047F#17).extractLsb' 9 2 = 2#2 ∧
      (0x0047F#17).getLsbD 8 = false ∧ ((0x0047F#17).extractLsb' 0 7).toInt = -1) ∧
    (shiftControl bench ⟨true, 2, 0, 23⟩ = .ok 0x00016#17) ∧
    (shiftControl bench (ref 4 0x00620) = .ok 0x00620#17 ∧ (0x00620#17).extractLsb' 9 2 = 3#2 ∧ getReg bench 4 = 3 ∧
      (∀ j, j < 30 → (shiftedBy 1 false (3#32) j).msb = false) ∧ (shiftedBy 1 false (3#32) 30).msb = true ∧
      30 ≤ ((0x00620#17).extractLsb' 0 7).toInt.natAbs) ∧
    (shiftControl bench (ref 8 0x00764) = .ok 0x00764#17 ∧ (0x00764#17).extractLsb' 9 2 = 3#2 ∧
      (0x00764#17).getLsbD 8 = true ∧ ((0x00764#17).extractLsb' 0 7).toInt.natAbs = 28 ∧
      getReg bench 8 ++ getReg bench (ru1 8) = 0#64 ∧ ∀ j, j < 28 → (shiftedBy 1 true (0#64) j).msb = false) ∧
    (shiftedBy 1 false (getReg bench 2) 0).msb = true := by
  decide +kernel

/-- `FloatingShift`: a short number shifted left to its normal form, by the whole count and to the end of the
characteristic, and right by the count and past the end of the characteristic; a zero fraction; both control words. -/
theorem witness_FloatingShift :
    ((0x42001000#32).toNat / 2 ^ 24 % 128 = 0x42 ∧ (0x42001000#32).toNat % 2 ^ 24 = 0x1000 ∧
      (∀ j, j < 2 → 0x1000 * 16 ^ j < 2 ^ 20 ∧ j ≤ 0x42) ∧ 2 ^ 20 ≤ 0x1000 * 16 ^ 2 ∧ 2 ≤ (5#7).toInt.natAbs ∧
      (5#7).msb = false ∧ (∀ j, j < 1 → 0x1000 * 16 ^ j < 2 ^ 20 ∧ j ≤ 0x42) ∧ (1#7).toInt.natAbs = 1) ∧
    ((0x00001000#32).toNat / 2 ^ 24 % 128 = 0 ∧ (∀ j, j < 1 → 0x1000 * 16 ^ j < 2 ^ 20 ∧ j ≤ 0) ∧ 1 = 0 + 1) ∧
    ((0x7E000000#32).toNat % 2 ^ 24 = 0) ∧
    ((0x7E#7).msb = true ∧ (0x7E#7).toInt.natAbs = 2 ∧ min 2 (128 - 0x7F) = 1 ∧ min 2 (128 - 0x42) = 2) ∧
    (shiftControl bench (ref 2 0x0007E) = .ok 0x0007E#17 ∧ (0x0007E#17).getLsbD 8 = false) ∧
    (shiftControl bench (ref 2 0x00105) = .ok 0x00105#17 ∧ (0x00105#17).getLsbD 8 = true) := by
  decide +kernel

/-- `Convert`: a table of 32 words, selected by the first and the last bit; what a subtraction leaves. -/
theorem witness_Convert :
    (effWordAddr bench (ref 4 20) alignWord = .ok 20 ∧ getReg bench (ru1 4) = 0x7FFFFFFF#32) ∧
    (effWordAddr bench (ref 2 20) alignWord = .ok 20 ∧ getReg bench (ru1 2) = 0xFFFFFFFF#32) ∧
    (∀ k, k < 32 → readWord bench (wordPlus bench 20 k) = .ok (readWordAt bench.mem (BitVec.ofNat 22 (20 + k)))) ∧
    (∃ left : Nat → Nat, left 0 = (getReg bench 2).toNat ∧ ∀ k, k < 32 →
      left (k + 1) = if (readWordAt bench.mem (BitVec.ofNat 22 (20 + k))).toNat ≤ left k
        then left k - (readWordAt bench.mem (BitVec.ofNat 22 (20 + k))).toNat else left k) :=
  ⟨by decide +kernel, by decide +kernel, by decide +kernel,
    Nat.rec (getReg bench 2).toNat (fun k l => if (readWordAt bench.mem (BitVec.ofNat 22 (20 + k))).toNat ≤ l
      then l - (readWordAt bench.mem (BitVec.ofNat 22 (20 + k))).toNat else l), rfl, fun _ _ => rfl⟩

/-- `FloatingArithmetic`, operands of both lengths (with `witness_operands`), the controls both ways, and sums: 1 + 1, one
past the greatest characteristic, a zero, five postnormalizing shifts (at characteristics 0 and 64) and none. -/
theorem witness_FloatingArithmetic :
    bench.psd.fn = false ∧ { bench.psd with fn := true, fz := true, fs := true }.fn = true ∧
    (characteristicOf 6 0x41100000#32 = 0x41 ∧ fractionOf 6 0x41100000#32 = 2 ^ 20 ∧ 0x1000000 + 0x1000000 < 16 ^ 7 ∧
      16 ^ 6 ≤ 0x2000000 * 16 ^ 0) ∧
    (characteristicOf 6 0x7FFFFFFF#32 = 127 ∧ 16 ^ 7 ≤ fractionOf 6 0x7FFFFFFF#32 * 16 + fractionOf 6 0x7FFFFFFF#32 * 16 ∧
      127 < 127 + 1) ∧
    (fractionOf 6 0x40100000#32 = 2 ^ 20 ∧ fractionOf 6 (-0x400FFFFF#32) = 0xFFFFF ∧ (-0x400FFFFF#32).toInt < 0 ∧
      characteristicOf 6 (-0x400FFFFF#32) = 64 ∧ characteristicOf 6 (-0x000FFFFF#32) = 0 ∧
      16 ^ 6 ≤ (0x1000000 - 0xFFFFF0) * 16 ^ 5 ∧ (0x1000000 - 0xFFFFF0) * 16 ^ 5 < 16 ^ 7 ∧ 2 < 5) ∧
    characteristicOf 14 0x4110000000000000#64 = 0x41 ∧ fractionOf 14 0x4110000000000000#64 = 2 ^ 52 := by
  decide +kernel

/-- `FloatingArithmetic`, products and quotients: of 1 and 1, of the greatest and of the least characteristic, with one and
with no place of postnormalization; operands of a zero fraction. -/
theorem witness_FloatingArithmetic_products :
    (16 ^ 5 ≤ (2 ^ 20 * 2 ^ 20) / 16 ^ 5 ∧ (2 ^ 20 * 2 ^ 20) / 16 ^ 5 < 16 ^ 6 ∧ (0x41 + 0x41 - 64 - 6 + 5 : Int) = 0x41) ∧
    (16 ^ 5 ≤ (0xFFFFFF * 0xFFFFFF) / 16 ^ 6 ∧ (0xFFFFFF * 0xFFFFFF) / 16 ^ 6 < 16 ^ 6 ∧
      127 < (127 + 127 - 64 - 6 + 6 : Int) ∧ (0 + 0 - 64 - 6 + 6 : Int) < 0) ∧
    (16 ^ 5 ≤ (1 * 1) * 16 ^ 5 ∧ (1 * 1) * 16 ^ 5 < 16 ^ 6) ∧
    (16 ^ 5 ≤ 2 ^ 20 * 16 ^ 5 / 2 ^ 20 ∧ 2 ^ 20 * 16 ^ 5 / 2 ^ 20 < 16 ^ 6 ∧ (0x41 - 0x41 + 64 + 6 - 5 : Int) = 0x41 ∧
      127 < (127 - 0 + 64 + 6 - 5 : Int) ∧ (0 - 127 + 64 + 6 - 5 : Int) < 0) ∧
    fractionOf 6 0x41000000#32 = 0 ∧ fractionOf 6 0x80000000#32 = 0 := by
  decide +kernel
/-- A state with a decimal accumulator and packed operands in locations 20 on: +123 and -5 in two bytes, an illegal digit,
a zero, the zoned +123, and a zero divisor; and +1 in the sixteen bytes from location 28. -/
def decimal (d1 d0 : Word) : State :=
  small [0, 0, 0, 0, 0, 0, 0, 40, 0, 0, 0, 0, d1, d1, d1, d0]
    [(20, 0x123C005D#32), (21, 0x1A3C0000#32), (22, 0xF1F2C300#32), (23, 0x0000000C#32), (31, 0x0000001C#32)]

/-- Two bytes. -/
def pair (a b : Byte) (k : Nat) : Byte := if k = 0 then a else b

/-- `DecimalLoad`, `DecimalArithmetic`, `DecimalDivideCompare`: operands of 2 and of 16 bytes and a zoned one; accumulators
+12, +(10^31 - 1), illegal past the sign, and with more than 15 digits. -/
theorem witness_Decimal :
    HasDecimal (decimal 0 0x0000012C#32) ∧ BytesRead (decimal 0 0x0000012C#32) (ref 2 20) 2 (pair 0x12 0x3C) ∧
    BytesRead (decimal 0 0x0000012C#32) (ref 0 28) 16 (fun k => if k = 15 then 0x1C else 0) ∧
    BytesRead (decimal 0 0x0000012C#32) (ref 2 22) 3 (fun k => if k = 0 then 0xF1 else if k = 1 then 0xF2 else 0xC3) ∧
    (2 = (if (ref 2 20).r = 0 then 16 else (ref 2 20).r.toNat) ∧ numberOf (pair 0x12 0x3C) 2 = 0x123C ∧
      legalPacked 0x123C = true) ∧
    (numberOf (fun k => if k = 15 then 0x1C else 0) 16 = 0x1C ∧ legalPacked 0x1C = true) ∧
    (16 * lowNibbles (fun k => if k = 0 then 0xF1 else if k = 1 then 0xF2 else 0xC3) 3 + 0xC3 / 16 = 0x123C) ∧
    (getDeca (decimal 0 0x0000012C#32)).toNat = 0x12C ∧ legalPacked 0x12C = true ∧ (0x12C : Nat) < 2 ^ 64 ∧
    legalPacked (getDeca (decimal 0x99999999#32 0x9999999C#32)).toNat = true ∧
    packedInt (getDeca (decimal 0x99999999#32 0x9999999C#32)).toNat + 1 = 10 ^ 31 ∧
    10 ^ 15 ≤ ((packedInt (getDeca (decimal 0x99999999#32 0x9999999C#32)).toNat).tdiv 123).natAbs ∧
    (anySign 32 (getDeca (decimal 0 0x00000A2C#32)).toNat = true ∧
      legalPacked (getDeca (decimal 0 0x00000A2C#32)).toNat = false) := by
  exact ⟨by unfold HasDecimal; decide +kernel, ⟨80, by decide +kernel⟩, ⟨112, by decide +kernel⟩, ⟨88, by decide +kernel⟩,
    by decide +kernel⟩

/-- `DecimalDivideCompare`, `DecimalTraps`: a zero divisor, an illegal operand, packed and zoned, one of more than 8 bytes
and one of 16 whose ends can be reached, an accumulator without a sign, and the installations without the instructions. -/
theorem witness_DecimalTraps :
    (BytesRead (decimal 0 0x0000012C#32) ⟨false, 1, 1, 23⟩ 1 (fun _ => 0) ∧ legalPacked 0 = false) ∧
    (BytesRead (decimal 0 0x0000012C#32) (ref 4 23) 4 (fun k => if k = 3 then 0x0C else 0) ∧ packedMag 0x0C = 0 ∧
      legalPacked 0x0C = true) ∧
    (BytesRead (decimal 0 0) (ref 2 21) 2 (pair 0x1A 0x3C) ∧ numberOf (pair 0x1A 0x3C) 2 = 0x1A3C ∧
      legalPacked 0x1A3C = false ∧ anySign 32 (getDeca (decimal 0 0)).toNat = false) ∧
    (BytesRead (decimal 0 0) (ref 2 21) 3 (fun k => if k = 2 then 0 else pair 0x1A 0x3C k) ∧
      legalPacked (16 * lowNibbles (fun k => if k = 2 then 0 else pair 0x1A 0x3C k) 3 + 0) = false) ∧
    (legalPacked (getDeca (decimal 0 0)).toNat = false ∧
      ∀ p ∈ [(9, 80, 88), (0, 80, 95), (2, 80, 81), (2, 80, 82)], effAddr (decimal 0 0) (ref (BitVec.ofNat 4 p.1) 20) alignByte = .ok 80 ∧
        locate (decimal 0 0) (wordOf (BitVec.ofNat 24 p.2.2)) .read = .ok (.mem (BitVec.ofNat 22 (p.2.2 / 4))) ∧
        locate (decimal 0 0) (wordOf (BitVec.ofNat 24 p.2.2)) .write = .ok (.mem (BitVec.ofNat 22 (p.2.2 / 4)))) ∧
    { basic with model := .model3 }.model = .model3 ∧ { basic with decimalUnit := .absent }.decimalUnit ≠ .present ∧
    { basic with decimalUnit := .absent }.model ≠ .model3 :=
  ⟨⟨⟨92, by decide +kernel⟩, by decide +kernel⟩, ⟨⟨92, by decide +kernel⟩, by decide +kernel⟩,
    ⟨⟨84, by decide +kernel⟩, by decide +kernel⟩, ⟨⟨84, by decide +kernel⟩, by decide +kernel⟩, by decide +kernel⟩

/-- `DecimalStore`: a packed number of 16 bytes and a zoned one of 3. -/
theorem witness_DecimalStore :
    MemCanonical (decimal 0 0x0000012C#32) ∧
    effAddr (decimal 0 0x0000012C#32) (ref 0 32) alignByte = .ok 128 ∧
    BytesWritable (decimal 0 0x0000012C#32) (bytePlus (decimal 0 0x0000012C#32) 128) 16
      (fun k => .mem (BitVec.ofNat 22 (32 + k / 4))) ∧
    effAddr (decimal 0 0x0000012C#32) (ref 2 33) alignByte = .ok 132 ∧
    BytesWritable (decimal 0 0x0000012C#32) (bytePlus (decimal 0 0x0000012C#32) 132) 3 (fun _ => .mem 33) := by
  refine ⟨small_canonical _ _ _, by decide +kernel, ⟨fun k hk => ⟨?_, sound_of (by decide +kernel) _⟩,
    ordered_below (by decide +kernel)⟩, by decide +kernel, ⟨fun k hk => ⟨?_, sound_of (by decide +kernel) _⟩,
    ordered_below (by decide +kernel)⟩⟩
  · revert k hk; decide +kernel
  · revert k hk; decide +kernel

/-- `DecimalShift`: a count in the address and one through an indirect word, a legal and an illegal accumulator. -/
theorem witness_DecimalShift :
    (ref 0 0x0001F).ind = false ∧ 0x001F#16 = (ref 0 0x0001F).addr.extractLsb' 0 16 ∧
    max (-31) (min 31 ((0x001F#16 + 0).toInt)) = 31 ∧
    readWord (decimal 0 0x0000012C#32) (directRef (decimal 0 0x0000012C#32) ⟨true, 0, 7, 31⟩) = .ok 0x0000001C#32 ∧
    legalPacked (getDeca (decimal 0 0x0000012C#32)).toNat = true ∧ legalPacked (getDeca (decimal 0 0)).toNat = false := by
  decide +kernel

/-- Control registers of byte-string instructions: register 2 the fill or mask byte and a source address, register 3 a
count and a destination address; bytes in locations 20 and 24, a translation table from byte 400 on. -/
def string (c2 : Byte) (count : Byte) (source dest : BitVec 24) : State :=
  small [0, 0, c2 ++ source, count ++ dest]
    [(20, 0x12345678#32), (24, 0x12355678#32), (25, 0x21202223#32), (27, 0xA0000000#32), (104, 0x00010203#32)]
    { Psd.reset with dm := false }

/-- The operand of the byte-string instructions in the tests. -/
def bs : Bs := ⟨2, 0⟩

/-- `MoveBytes` and `CompareBytes`: four bytes from location 20 to location 26, compared with those of 24, which first
differ at byte 1. -/
theorem witness_MoveBytes :
    MemCanonical (string 0 4 80 104) ∧ (string 0 4 80 104).inst.model ≠ .model3 ∧ countIs (string 0 4 80 104) bs 4 ∧
    (∀ k, k < 4 → locate (string 0 4 80 104) (wordOf (sourceByte (string 0 4 80 104) bs k)) .read = .ok (.mem 20) ∧
      Apart bs (sourceByte (string 0 4 80 104) bs k) true ∧ Apart bs (destByte (string 0 4 80 104) bs k) true) ∧
    BytesWritable (string 0 4 80 104) (destByte (string 0 4 80 104) bs) 4 (fun _ => .mem 26) ∧
    (∀ j k, j < 4 → k < 4 → ¬ (Loc.mem 20 = .mem 26 ∧
      (sourceByte (string 0 4 80 104) bs j).extractLsb' 0 2 = (destByte (string 0 4 80 104) bs k).extractLsb' 0 2)) ∧
    countIs (string 0 0 80 104) bs 0 := by
  refine ⟨small_canonical _ _ _, by decide +kernel, by unfold countIs; decide +kernel, by unfold Apart; decide +kernel,
    ⟨fun k hk => ⟨?_, sound_of (by decide +kernel) _⟩, ordered_below (by decide +kernel)⟩, ?_,
    by unfold countIs; decide +kernel⟩
  · revert k hk; decide +kernel
  · intro j k _ _ h; exact absurd h.1 (by decide)

theorem witness_CompareBytes :
    countIs (string 0 4 80 96) bs 4 ∧
    (∀ k, k < 4 → readByte (string 0 4 80 96) (sourceByte (string 0 4 80 96) bs k) =
        .ok (byteOf 0x12345678#32 (BitVec.ofNat 2 k)) ∧
      readByte (string 0 4 80 96) (destByte (string 0 4 80 96) bs k) = .ok (byteOf 0x12355678#32 (BitVec.ofNat 2 k)) ∧
      Apart bs (sourceByte (string 0 4 80 96) bs k) true ∧ Apart bs (destByte (string 0 4 80 96) bs k) true) ∧
    (∀ k, k < 1 → byteOf 0x12345678#32 (BitVec.ofNat 2 k) = byteOf 0x12355678#32 (BitVec.ofNat 2 k)) ∧
    byteOf 0x12345678#32 1 ≠ byteOf 0x12355678#32 1 := by
  unfold countIs Apart
  decide +kernel

/-- The state after one byte of a move or a translation: the byte stored and the control registers advanced. -/
def oneMoved (s : State) (x : Byte) (c2 : Word) (c3 : Word) : State :=
  match writeByte s (destByte s bs 0) x with
  | .ok t => setReg 2 c2 (setReg 3 c3 t)
  | .error _ => s

/-- The state after one byte has been stored. -/
def oneStored (s : State) (x : Byte) : State :=
  match writeByte s (destByte s bs 0) x with
  | .ok t => t
  | .error _ => s

/-- `MoveBytes`, one byte at a time: three bytes moved one place up within location 20. -/
theorem witness_MoveBytes_overlap :
    countIs (string 0 3 80 81) bs (2 + 1) ∧
    (∀ k, k < 3 → locate (string 0 3 80 81) (wordOf (sourceByte (string 0 3 80 81) bs k)) .read = .ok (.mem 20) ∧
      Apart bs (destByte (string 0 3 80 81) bs k) true) ∧
    BytesWritable (string 0 3 80 81) (destByte (string 0 3 80 81) bs) 3 (fun _ => .mem 20) ∧
    readByte (string 0 3 80 81) (sourceByte (string 0 3 80 81) bs 0) = .ok 0x12 ∧
    writeByte (string 0 3 80 81) (destByte (string 0 3 80 81) bs 0) 0x12 = .ok (oneStored (string 0 3 80 81) 0x12) ∧
    oneMoved (string 0 3 80 81) 0x12 81 0x02000052 =
      { oneStored (string 0 3 80 81) 0x12 with regs := (oneMoved (string 0 3 80 81) 0x12 81 0x02000052).regs } ∧
    (∀ r, ¬ (r = bs.r ∧ r ≠ 0 ∨ r = ru1 bs.r) → getReg (oneMoved (string 0 3 80 81) 0x12 81 0x02000052) r =
      getReg (oneStored (string 0 3 80 81) 0x12) r) ∧
    OtherBlocksKept (oneStored (string 0 3 80 81) 0x12) (oneMoved (string 0 3 80 81) 0x12 81 0x02000052) ∧
    Advanced (string 0 3 80 81) (oneMoved (string 0 3 80 81) 0x12 81 0x02000052) bs 3 1 true := by
  refine ⟨by unfold countIs; decide +kernel, by unfold Apart; decide +kernel,
    ⟨fun k hk => ⟨?_, sound_of (by decide +kernel) _⟩, ordered_below (by decide +kernel)⟩, by decide +kernel,
    by decide +kernel, by decide +kernel, by decide +kernel, by unfold OtherBlocksKept; decide +kernel,
    by unfold Advanced; decide +kernel⟩
  revert k hk; decide +kernel

/-- `TranslateBytes`: four bytes of location 25 through the table at byte 384; for TTBS the mask stops at byte 2. -/
theorem witness_TranslateBytes :
    oddR bs.r = false ∧ countIs (string 0x02 4 384 100) bs 4 ∧
    BytesWritable (string 0x02 4 384 100) (destByte (string 0x02 4 384 100) bs) 4 (fun _ => .mem 25) ∧
    (∀ k, k < 4 → byteAt (string 0x02 4 384 100) (.mem 25) ((destByte (string 0x02 4 384 100) bs k).extractLsb' 0 2) =
        byteOf 0x21202223#32 (BitVec.ofNat 2 k) ∧
      locate (string 0x02 4 384 100)
        (wordOf (tableByte (string 0x02 4 384 100) bs (byteOf 0x21202223#32 (BitVec.ofNat 2 k)))) .read = .ok (.mem 104) ∧
      readByte (string 0x02 4 384 100)
        (tableByte (string 0x02 4 384 100) bs (byteOf 0x21202223#32 (BitVec.ofNat 2 k))) =
        .ok (pair 0x01 (pair 0x00 (pair 0x02 0x03 (k - 2)) (k - 1)) k) ∧
      readByte (string 0x02 4 384 100) (destByte (string 0x02 4 384 100) bs k) =
        .ok (byteOf 0x21202223#32 (BitVec.ofNat 2 k)) ∧
      Apart bs (destByte (string 0x02 4 384 100) bs k) false ∧
      Apart bs (tableByte (string 0x02 4 384 100) bs (byteOf 0x21202223#32 (BitVec.ofNat 2 k))) false) ∧
    (0x02#8 = if bs.r = 0 then 0xFF#8 else field (getReg (string 0x02 4 384 100) bs.r) 0 7) ∧
    (∀ k, k < 2 → pair 0x01 (pair 0x00 (pair 0x02 0x03 (k - 2)) (k - 1)) k &&& 0x02 = 0) ∧ (0x02#8 &&& 0x02 ≠ 0) ∧
    oddR (⟨3, 0⟩ : Bs).r = true := by
  refine ⟨by decide, by unfold countIs; decide +kernel,
    ⟨fun k hk => ⟨?_, sound_of (by decide +kernel) _⟩, ordered_below (by decide +kernel)⟩,
    by unfold Apart; decide +kernel, by decide +kernel, by decide, by decide, by decide⟩
  revert k hk; decide +kernel

/-- `TranslateBytes`, one byte at a time: every entry of the table can be read. -/
theorem witness_TranslateBytes_sequence :
    countIs (string 0 2 384 100) bs (1 + 1) ∧ (∀ k, k < 2 → Apart bs (destByte (string 0 2 384 100) bs k) true) ∧
    BytesWritable (string 0 2 384 100) (destByte (string 0 2 384 100) bs) 2 (fun _ => .mem 25) ∧
    (∀ v : Byte, locate (string 0 2 384 100) (wordOf (tableByte (string 0 2 384 100) bs v)) .read =
        .ok (.mem (wordOf (tableByte (string 0 2 384 100) bs v))) ∧
      Sound (string 0 2 384 100) (.mem (wordOf (tableByte (string 0 2 384 100) bs v)))) ∧
    readByte (string 0 2 384 100) (destByte (string 0 2 384 100) bs 0) = .ok 0x21 ∧
    readByte (string 0 2 384 100) (tableByte (string 0 2 384 100) bs 0x21) = .ok 0x01 ∧
    writeByte (string 0 2 384 100) (destByte (string 0 2 384 100) bs 0) 0x01 = .ok (oneStored (string 0 2 384 100) 0x01) ∧
    oneMoved (string 0 2 384 100) 0x01 384 0x01000065 =
      { oneStored (string 0 2 384 100) 0x01 with regs := (oneMoved (string 0 2 384 100) 0x01 384 0x01000065).regs } ∧
    (∀ r, r ≠ ru1 bs.r → getReg (oneMoved (string 0 2 384 100) 0x01 384 0x01000065) r =
      getReg (oneStored (string 0 2 384 100) 0x01) r) ∧
    OtherBlocksKept (oneStored (string 0 2 384 100) 0x01) (oneMoved (string 0 2 384 100) 0x01 384 0x01000065) ∧
    Advanced (string 0 2 384 100) (oneMoved (string 0 2 384 100) 0x01 384 0x01000065) bs 2 1 false := by
  refine ⟨by unfold countIs; decide +kernel, by unfold Apart; decide +kernel,
    ⟨fun k hk => ⟨?_, sound_of (by decide +kernel) _⟩, ordered_below (by decide +kernel)⟩,
    fun v => ⟨?_, sound_of (by decide +kernel) _⟩, by decide +kernel,
    by decide +kernel, by decide +kernel, by decide +kernel, by decide +kernel, by unfold OtherBlocksKept; decide +kernel,
    by unfold Advanced; decide +kernel⟩
  · revert k hk; decide +kernel
  · revert v; decide +kernel

/-- `EditByte`: a pattern byte of each kind, with a decimal digit, a sign code in a digit's place, and a second byte to
edit; and an R field that traps. -/
theorem witness_EditByte :
    MemCanonical (string 0x40 1 80 100) ∧ HasDecimal (string 0x40 1 80 100) ∧ bs.r ≠ 0 ∧ oddR bs.r = false ∧
    (∀ k, k < 4 → countIs (string 0x40 1 80 (BitVec.ofNat 24 (100 + k))) bs 1 ∧
      locate (string 0x40 1 80 (BitVec.ofNat 24 (100 + k)))
        (wordOf (destByte (string 0x40 1 80 (BitVec.ofNat 24 (100 + k))) bs 0)) .write = .ok (.mem 25) ∧
      Apart bs (destByte (string 0x40 1 80 (BitVec.ofNat 24 (100 + k))) bs 0) true ∧
      byteAt (string 0x40 1 80 (BitVec.ofNat 24 (100 + k))) (.mem 25) (BitVec.ofNat 2 k) =
        byteOf 0x21202223#32 (BitVec.ofNat 2 k) ∧
      readByte (string 0x40 1 80 (BitVec.ofNat 24 (100 + k)))
        (sourceByte (string 0x40 1 80 (BitVec.ofNat 24 (100 + k))) bs 0) = .ok 0x12 ∧
      wordOf (destByte (string 0x40 1 80 (BitVec.ofNat 24 (100 + k))) bs 0) ≠ 1#22) ∧
    readByte (string 0x40 1 416 100) (sourceByte (string 0x40 1 416 100) bs 0) = .ok 0x00 ∧
    (readByte (string 0x40 1 108 100) (sourceByte (string 0x40 1 108 100) bs 0) = .ok 0xA0 ∧ 10 ≤ (0xA0#8).toNat / 16) ∧
    oddR (⟨3, 0⟩ : Bs).r = true := by
  refine ⟨small_canonical _ _ _, by unfold HasDecimal; decide +kernel, by decide, by decide,
    by unfold countIs Apart; decide +kernel, by decide +kernel, by decide +kernel, by decide⟩

/-- The string with the right digit wanted, and with register 1 as the destination; the sign code X'C' of a right digit and
one to the right of the digit 5. -/
def editing (right : Bool) (dest : BitVec 24) : State :=
  { string 0x40 1 80 dest with
    psd := { Psd.reset with cc2 := right }, mem := writeWordAt (string 0 1 80 0).mem 20 0x5C000000#32 }

/-- `EditByte`: a right digit that is a sign code, a sign code to the right of the left digit, register 1 as destination. -/
theorem witness_EditByte_right :
    (∀ r ∈ [true, false], ∀ d, d < 4 → countIs (editing r (BitVec.ofNat 24 (4 + d))) bs 1 ∧
      locate (editing r (BitVec.ofNat 24 (4 + d))) (wordOf (destByte (editing r (BitVec.ofNat 24 (4 + d))) bs 0)) .write =
        .ok (.reg 1) ∧
      Apart bs (destByte (editing r (BitVec.ofNat 24 (4 + d))) bs 0) true ∧
      readByte (editing r (BitVec.ofNat 24 (4 + d))) (sourceByte (editing r (BitVec.ofNat 24 (4 + d))) bs 0) = .ok 0x5C) ∧
    (0x5C#8).toNat / 16 < 10 ∧ 10 ≤ (0x5C#8).toNat % 16 ∧ (0x12#8).toNat % 16 < 10 := by
  unfold countIs Apart
  decide +kernel

/-- `EditByte`, one byte at a time: two pattern bytes, of which the first does not end the instruction. -/
theorem witness_EditByte_sequence :
    countIs (string 0x40 2 80 100) bs (1 + 1) ∧ (string 0x40 2 80 100).psd.dm = false ∧
    (readByte (string 0x40 2 80 100) (destByte (string 0x40 2 80 100) bs 0) = .ok 0x21 ∧
      readByte (string 0x40 2 80 100) (sourceByte (string 0x40 2 80 100) bs 0) = .ok 0x12) ∧
    BytesWritable (string 0x40 2 80 100) (destByte (string 0x40 2 80 100) bs) 2 (fun _ => .mem 25) ∧
    (∀ k, k < 2 → Apart bs (destByte (string 0x40 2 80 100) bs k) true ∧
      locate (string 0x40 2 80 100) (wordOf (sourceByte (string 0x40 2 80 100) bs k)) .read = .ok (.mem 20)) ∧
    ∃ t, exec (.ebs bs) (setReg (ru1 bs.r) (withCount (getReg (string 0x40 2 80 100) (ru1 bs.r)) 1#8)
        (string 0x40 2 80 100)) = .next t ∧ decide ((field (getReg t (ru1 bs.r)) 0 7).toNat = 0) = true := by
  refine ⟨by unfold countIs; decide +kernel, by decide +kernel, by decide +kernel,
    ⟨fun k hk => ⟨?_, sound_of (by decide +kernel) _⟩, ordered_below (by decide +kernel)⟩,
    by unfold Apart; decide +kernel, of_ends (by decide +kernel)⟩
  revert k hk; decide +kernel

/-- A stack pointer doubleword in location 20, its top in location 33 with room for `space` more words over `words` words;
the condition code is 2. -/
def stacked (space words : BitVec 16) : State :=
  setCC 2 (small [0, 1, 0x00010001#32, 0xFFFF#32] [(20, 33#32), (21, space ++ words), (33, 5#32)])

/-- `PushPullWord`, `PushPullMultiple`, `StackLimits` (MSP by 1 and by -1): counts that reach 0, and the full counts. -/
theorem witness_stack :
    MemCanonical (stacked 2 2) ∧
    NoOverlap (stacked 2 2) (stackMove (stacked 2 2) (stackTop (stacked 2 2) 0x0000002100020002#64) 1) 2 2 ∧
    NoOverlap (stacked 2 2) (stackMove (stacked 2 2) (stackTop (stacked 2 2) 0x0000002100020002#64) (1 - 2)) 2 2 ∧
    WithinLimits 0x0000002100010000#64 1 ∧
    (∀ n : Nat, n < 5 → WithinLimits 0x0000002100020002#64 ((n : Int) - 2)) ∧
    effWordAddr (stacked 2 2) (ref 2 20) alignDword = .ok 20 ∧
    readDword (stacked 2 2) 20 = .ok 0x0000002100020002#64 ∧ locate (stacked 2 2) 20 .write = .ok (.mem 20) ∧
    locate (stacked 2 2) (20 + 1) .write = .ok (.mem 21) ∧
    locate (stacked 2 2) (wrapWord (stacked 2 2) (stackTop (stacked 2 2) 0x0000002100020002#64 + 1)) .write = .ok (.mem 34) ∧
    locate (stacked 2 2) (stackTop (stacked 2 2) 0x0000002100020002#64) .read = .ok (.mem 33) ∧
    (ccOf (stacked 2 2)).toNat = 2 ∧ ccOf (stacked 2 2) ≠ 0 ∧
    (∀ k : Nat, k < 2 → locate (stacked 2 2) (stackMove (stacked 2 2) (stackTop (stacked 2 2) 0x0000002100020002#64) (k + 1))
        .write = .ok (.mem (BitVec.ofNat 22 (34 + k)))) ∧
    (∀ k : Nat, k < 2 → readWord (stacked 2 2) (stackMove (stacked 2 2) (stackTop (stacked 2 2) 0x0000002100020002#64) (-k)) =
      .ok (if k = 0 then 5 else 0)) ∧
    ((getReg (stacked 2 2) 2).extractLsb' 0 16).toInt = 1 ∧ ((getReg (stacked 2 2) 3).extractLsb' 0 16).toInt = -1 := by
  unfold WithinLimits
  exact ⟨by unfold MemCanonical; decide +kernel, both_below (by decide +kernel), both_below (by decide +kernel),
    by decide +kernel⟩

/-- `StackLimits`: no room with the trap and with the inhibit, no words with the trap and with the inhibit. -/
theorem witness_StackLimits :
    (readDword (stacked 0 5) 20 = .ok 0x0000002100000005#64 ∧ spaceCount 0x0000002100000005#64 = 0 ∧
      spaceInhibit 0x0000002100000005#64 = false) ∧
    (readDword (stacked 0x8000 5) 20 = .ok 0x0000002180000005#64 ∧ spaceCount 0x0000002180000005#64 = 0 ∧
      spaceInhibit 0x0000002180000005#64 = true ∧ wordCount 0x0000002180000005#64 = 5) ∧
    (readDword (stacked 5 0) 20 = .ok 0x0000002100050000#64 ∧ wordCount 0x0000002100050000#64 = 0 ∧
      wordInhibit 0x0000002100050000#64 = false) ∧
    (readDword (stacked 0x7FFF 0x8000) 20 = .ok 0x000000217FFF8000#64 ∧ wordCount 0x000000217FFF8000#64 = 0 ∧
      wordInhibit 0x000000217FFF8000#64 = true ∧ spaceCount 0x000000217FFF8000#64 = 32767 ∧
      spaceInhibit 0x000000217FFF8000#64 = false) := by
  decide +kernel

/-- `ConditionalBranches`, `ExecuteLinkCall`: each condition both ways, a target open to instructions and one that is not,
and the indirect word of a CALL. -/
theorem witness_branches :
    Sound bench (.mem 20) ∧ ccOf (benchCC 8) &&& (ref 8 20).r ≠ 0 ∧ ccOf (benchCC 8) &&& (ref 7 20).r = 0 ∧
    (getReg bench 3 + 1).toInt = 0 ∧ (getReg bench 2 + 1).toInt < 0 ∧ 0 < (getReg bench 2 - 1).toInt ∧
    (getReg bench 1 - 1).toInt = 0 ∧
    effWordAddr bench (ref 8 20) alignWord = .ok 20 ∧ locate bench 20 .fetch = .ok (.mem 20) ∧
    effWordAddr guarded (ref 8 512) alignWord = .ok 512 ∧ locate guarded 512 .fetch = .error (storageTrap false true 1) ∧
    readWord bench (directRef bench ⟨true, 8, 0, 23⟩) = .ok 0x00000016#32 ∧ realExtended extended = true :=
  ⟨sound_of (by decide +kernel) _, by decide +kernel⟩

/-- A state whose levels have no flip-flop set for active has no active level. -/
theorem no_active {s : State} (h : s.ints.power.wa = 0 ∧ s.ints.internal.wa = 0 ∧
    ∀ g : Fin 14, s.ints.external[g.val].wa = 0) : ∀ l, ¬ LevelActive s l := by
  rintro ⟨g, k⟩ ⟨h1, -⟩
  cases g <;> simp [flipFlop, groupOf, h] at h1

/-- The state of `entries` with the I/O level active. -/
def active : State := { entries with ints := { entries.ints with internal := ⟨0x0010#16, 0x0020#16, 0x0030#16⟩ } }

/-- With only the I/O flip-flop set, no other level is active. -/
theorem only_active {s : State} (h : s.ints.power.wa = 0 ∧ s.ints.internal.wa = 0x0020#16 ∧
    ∀ g : Fin 14, s.ints.external[g.val].wa = 0) : ∀ l, LevelActive s l → l = levelIo := by
  rintro ⟨g, k⟩ ⟨h1, -⟩
  cases g with
  | power => simp [flipFlop, groupOf, h] at h1
  | external g => simp [flipFlop, groupOf, h] at h1
  | internal =>
    simp only [flipFlop, groupOf, h] at h1
    revert k
    decide

/-- `ExchangeStatus`: the doublewords of location X'82', with the register pointer 1, and of X'84', with the pointer 2,
which is not installed; with and without an active level; XPSD at X'80' and, for the pointer 2, at X'82'. -/
theorem witness_ExchangeStatus :
    MemCanonical entries ∧ (∀ l, Sound entries l) ∧ (∀ l, ¬ LevelActive entries l) ∧
    (LevelActive active levelIo ∧ ∀ m, Higher active m levelIo → ¬ LevelActive active m) ∧ entries.psd.ms = false ∧
    operandDword entries (ref 11 0x82) = .ok 0x1000012300000010#64 ∧ bitOf (11#4) 0 = true ∧ bitOf (11#4) 2 = true ∧
    bitOf (11#4) 3 = true ∧ rpInvalid entries ((0x1000012300000010#64).extractLsb' 4 4) = false ∧
    rpInvalid entries ((0x1000012300000020#64).extractLsb' 4 4) = true ∧ bitOf (9#4) 2 = false ∧
    bitOf (8#4) 3 = false ∧ (rankOf active levelIo).isSome = true ∧
    effWordAddr entries (ref 8 0x80) alignDword = .ok 0x80 ∧ locate entries 0x80 .write = .ok (.mem 0x80) ∧
    locate entries (0x80 + 1) .write = .ok (.mem 0x81) ∧
    locate entries (wordPlus entries 0x80 2) .read = .ok (.mem 0x82) ∧
    locate entries (wordPlus entries 0x80 3) .read = .ok (.mem 0x83) ∧
    wordAt entries (.mem 0x82) = 0x10000123#32 ∧ wordAt entries (.mem 0x83) = 0x00000010#32 ∧
    rpInvalid entries (field 0x00000020#32 24 27) = true := by
  refine ⟨small_canonical _ _ _, sound_of (by decide +kernel), no_active (by decide +kernel), ⟨by unfold LevelActive; decide +kernel, ?_⟩,
    by decide +kernel⟩
  intro m hi h
  have : m = levelIo := only_active (by decide +kernel) m h
  subst this
  obtain ⟨i, j, h1, h2, h3⟩ := hi
  rw [h1] at h2
  cases h2
  omega

/-- `PointerWaitRealAddress`: pointers 1 and 2 of two blocks, and an address below 16 and one from 16 on in each of the
four sizes. -/
theorem witness_PointerWaitRealAddress :
    entries.psd.ms = false ∧ operandWord entries (ref 1 0x83) = .ok 0x00000010#32 ∧
    (field 0x00000010#32 26 27).toNat < entries.inst.nblocks ∧ entries.inst.nblocks ≤ (field 0x00000020#32 26 27).toNat ∧
    operandWord bench (ref 1 26) = .ok 7#32 ∧ operandWord bench (ref 1 22) = .ok 0x80FF7F01#32 ∧
    (∀ c, c ∈ [0, 4, 8, 12] → (setCC (BitVec.ofNat 4 c) bench).psd.cc1 = decide (8 ≤ c)) ∧
    (7 % 2 ^ 17 < 16 ∧ 16 ≤ (0x80FF7F01#32).toNat % 2 ^ 17 ∧ 16 ≤ (0x80FF7F01#32).toNat % 2 ^ 19 / 4) := by
  decide +kernel

/-- `MoveToControl`: 16 words of 16 pages, 64 of 4, 128 of 2, from location 32 on; an odd register, and the blocks that are
none. -/
def loading (count : Byte) : State := small [0, 0, 32, count ++ 0x000200#24] [(32, 0x1B000000#32)]

theorem witness_MoveToControl :
    (loading 0).psd.ms = false ∧ (loading 0).psd.mm = false ∧ oddR (2#4) = false ∧ oddR (3#4) = true ∧
    wrapWord (loading 16) ((getReg (loading 16) 2).extractLsb' 0 22) = 32 ∧
    field (getReg (loading 16) (2 + 1)) 0 7 = 16#8 ∧ (field (getReg (loading 16) (2 + 1)) 15 22).toNat = 1 ∧
    (∀ k, k < 128 → readWord (loading 128) (wordPlus (loading 128) 32 k) = .ok (if k = 0 then 0x1B000000#32 else 0)) ∧
    16 * 16 ≤ 256 ∧ 64 * 4 ≤ 256 ∧ 128 * 2 ≤ 256 ∧ (loading 0).inst.map13First = 3 ∧ (loading 0).inst.map13Second = 19 ∧
    (0b011#3) ∉ [0b001#3, 0b010#3, 0b100#3, 0b101#3] ∧ (0b000#3) ∉ [0b001#3, 0b010#3, 0b100#3, 0b101#3] := by
  decide +kernel

/-- Sixteen words of a lock image from location 32, of which location 40 has bad parity, or is in no bank. -/
def loadingBad : State := { loading 16 with badParity := [40] }
def loadingHole : State := { loading 16 with banks := [{ freshBank 0 with size := 40 }, { freshBank 0 with base := 41 }] }

/-- `MoveToControl`, the word that cannot be read: the ninth of sixteen. -/
theorem witness_MoveToControl_stops :
    ∀ s ∈ [loadingBad, loadingHole], s.psd.ms = false ∧ wrapWord s ((getReg s 2).extractLsb' 0 22) = 32 ∧
      field (getReg s (2 + 1)) 0 7 = 16#8 ∧ locate s 32 .read = .ok (.mem 32) ∧
      locate s (wordPlus s 32 (16 - 1)) .read = .ok (.mem 47) ∧
      (∀ j, j < 8 → readWord s (wordPlus s 32 j) = .ok (if j = 0 then 0x1B000000#32 else 0)) ∧
      readWord s (wordPlus s 32 8) =
        .error (if s.badParity = [] then storageTrap true false 0 else parityTrap swReadParity 40) := by
  decide +kernel

/-- `MemoryStatus`: a memory word under a register's address and the last one of the first bank, for every condition code;
a word of bad parity for action 0001. -/
theorem witness_MemoryStatus :
    (∀ c, c < 16 → MemCanonical (setCC (BitVec.ofNat 4 c) bench)) ∧
    (∀ c, c < 16 → (setCC (BitVec.ofNat 4 c) bench).psd.ms = false ∧ ccOf (setCC (BitVec.ofNat 4 c) bench) = BitVec.ofNat 4 c ∧
      effWordAddr (setCC (BitVec.ofNat 4 c) bench) (ref 1 0) alignWord = .ok 0 ∧
      locateMemory (setCC (BitVec.ofNat 4 c) bench) 0 .write = .ok 0 ∧
      locateMemory (setCC (BitVec.ofNat 4 c) bench) 0 .read = .ok 0 ∧
      parityBad (setCC (BitVec.ofNat 4 c) bench) 0 = false ∧ bankAt (setCC (BitVec.ofNat 4 c) bench) 0 = some (freshBank 0)) ∧
    locateMemory bench 16383 .write = .ok 16383 ∧ bankAt bench 16383 = some (freshBank 0) ∧
    parityBad { bench with badParity := [16383] } 16383 = true := by
  exact ⟨fun c _ => small_canonical _ _ _, by decide +kernel⟩

/-- `DirectControl`: the addresses of mode 0 and one that is none, group X'0', group X'1', the first and the last external
group, the latter with no level, with function codes, and an external element that answers and one that is silent. -/
theorem witness_DirectControl :
    bench.psd.ms = false ∧
    (∀ a, a ∈ [0x0000, 0x0040, 0x0041, 0x0042, 0x0045, 0x0046, 0x0047, 0x0048, 0x0049, 0x0020, 0x0027, 0x0030, 0x0037, 0x0001,
        0x1000, 0x1001, 0x1002, 0x170F, 0x2000, 0xFFFF] →
      effWordAddr bench (ref 1 (BitVec.ofNat 17 a)) alignWord = .ok (BitVec.ofNat 22 a)) ∧
    (0x0020#16).extractLsb' 3 13 = 0b0000000000100#13 ∧ (0x0037#16).extractLsb' 3 13 = 0b0000000000110#13 ∧
    (0x1002#16).extractLsb' 12 4 = 1 ∧ ((0x1002#16).extractLsb' 0 4).toNat = 0 + 2 ∧
    ((0x170F#16).extractLsb' 0 4).toNat = 13 + 2 ∧ (0x170F#16).extractLsb' 8 3 = 0b111#3 ∧
    bench.inst.extInstalled[0] = 0xFF00#16 ∧ 2 ≤ ((0x2000#16).extractLsb' 12 4).toNat ∧ bench.dioScript = [] ∧
    (0x1000#16).extractLsb' 0 4 = 0#4 ∧ bench.inst.counters12 = false ∧ (0x1001#16).extractLsb' 0 4 = 1#4 ∧
    bench.inst.extInstalled[13] = 0 ∧ (0x0001#16).extractLsb' 12 4 = 0#4 ∧ bench.inst.watchdogOverride = false ∧
    { bench with dioScript := [.silent] }.dioScript = [.silent] ∧
    { bench with dioScript := [.answer 5 true false] }.dioScript = [.answer 5 true false] ∧
    { bench with snapArmed := true }.snapArmed = true ∧ bench.snapArmed = false := by
  decide +kernel

/-- A state whose I/O system will give one answer. -/
def answering (a : IoAnswer) : State := { bench with ioScript := [a] }

/-- `InputOutput`: the selectors of X'4F', an answer with and without recognition, one that leaves the communication words,
none attached, and one that is silent. -/
theorem witness_InputOutput :
    (∀ k, k < 8 → effWordAddr (answering .silent) (ref 2 (BitVec.ofNat 17 (16384 * k))) alignWord =
        .ok (BitVec.ofNat 22 (16384 * k)) ∧ (BitVec.ofNat 22 (16384 * k)).extractLsb' 14 3 = BitVec.ofNat 3 k) ∧
    (answering (.answer false true false 5 6 none true)).ioScript = [.answer false true false 5 6 none true] ∧
    (answering (.answer true true false 5 6 none false)).ioScript = [.answer true true false 5 6 none false] ∧
    (answering (.answer true false true 5 6 (some (7, 8)) false)).ioScript = [.answer true false true 5 6 (some (7, 8)) false] ∧
    (answering .silent).ioScript = [.silent] ∧ (answering .silent).inst.watchdogOverride = false ∧
    (answering .silent).psd.ms = false ∧ bench.ioScript = [] := by
  decide +kernel

/-! ### Single steps, the expected values by hand from the rules -/

/-- The outcome leaves this in the register. -/
def gives (o : Result) (r : BitVec 4) (v : Word) : Bool := ends o (fun t => getReg t r == v)

/-- The outcome leaves this condition code. -/
def givesCC (o : Result) (c : BitVec 4) : Bool := ends o (fun t => ccOf t == c)

/-- X'FFFFF' as an immediate is -1 (40_load_store R220). -/
theorem test_li : gives (exec (.li ⟨1, 0xFFFFF⟩) bench) 1 0xFFFFFFFF#32 ∧ givesCC (exec (.li ⟨1, 0xFFFFF⟩) bench) 0b1001#4 := by
  decide +kernel

/-- LCW of -2^31 overflows; with AM = 1 the trap X'43' comes, in whose empty location there is no XPSD (60 R646). -/
theorem test_lcw_overflow :
    ends (exec (.lcw (ref 1 20)) bench) (fun t => getReg t 1 == 0x80000000#32 &&
      t.pend == .trap (exceptionTrap 0b1100#4 0x43#8)) = true := by
  decide +kernel

/-- AW of -1 and 1 is 0 with a carry (41 R270). -/
theorem test_aw_carry :
    gives (exec (.aw (ref 3 1)) bench) 3 0#32 ∧ givesCC (exec (.aw (ref 3 1)) bench) 0b1000#4 := by
  decide +kernel

/-- LD with an odd register keeps the high word (40_load_store R213). -/
theorem test_ld_odd : gives (exec (.ld (ref 3 22)) bench) 3 0x80FF7F01#32 := by decide +kernel

/-- MW of X'7FFFFFFF' and -1 into registers 4 and 5 (41 R277). -/
theorem test_mw :
    gives (exec (.mw (ref 4 24)) bench) 4 0xFFFFFFFF#32 ∧ gives (exec (.mw (ref 4 24)) bench) 5 0x80000001#32 := by
  decide +kernel

/-- The remainder of -1 by 7 in a single register is lost to the quotient 0, and of 3 * 2^32 + 2^31 - 1 by -2^31 it is
positive (41 R279). -/
theorem test_dw :
    gives (exec (.dw (ref 3 26)) bench) 3 0#32 ∧ gives (exec (.dw (ref 4 20)) bench) 4 0x7FFFFFFF#32 ∧
    gives (exec (.dw (ref 4 20)) bench) 5 0xFFFFFFFA#32 := by
  decide +kernel

/-- MTB stores one byte of its word: X'FF' + 1 is 0 with a carry (41 R281). -/
theorem test_mtb :
    ends (exec (.mtb ⟨false, 1, 1, 22⟩) bench) (fun t => readWordAt t.mem 22 == 0x80007F01#32 && ccOf t == 0b1000#4) = true := by
  decide +kernel

/-- A circular shift of the pair 4, 5 by 4 to the left (42 R318). -/
theorem test_s_circular :
    gives (exec (.s (ref 4 0x00304)) bench) 4 0x00000037#32 ∧ gives (exec (.s (ref 4 0x00304)) bench) 5 0xFFFFFFF0#32 := by
  decide +kernel

/-- FAS of 1.0 and 1.0 is 2.0 (43 R341, R350). -/
theorem test_fas :
    gives (exec (.fas (ref 1 16)) (small [0, 0x41100000#32] [(16, 0x41100000#32)])) 1 0x41200000#32 := by decide +kernel

/-- DA of +12 and +123 (44 R392). -/
theorem test_da : gives (exec (.da (ref 2 20)) (decimal 0 0x0000012C#32)) 15 0x0000135C#32 := by decide +kernel

/-- DSA by one digit to the left (44 R397). -/
theorem test_dsa : gives (exec (.dsa (ref 0 1)) (decimal 0 0x0000012C#32)) 15 0x0000120C#32 := by decide +kernel

/-- MBS one place up smears the first byte (45 R424). -/
theorem test_mbs :
    ends (exec (.mbs bs) (string 0 3 80 81)) (fun t => readWordAt t.mem 20 == 0x12121212#32 && getReg t 3 == 0x54#32) = true := by
  decide +kernel

/-- CBS stops at the byte that differs, the first operand less (45 R426). -/
theorem test_cbs :
    ends (exec (.cbs bs) (string 0 4 80 96)) (fun t => ccOf t == 0b0001#4 && getReg t 3 == 0x03000061#32) = true := by
  decide +kernel

/-- PSW fills the word above the top and moves the doubleword (46 R465). -/
theorem test_psw :
    ends (exec (.psw (ref 1 20)) (stacked 2 2)) (fun t => readWordAt t.mem 34 == 1#32 && readWordAt t.mem 20 == 34#32 &&
      readWordAt t.mem 21 == 0x00010003#32) = true := by
  decide +kernel

/-- BAL links to the next instruction (47 R498). -/
theorem test_bal : ends (exec (.bal (ref 1 20)) bench) (fun t => getReg t 1 == 0x27#32 && t.psd.ia == 20#17) = true := by
  decide +kernel

/-- XPSD stores the address of the next instruction, X'1FFFF' + 1 = 0, and loads register pointer 1 (48 R523). -/
theorem test_xpsd :
    ends (exec (.xpsd (ref 8 0x80)) entries) (fun t => readWordAt t.mem 0x80 == 0x80000000#32 && t.psd.ia == 0x123#17 &&
      t.psd.rp == 1#4 && ccOf t == 0b0001#4) = true := by
  decide +kernel

/-- The trap X'40' with bit 9: TCC is ORed into the condition code and added to the address (48 R524). -/
theorem test_trap :
    (enterTrap { loc := 0x40#8, tcc := 0b0010#4 } entries).psd.ia = 0x125#17 ∧
    ccOf (enterTrap { loc := 0x40#8, tcc := 0b0010#4 } entries) = 0b0011#4 := by
  decide +kernel

/-- The MTW of an interrupt location counts down and the level is armed again (60 R679). -/
theorem test_single_instruction :
    readWordAt (enterInterrupt levelPanel (interrupted 0x0010#16 .none)).mem 0x85 = 0xFFFFFFFF#32 ∧
    (enterInterrupt levelPanel (interrupted 0x0010#16 .none)).ints.internal = ⟨0x0030#16, 0x0000#16, 0x0030#16⟩ := by
  decide +kernel

/-- MMC of the lock image X'1B...' from page 1 on: locks 0, 1, 2, 3 (48 R530). -/
theorem test_mmc :
    ends (exec (.mmc ⟨false, 2, 1, 0⟩) (loading 1)) (fun t => t.lock[1] == 0#2 && t.lock[2] == 1#2 && t.lock[3] == 2#2 &&
      t.lock[4] == 3#2 && getReg t 2 == 33#32 && getReg t 3 == 0x00002200#32) = true := by
  decide +kernel

/-- MMC that meets a hole shows the point reached in R and Ru1, at bad parity it does not (60 R668, 48 R532). -/
theorem test_mmc_stops :
    (ends (exec (.mmc ⟨false, 2, 1, 0⟩) loadingHole) (fun t => getReg t 2 == 40#32 && getReg t 3 == 0x08010200#32) &&
      ends (exec (.mmc ⟨false, 2, 1, 0⟩) loadingBad) (fun t => t.regs == loadingBad.regs)) = true := by
  decide +kernel

/-- WD X'0037' sets the three inhibits (48 R549). -/
theorem test_wd_inhibits : ends (exec (.wd (ref 0 0x00037)) bench) (fun t => inhibits t == 0b111#3) = true := by
  decide +kernel

/-- SIO with an even register takes two status words (49 R585). -/
theorem test_sio :
    ends (exec (.sio (ref 2 0x25)) (answering (.answer false true false 5 6 none true)))
      (fun t => getReg t 2 == 5#32 && getReg t 3 == 6#32 && ccOf t == 0b0100#4) = true := by
  decide +kernel

/-- A word placed with `withFetchWord` is the first instruction that runs after reset. -/
theorem test_withFetchWord :
    ends (step (State.reset.withFetchWord 32 0x22100007)) (fun t => getReg t 1 == 7#32 && t.psd.ia == 0x27#17) = true := by
  decide +kernel


/-- The exchange presented by SIO: the address, the R field and the command address of register 0 (49 R581, R602). -/
theorem test_sio_request :
    ends (exec (.sio (ref 2 0x12345)) { answering .silent with ioScript := [] }) (fun t =>
      t.ioRequest == some ⟨.sio, 0x0345#13, 2, some 0⟩ && ccOf t == 0b1100#4) = true := by
  decide +kernel

/-- The count pulse that leaves zero in register 3 signals the counter-equals-zero level X'5B' (60 R681). -/
theorem test_counter_zero :
    (enterInterrupt ⟨.internal, 3⟩ { counting with ints := { counting.ints with internal := ⟨0x0040, 0, 0⟩ } }).ints.internal =
      ⟨0x1040#16, 0x0040#16, 0#16⟩ := by
  decide +kernel

/-- TTBS over a page that may not be read keeps the condition code in the trap (45 R430, 60 R643): CC4 was 1. -/
theorem test_ttbs_trap :
    ends (exec (.ttbs bs) (setCC 1 { string 0xFF 1 0x7FFFF 100 with badParity := [25] })) (fun t => ccOf t == 1#4) = true := by
  decide +kernel

/-- XPSD stores the old PSD before it meets bad parity in the new one (48 R523, D9). -/
theorem test_xpsd_parity :
    ends (exec (.xpsd (ref 8 0x80)) { entries with badParity := [0x82] }) (fun t => readWordAt t.mem 0x80 == 0x80000000#32) =
      true := by
  decide +kernel

/-- FSS of 1.0 and 1.0 with FN = 0 is a zero with CC1 (43 R346). -/
theorem test_fss_zero :
    givesCC (exec (.fss (ref 1 16)) (small [0, 0x41100000#32] [(16, 0x41100000#32)])) 0b1000#4 := by decide +kernel
end Sys2Proof.Tests
end

namespace Sys2Proof.Proofs

open Sys2Proof Sys2Proof.Machine Sys2Proof.Laws

/-! ### What a meaning that keeps a property ends in -/

/-- The outcome is a state with the property, or a trap taken from one. -/
def EndsIn (P : State → Prop) (o : Result) : Prop :=
  ∀ t, o = .next t → P t ∨ ∃ x u, P u ∧ t = enterTrap x u

theorem endsIn_run {P : State → Prop} {a : Act Unit} {s : State} (ha : Keeps P a) (hs : P s) :
    EndsIn P (run a s) := by
  intro t h
  have h1 := ha s hs
  rcases run_next h with e | ⟨x, u, e, rfl⟩ <;> rw [e] at h1
  · exact .inl h1
  · exact .inr ⟨x, u, h1, rfl⟩

/-! ### The changes that an unprivileged instruction is made of -/

/-- Beside its stores an unprivileged instruction changes only the condition code, the floating controls, the instruction
address with its extension, and the model's bookkeeping of what comes next and of the faults found. -/
def ControlsOnly (s t : State) : Prop :=
  t = { s with
    psd := { s.psd with
      cc1 := t.psd.cc1, cc2 := t.psd.cc2, cc3 := t.psd.cc3, cc4 := t.psd.cc4
      fs := t.psd.fs, fz := t.psd.fz, fn := t.psd.fn, ia := t.psd.ia, ea := t.psd.ea }
    jumped := t.jumped, free := t.free, banks := t.banks, halt := t.halt, pend := t.pend }

/-- A property that the changes of unprivileged instructions keep: stores into registers and memory, and `ControlsOnly`. -/
structure UserKeeps (P : State → Prop) : Prop where
  store : ∀ {s : State} (l : Loc) (w : Word), P s → P (writeLoc l w s)
  controls : ∀ {s t : State}, P s → ControlsOnly s t → P t

namespace UserKeeps

variable {P : State → Prop} (hP : UserKeeps P)

include hP

/-! ### Registers and the condition code -/

theorem setReg {s : State} (n : BitVec 4) (w : Word) (h : P s) : P (setReg n w s) := hP.store (.reg n) w h

theorem setRegPair {s : State} (r : BitVec 4) (d : Dword) (h : P s) : P (setRegPair r d s) :=
  hP.setReg _ _ (hP.setReg _ _ h)

theorem setDeca {s : State} (v : BitVec 128) (h : P s) : P (setDeca v s) :=
  hP.setReg _ _ (hP.setReg _ _ (hP.setReg _ _ (hP.setReg _ _ h)))

theorem advance {s : State} (h : P s) : P (advance s) := hP.controls h rfl

theorem setCC {s : State} (v : BitVec 4) (h : P s) : P (setCC v s) := hP.controls h rfl
theorem setCC1 {s : State} (a : Bool) (h : P s) : P (setCC1 a s) := hP.controls h rfl
theorem setCC2 {s : State} (a : Bool) (h : P s) : P (setCC2 a s) := hP.controls h rfl
theorem setCC4 {s : State} (a : Bool) (h : P s) : P (setCC4 a s) := hP.controls h rfl
theorem setCC12 {s : State} (a b : Bool) (h : P s) : P (setCC12 a b s) := hP.controls h rfl
theorem setCC34 {s : State} (a b : Bool) (h : P s) : P (setCC34 a b s) := hP.controls h rfl
theorem signCC {w : Nat} {s : State} (v : BitVec w) (h : P s) : P (signCC v s) := hP.setCC34 _ _ h
theorem arithCC {w : Nat} {s : State} (x : BitVec w × Bool × Bool) (h : P s) : P (arithCC x s) :=
  hP.signCC _ (hP.setCC12 _ _ h)

theorem free {s : State} (n : Nat) (h : P s) : P { s with free := n } := hP.controls h rfl

theorem loadWord {s : State} (r : BitVec 4) (w : Word) (h : P s) : P (loadWord r w s) :=
  hP.signCC _ (hP.setReg _ _ h)

theorem loadDword {s : State} (r : BitVec 4) (d : Dword) (h : P s) : P (loadDword r d s) :=
  hP.signCC _ (hP.setRegPair _ _ h)

theorem loadControl {s : State} (r : BitVec 4) (b : Byte) (h : P s) : P (loadControl r b s) := by
  unfold Machine.loadControl
  dsimp only
  have h1 : P (if r.getLsbD 1 then Machine.setCC (b.extractLsb' 4 4) s else s) := by
    split
    · exact hP.setCC _ h
    · exact h
  split
  · exact hP.controls h1 rfl
  · exact h1

theorem branchTo {s : State} (v : WordAddr) (h : P s) : P (branchTo v s) := by
  unfold Machine.branchTo
  split
  · split <;> exact hP.controls h rfl
  · exact hP.controls h rfl

/-! ### Stores -/

theorem writeWord {s t : State} {v : WordAddr} {w : Word} (h : P s) (e : writeWord s v w = .ok t) : P t := by
  unfold Machine.writeWord at e
  split at e
  · cases e; exact hP.store _ _ h
  · cases e

theorem writeByte {s t : State} {b : ByteAddr} {x : Byte} (h : P s) (e : writeByte s b x = .ok t) : P t := by
  unfold Machine.writeByte at e
  split at e
  · cases e; exact hP.store _ _ h
  · cases e

theorem writeHalf {s t : State} {b : ByteAddr} {x : Half} (h : P s) (e : writeHalf s b x = .ok t) : P t := by
  unfold Machine.writeHalf at e
  split at e
  · cases e; exact hP.store _ _ h
  · cases e

/-! ### The parts that meanings share -/

theorem keeps_done : Keeps P done := keeps_change fun _ h => hP.advance h

theorem keeps_doneWithOverflow : Keeps P doneWithOverflow := Laws.keeps_doneWithOverflow fun _ h => hP.advance h

theorem keeps_draw (w : Nat) : Keeps P (draw w) := Laws.keeps_draw (fun _ _ h => hP.free _ h) w

theorem keeps_setReg (n : BitVec 4) (w : Word) : Keeps P (change (Machine.setReg n w)) :=
  keeps_change fun _ h => hP.setReg _ _ h

theorem keeps_setCC (v : BitVec 4) : Keeps P (change (Machine.setCC v)) := keeps_change fun _ h => hP.setCC _ h

theorem keeps_writeWord (f : State → WordAddr) (g : State → Word) :
    Keeps P (commit (fun s => Machine.writeWord s (f s) (g s))) := keeps_commit fun _ _ h e => hP.writeWord h e

theorem keeps_writeByte (b : ByteAddr) (g : State → Byte) :
    Keeps P (commit (fun s => Machine.writeByte s b (g s))) := keeps_commit fun _ _ h e => hP.writeByte h e

theorem keeps_freeOverlap (v : WordAddr) (r : BitVec 4) (n k : Nat) : Keeps P (freeOverlap v r n k) :=
  Laws.keeps_freeOverlap (fun _ _ _ h => hP.setReg _ _ h) (fun _ _ h => hP.free _ h) v r n k

/-- A change and the end of the instruction. -/
theorem keeps_changeDone {f : State → State} (hf : ∀ s, P s → P (f s)) : Keeps P (do change f; done) :=
  keeps_bind (keeps_change hf) fun _ => hP.keeps_done

/-- The commonest meaning: an operand, a change and the end of the instruction. -/
theorem keeps_needChange {α : Type} (f : State → Except Trap α) {g : α → State → State}
    (hg : ∀ x s, P s → P (g x s)) : Keeps P (do let x ← need f; change (g x); done) :=
  keeps_bind (keeps_need P f) fun x => hP.keeps_changeDone (hg x)

/-- The same with the overflow trap of a completed instruction. -/
theorem keeps_needChangeOverflow {α : Type} (f : State → Except Trap α) {g : α → State → State}
    (hg : ∀ x s, P s → P (g x s)) : Keeps P (do let x ← need f; change (g x); doneWithOverflow) :=
  keeps_bind (keeps_need P f) fun x => keeps_bind (keeps_change (hg x)) fun _ => hP.keeps_doneWithOverflow

/-- The same of an instruction that needs an even R field. -/
theorem keeps_evenNeedChangeOverflow {α : Type} (r : BitVec 4) (f : State → Except Trap α) {g : α → State → State}
    (hg : ∀ x s, P s → P (g x s)) : Keeps P (do requireEven r; let x ← need f; change (g x); doneWithOverflow) :=
  keeps_bind (keeps_requireEven P r) fun _ => hP.keeps_needChangeOverflow f hg

/-! ### Branches and calls (47) -/

theorem keeps_branchIf (taken : Bool) (m : MR) {reg : State → State} (hr : ∀ s, P s → P (reg s)) :
    Keeps P (branchIf taken m reg) := by
  unfold branchIf
  split
  · exact keeps_bind (keeps_need P _) fun v => keeps_bind (keeps_need P _) fun _ =>
      keeps_change fun s h => hP.branchTo v (hr s h)
  · exact hP.keeps_changeDone hr

theorem keeps_call (loc : BitVec 8) (m : MR) : Keeps P (call loc m) :=
  keeps_bind (keeps_need P _) fun _ => keeps_bind hP.keeps_done fun _ => keeps_raise P _

/-! ### Loads and stores of several words (40) -/

theorem keeps_loadAndSet (v : WordAddr) : Keeps P (loadAndSet v) :=
  keeps_bind (keeps_need P _) fun a => keeps_bind (keeps_need P _) fun w =>
    keeps_bind (keeps_change fun _ h => hP.store (.mem a) _ h) fun _ => keeps_pure P w

omit hP in
theorem keeps_testEnds (P : State → Prop) (v : WordAddr) (n : Nat) (k : Access) : Keeps P (testEnds v n k) :=
  keeps_bind (keeps_need P _) fun _ => keeps_need P _

theorem keeps_loadMultiple (altered : Bool) (v : WordAddr) (r : BitVec 4) (n : Nat) :
    Keeps P (loadMultiple altered v r n) := by
  induction n generalizing altered v r with
  | zero => exact keeps_pure P ()
  | succ n ih =>
    exact keeps_bind (keeps_onceAltered _ (keeps_need P _)) fun w => keeps_bind (hP.keeps_setReg r w) fun _ =>
      keeps_bind (keeps_look P _) fun v' => ih true v' (r + 1)

theorem keeps_storeMultiple (altered : Bool) (v : WordAddr) (r : BitVec 4) (n : Nat) :
    Keeps P (storeMultiple altered v r n) := by
  induction n generalizing altered v r with
  | zero => exact keeps_pure P ()
  | succ n ih =>
    exact keeps_bind (keeps_onceAltered _ (hP.keeps_writeWord _ _)) fun _ =>
      keeps_bind (keeps_look P _) fun v' => ih true v' (r + 1)

theorem keeps_storeDword (v : WordAddr) (d : Dword) : Keeps P (storeDword v d) :=
  keeps_bind (hP.keeps_writeWord _ _) fun _ => keeps_altering (hP.keeps_writeWord _ _)

/-! ### Decimal instructions (44) -/

omit hP in
theorem keeps_testByteEnds (P : State → Prop) (b : ByteAddr) (n : Nat) (k : Access) : Keeps P (testByteEnds b n k) :=
  keeps_bind (keeps_need P _) fun _ => keeps_need P _

theorem keeps_storeBytes (altered : Bool) (b : ByteAddr) (l : List Byte) : Keeps P (storeBytes altered b l) := by
  induction l generalizing altered b with
  | nil => exact keeps_pure P ()
  | cons x l ih =>
    exact keeps_bind (keeps_onceAltered _ (hP.keeps_writeByte b _)) fun _ =>
      keeps_bind (keeps_look P _) fun b' => ih true b'

theorem keeps_decimalFault (illegal : Bool) : Keeps P (decimalFault illegal) :=
  keeps_bind (keeps_change fun _ h => hP.setCC12 _ _ h) fun _ => keeps_bind (keeps_look P _) fun _ =>
    keeps_ite (keeps_raise P _) hP.keeps_done

theorem keeps_indeterminateResult : Keeps P indeterminateResult :=
  keeps_bind (hP.keeps_draw 128) fun _ => keeps_bind (hP.keeps_draw 2) fun _ =>
    hP.keeps_changeDone fun _ h => hP.setCC _ (hP.setDeca _ h)

theorem keeps_decimalFinish (e : DecimalEnd) : Keeps P (decimalFinish e) := by
  cases e with
  | value v cc => exact hP.keeps_changeDone fun _ h => hP.setCC _ (hP.setDeca _ h)
  | illegal => exact hP.keeps_decimalFault true
  | overflow => exact hP.keeps_decimalFault false
  | indeterminate => exact hP.keeps_indeterminateResult

omit hP in
theorem keeps_decimalOperand (P : State → Prop) (m : MR) (n : Nat) (k : Access) : Keeps P (decimalOperand m n k) :=
  keeps_bind (keeps_requireDecimal P) fun _ => keeps_bind (keeps_need P _) fun b =>
    keeps_bind (keeps_testByteEnds P b n k) fun _ => keeps_pure P b

omit hP in
theorem keeps_readDecimal (P : State → Prop) (m : MR) : Keeps P (readDecimal m) :=
  keeps_bind (keeps_decimalOperand P m _ .read) fun _ => keeps_need P _

theorem keeps_decimalOnShort (m : MR) (f : Bool → Nat → Nat → DecimalEnd) : Keeps P (decimalOnShort m f) :=
  keeps_bind (keeps_decimalOperand P m _ .read) fun _ => keeps_ite
    (keeps_bind (keeps_need P _) fun _ => keeps_bind (keeps_look P _) fun e => hP.keeps_decimalFinish e)
    (hP.keeps_decimalFault true)

theorem keeps_decimalOn (m : MR) (f : Bool → Nat → Nat → DecimalEnd) : Keeps P (decimalOn m f) :=
  keeps_bind (keeps_readDecimal P m) fun _ => keeps_bind (keeps_look P _) fun e => hP.keeps_decimalFinish e

theorem keeps_decimalStore (m : MR) (n digits : Nat) (f : Bool → Bool → Nat → Nat) :
    Keeps P (decimalStore m n digits f) :=
  keeps_bind (keeps_decimalOperand P m n .write) fun b => keeps_bind (keeps_look P _) fun _ =>
    keeps_bind (keeps_look P _) fun _ => keeps_ite
      (keeps_bind (hP.keeps_storeBytes false b _) fun _ => hP.keeps_changeDone fun _ h => hP.setCC12 _ _ h)
      (hP.keeps_decimalFault true)

/-! ### Byte strings (45) -/

theorem putDestination {s : State} (b : Bs) (da : ByteAddr) (c : Byte) (h : P s) : P (putDestination b da c s) :=
  hP.setReg _ _ h

theorem putProgress {s : State} (b : Bs) (sa da : ByteAddr) (c : Byte) (h : P s) : P (putProgress b sa da c s) := by
  unfold Machine.putProgress
  dsimp only
  split
  · exact hP.setReg _ _ h
  · exact hP.setReg _ _ (hP.setReg _ _ h)

omit hP in
theorem keeps_testStrings (P : State → Prop) (b : Bs) (k : Access) : Keeps P (testStrings b k) :=
  keeps_bind (keeps_look P _) fun _ => keeps_ite (keeps_pure P ()) <|
    keeps_bind (keeps_look P _) fun src => keeps_bind (keeps_look P _) fun dst =>
      keeps_bind (keeps_testByteEnds P src _ .read) fun _ => keeps_testByteEnds P dst _ k

omit hP in
theorem keeps_testDestination (P : State → Prop) (b : Bs) (k : Access) : Keeps P (testDestination b k) :=
  keeps_bind (keeps_look P _) fun _ => keeps_ite (keeps_pure P ()) <|
    keeps_bind (keeps_look P _) fun dst => keeps_testByteEnds P dst _ k

theorem keeps_moveBytes (altered : Bool) (b : Bs) (sa da : ByteAddr) (n : Nat) :
    Keeps P (moveBytes altered b sa da n) := by
  induction n generalizing altered sa da with
  | zero => exact keeps_pure P ()
  | succ n ih =>
    exact keeps_bind (keeps_onceAltered _ (keeps_bind (keeps_need P _) fun x => hP.keeps_writeByte da _)) fun _ =>
      keeps_bind (keeps_look P _) fun da' => keeps_bind (keeps_look P _) fun sa' =>
        keeps_bind (keeps_change fun _ h => hP.putProgress b sa' da' _ h) fun _ => ih true sa' da'

theorem keeps_compareBytes (altered : Bool) (b : Bs) (sa da : ByteAddr) (n : Nat) :
    Keeps P (compareBytes altered b sa da n) := by
  induction n generalizing altered sa da with
  | zero => exact keeps_change fun _ h => hP.setCC34 _ _ h
  | succ n ih =>
    refine keeps_bind (keeps_onceAltered _ (keeps_bind (keeps_need P _) fun x => keeps_bind (keeps_need P _) fun y =>
      keeps_pure P (x, y))) fun _ => keeps_ite ?_ (keeps_change fun _ h => hP.setCC34 _ _ h)
    exact keeps_bind (keeps_look P _) fun da' => keeps_bind (keeps_look P _) fun sa' =>
      keeps_bind (keeps_change fun _ h => hP.putProgress b sa' da' _ h) fun _ => ih true sa' da'

theorem keeps_translateBytes (altered : Bool) (b : Bs) (sa da : ByteAddr) (n : Nat) :
    Keeps P (translateBytes altered b sa da n) := by
  induction n generalizing altered da with
  | zero => exact keeps_pure P ()
  | succ n ih =>
    exact keeps_bind (keeps_onceAltered _ (keeps_bind (keeps_need P _) fun _ => keeps_bind (keeps_need P _) fun _ =>
        hP.keeps_writeByte da _)) fun _ => keeps_bind (keeps_look P _) fun da' =>
      keeps_bind (keeps_change fun _ h => hP.putDestination b da' _ h) fun _ => ih true da'

theorem keeps_translateTest (altered : Bool) (b : Bs) (mask : Byte) (sa da : ByteAddr) (n : Nat) :
    Keeps P (translateTest altered b mask sa da n) := by
  induction n generalizing altered da with
  | zero => exact keeps_change fun _ h => hP.setCC4 _ h
  | succ n ih =>
    refine keeps_bind (keeps_onceAltered _ (keeps_bind (keeps_need P _) fun _ => keeps_need P _)) fun t =>
      keeps_ite ?_ (keeps_change fun s h => hP.setCC4 _ ?_)
    · exact keeps_bind (keeps_look P _) fun da' =>
        keeps_bind (keeps_change fun _ h => hP.putDestination b da' _ h) fun _ => ih true da'
    · split
      · exact h
      · exact hP.setReg _ _ h

theorem keeps_markRegister (mark : EditMark) (da : ByteAddr) : Keeps P (markRegister mark da) := by
  cases mark with
  | none => exact keeps_pure P ()
  | here => exact keeps_bind (hP.keeps_draw 32) fun _ => keeps_change fun _ h => hP.setReg _ _ h
  | next => exact keeps_bind (hP.keeps_draw 32) fun _ => keeps_change fun _ h => hP.setReg _ _ h

theorem keeps_editFault (altered : Bool) : Keeps P (editFault altered) :=
  keeps_bind (keeps_look P _) fun _ => keeps_ite (keeps_onceAltered _ (keeps_raise P _)) hP.keeps_done

theorem keeps_applyEdit (altered : Bool) (b : Bs) (e : EditStep) (sa da : ByteAddr) (n : Nat) :
    Keeps P (applyEdit altered b e sa da n) := by
  have after : Keeps P (do
      change (Machine.setCC e.cc)
      change (fun s => Machine.setReg b.r (withAddress s (getReg s b.r) (bytePlus s sa e.advance)) s)
      markRegister e.mark da
      change (fun s => Machine.putDestination b (bytePlus s da 1) (BitVec.ofNat 8 n) s)) :=
    keeps_bind (hP.keeps_setCC _) fun _ => keeps_bind (keeps_change fun _ h => hP.setReg _ _ h) fun _ =>
      keeps_bind (hP.keeps_markRegister _ _) fun _ => keeps_change fun _ h => hP.putDestination b _ _ h
  unfold applyEdit
  cases e.put with
  | none => exact after
  | some x => exact keeps_bind (keeps_onceAltered _ (hP.keeps_writeByte da _)) fun _ => after

theorem keeps_editBytes (altered : Bool) (b : Bs) (fill : Byte) (sa da : ByteAddr) (n : Nat) :
    Keeps P (editBytes altered b fill sa da n) := by
  induction n generalizing altered sa da with
  | zero => exact hP.keeps_done
  | succ n ih =>
    refine keeps_bind (keeps_onceAltered _ (keeps_need P _)) fun p => keeps_bind (keeps_look P _) fun ansi =>
      keeps_bind (keeps_look P _) fun cc => keeps_bind (keeps_look P _) fun da' => keeps_ite ?_ ?_
    · refine keeps_bind (keeps_onceAltered _ (keeps_need P _)) fun d => ?_
      cases editDigit ansi fill p d cc with
      | none => exact hP.keeps_editFault altered
      | some e =>
        exact keeps_bind (hP.keeps_applyEdit altered b e sa da n) fun _ => keeps_bind (keeps_look P _) fun sa' =>
          ih true sa' da'
    · exact keeps_bind (hP.keeps_applyEdit altered b _ sa da n) fun _ => ih true sa da'

/-! ### Shifts (42) -/

theorem putShifted {s : State} (r : BitVec 4) (d : Dword) (h : P s) : P (putShifted r d s) := by
  unfold Machine.putShifted
  split
  · exact hP.setReg _ _ h
  · exact hP.setReg _ _ (hP.setReg _ _ h)

theorem shiftCC {w : Nat} {s : State} (r : ShiftResult w) (h : P s) : P (shiftCC r s) := by
  unfold Machine.shiftCC
  dsimp only
  have h1 := hP.setCC2 r.cc2 h
  cases r.cc1 <;> cases r.cc4 <;> dsimp only
  · exact h1
  · exact hP.setCC4 _ h1
  · exact hP.setCC1 _ h1
  · exact hP.setCC4 _ (hP.setCC1 _ h1)

theorem shiftRemainder {s : State} (c : Option (BitVec 7)) (h : P s) : P (shiftRemainder c s) := by
  cases c with
  | none => exact h
  | some c => exact hP.setReg _ _ h

theorem shift {s : State} (r : BitVec 4) (d : BitVec 17) (c : BitVec 7) (h : P s) : P (shift r d c s) := by
  unfold Machine.shift
  dsimp only
  split
  · exact hP.shiftRemainder _ (hP.shiftCC _ (hP.putShifted _ _ h))
  · exact hP.shiftRemainder _ (hP.shiftCC _ (hP.setReg _ _ h))

theorem floatShiftCC {w : Nat} {s : State} (v : BitVec w) (a b : Bool) (h : P s) : P (floatShiftCC v a b s) :=
  hP.signCC _ (hP.setCC12 _ _ h)

theorem floatingShift {s : State} (r : BitVec 4) (d : BitVec 17) (c : BitVec 7) (h : P s) :
    P (floatingShift r d c s) := by
  unfold Machine.floatingShift
  dsimp only
  split
  · exact hP.floatShiftCC _ _ _ (hP.putShifted _ _ h)
  · exact hP.floatShiftCC _ _ _ (hP.setReg _ _ h)

/-! ### Analyze and fixed-point arithmetic (41) -/

theorem reportBankFault {s : State} (f : Option (Word × WordAddr)) (h : P s) : P (reportBankFault f s) := by
  have h1 : P (noteBankFault f s) := by
    cases f with
    | none => exact h
    | some x => exact hP.controls h rfl
  unfold Machine.reportBankFault
  dsimp only
  split
  · exact hP.controls h1 rfl
  · exact h1

theorem keeps_analyzeRegister (m : MR) (a : Word) : Keeps P (analyzeRegister m a) := by
  unfold analyzeRegister
  split
  · exact keeps_pure P ()
  · intro s h
    dsimp only
    split
    · exact hP.setReg _ _ h
    · exact hP.setReg _ _ (hP.reportBankFault _ h)
    · exact h

theorem analyzeCC {s : State} (a : Word) (h : P s) : P (analyzeCC a s) := hP.setCC34 _ _ (hP.setCC12 _ _ h)

theorem putResult {s : State} (r : BitVec 4) (x : Word × Bool × Bool) (h : P s) : P (putResult r x s) :=
  hP.arithCC _ (hP.setReg _ _ h)

theorem putResultPair {s : State} (r : BitVec 4) (x : Dword × Bool × Bool) (h : P s) : P (putResultPair r x s) :=
  hP.arithCC _ (hP.setRegPair _ _ h)

theorem putProduct {s : State} (r : BitVec 4) (p : Dword) (h : P s) : P (putProduct r p s) :=
  hP.setCC2 _ (hP.signCC _ (hP.setReg _ _ (hP.setReg _ _ h)))

theorem keeps_divideOverflow : Keeps P divideOverflow :=
  keeps_bind (keeps_change fun _ h => hP.setCC2 _ h) fun _ => keeps_bind (keeps_look P _) fun _ =>
    keeps_ite (keeps_raise P _) hP.keeps_done

omit hP in
theorem keeps_modifyOperand (P : State → Prop) (r : BitVec 4) (v : WordAddr) : Keeps P (modifyOperand r v) :=
  keeps_ite (keeps_bind (keeps_need P _) fun _ => keeps_pure P _) (keeps_need P _)

theorem modifyStore {s : State} (r : BitVec 4) (l : Loc) (w : Word) (h : P s) : P (modifyStore r l w s) := by
  unfold Machine.modifyStore
  split
  · exact h
  · exact hP.store _ _ h

/-! ### Floating-point arithmetic (43) -/

theorem keeps_floatFinish {w : Nat} {put : BitVec w → State → State} (hput : ∀ v s, P s → P (put v s))
    (e : FloatEnd w) : Keeps P (floatFinish put e) := by
  cases e with
  | value v cc => exact hP.keeps_changeDone fun _ h => hP.setCC _ (hput v _ h)
  | trap cc => exact keeps_bind (hP.keeps_setCC cc) fun _ => keeps_raise P _

/-- A short floating-point operation. -/
theorem keeps_floatShort (m : MR) (f : State → Word → FloatEnd 32) : Keeps P (do
    let w ← need (operandWord · m)
    let e ← look (fun s => f s w)
    floatFinish (Machine.setReg m.r) e) :=
  keeps_bind (keeps_need P _) fun _ => keeps_bind (keeps_look P _) fun e =>
    hP.keeps_floatFinish (fun _ _ h => hP.setReg _ _ h) e

/-- A long floating-point operation. -/
theorem keeps_floatLong (m : MR) (f : State → Dword → FloatEnd 64) : Keeps P (do
    requireEven m.r
    let d ← need (operandDword · m)
    let e ← look (fun s => f s d)
    floatFinish (Machine.setRegPair m.r) e) :=
  keeps_bind (keeps_requireEven P _) fun _ => keeps_bind (keeps_need P _) fun _ => keeps_bind (keeps_look P _) fun e =>
    hP.keeps_floatFinish (fun _ _ h => hP.setRegPair _ _ h) e

/-! ### Push-down instructions (46) -/

omit hP in
theorem keeps_testWords (P : State → Prop) (t : WordAddr) (d : Int) (k : Access) (n : Nat) :
    Keeps P (testWords t d k n) := by
  induction n generalizing t with
  | zero => exact keeps_pure P ()
  | succ n ih => exact keeps_bind (keeps_need P _) fun _ => keeps_bind (keeps_look P _) fun t' => ih t'

theorem keeps_pullDown (altered : Bool) (t : WordAddr) (r : BitVec 4) (n : Nat) : Keeps P (pullDown altered t r n) := by
  induction n generalizing altered t r with
  | zero => exact keeps_pure P ()
  | succ n ih =>
    exact keeps_bind (keeps_onceAltered _ (keeps_need P _)) fun w => keeps_bind (hP.keeps_setReg r w) fun _ =>
      keeps_bind (keeps_look P _) fun t' => ih true t' (r - 1)

omit hP in
theorem keeps_testPush (P : State → Prop) (n : Nat) (d : Dword) : Keeps P (testPush n d) :=
  keeps_bind (keeps_look P _) fun t => keeps_testWords P t 1 .write n

omit hP in
theorem keeps_testPull (P : State → Prop) (n : Nat) (d : Dword) : Keeps P (testPull n d) :=
  keeps_bind (keeps_look P _) fun t => keeps_testWords P t (-1) .read n

theorem keeps_pushWords (r : BitVec 4) (n : Nat) (d : Dword) : Keeps P (pushWords r n d) :=
  keeps_bind (keeps_look P _) fun t => hP.keeps_storeMultiple false t r n

theorem keeps_pullWords (r : BitVec 4) (n : Nat) (d : Dword) : Keeps P (pullWords r n d) :=
  keeps_bind (keeps_look P _) fun t => hP.keeps_pullDown false t _ n

theorem keeps_pushDown (m : MR) (n : Int) {test move : Dword → Act Unit} (htest : ∀ d, Keeps P (test d))
    (hmove : ∀ d, Keeps P (move d)) : Keeps P (pushDown m n test move) := by
  refine keeps_bind (keeps_need P _) fun v => keeps_bind (keeps_need P _) fun d => keeps_ite
    (keeps_ite (keeps_raise P _) (hP.keeps_changeDone fun _ h => hP.setCC _ h)) ?_
  exact keeps_bind (htest d) fun _ => keeps_bind (keeps_need P _) fun _ => keeps_bind (keeps_need P _) fun _ =>
    keeps_bind (keeps_look P _) fun d' => keeps_bind (hmove d) fun _ => keeps_bind (hP.keeps_writeWord _ _) fun _ =>
    keeps_bind (hP.keeps_writeWord _ _) fun _ => hP.keeps_changeDone fun _ h => hP.setCC _ h

end UserKeeps

end Sys2Proof.Proofs

namespace Sys2Proof.Proofs

open Sys2Proof Sys2Proof.Machine Sys2Proof.Laws

/-- An unprivileged instruction keeps what its stores and its changes of the controls keep, up to the trap it may take: its
meaning is composed of parts that each keep it. -/
theorem UserKeeps.endsIn_exec {P : State → Prop} (hP : UserKeeps P) {i : Instr} (hi : privileged i = false) {s : State}
    (h : P s) : EndsIn P (exec i s) := by
  cases i with
  | lcfi i => exact endsIn_run (hP.keeps_changeDone fun _ h => hP.loadControl _ _ h) h
  | cal1 m => exact endsIn_run (hP.keeps_call _ m) h
  | cal2 m => exact endsIn_run (hP.keeps_call _ m) h
  | cal3 m => exact endsIn_run (hP.keeps_call _ m) h
  | cal4 m => exact endsIn_run (hP.keeps_call _ m) h
  | plw m => exact endsIn_run (hP.keeps_pushDown m _ (keeps_testPull P _) (hP.keeps_pullWords _ _)) h
  | psw m => exact endsIn_run (hP.keeps_pushDown m _ (keeps_testPush P _) (hP.keeps_pushWords _ _)) h
  | plm m =>
    exact endsIn_run (keeps_bind (keeps_look P _) fun n => hP.keeps_pushDown m _ (keeps_testPull P _) fun d =>
      keeps_bind (hP.keeps_pullWords _ _ d) fun _ => keeps_bind (keeps_look P _) fun t =>
        hP.keeps_freeOverlap t _ n 16) h
  | psm m =>
    exact endsIn_run (keeps_bind (keeps_look P _) fun n => hP.keeps_pushDown m _ (keeps_testPush P _) fun d =>
      keeps_bind (hP.keeps_pushWords _ _ d) fun _ => keeps_bind (keeps_look P _) fun t =>
        hP.keeps_freeOverlap t _ n 16) h
  | ad m => exact endsIn_run (hP.keeps_evenNeedChangeOverflow _ _ fun _ _ h => hP.putResultPair _ _ h) h
  | cd m => exact endsIn_run (hP.keeps_needChange _ fun _ _ h => hP.setCC34 _ _ h) h
  | ld m => exact endsIn_run (hP.keeps_needChange _ fun _ _ h => hP.loadDword _ _ h) h
  | msp m =>
    exact endsIn_run (keeps_bind (keeps_look P _) fun n =>
      hP.keeps_pushDown m n (fun _ => keeps_pure P ()) fun _ => keeps_pure P ()) h
  | std m =>
    exact endsIn_run (keeps_bind (keeps_need P _) fun v => keeps_bind (keeps_look P _) fun d =>
      keeps_bind (hP.keeps_storeDword v d) fun _ => hP.keeps_done) h
  | sd m => exact endsIn_run (hP.keeps_evenNeedChangeOverflow _ _ fun _ _ h => hP.putResultPair _ _ h) h
  | clm m => exact endsIn_run (hP.keeps_needChange _ fun _ _ h => hP.setCC12 _ _ (hP.setCC34 _ _ h)) h
  | lcd m => exact endsIn_run (hP.keeps_needChangeOverflow _ fun _ _ h => hP.setCC2 _ (hP.loadDword _ _ h)) h
  | lad m => exact endsIn_run (hP.keeps_needChangeOverflow _ fun _ _ h => hP.setCC2 _ (hP.loadDword _ _ h)) h
  | fsl m => exact endsIn_run (hP.keeps_floatLong m _) h
  | fal m => exact endsIn_run (hP.keeps_floatLong m _) h
  | fdl m => exact endsIn_run (hP.keeps_floatLong m _) h
  | fml m => exact endsIn_run (hP.keeps_floatLong m _) h
  | ai i =>
    exact endsIn_run (keeps_bind (keeps_change fun _ h => hP.putResult _ _ h) fun _ => hP.keeps_doneWithOverflow) h
  | ci i =>
    show EndsIn P (execCi i s)
    exact endsIn_run (hP.keeps_changeDone fun _ h => hP.setCC2 _ (hP.setCC34 _ _ h)) h
  | li i => exact endsIn_run (hP.keeps_changeDone fun _ h => hP.loadWord _ _ h) h
  | mi i =>
    show EndsIn P (execMi i s)
    exact endsIn_run (hP.keeps_changeDone fun _ h => hP.putProduct _ _ h) h
  | sf m => exact endsIn_run (hP.keeps_needChange _ fun _ _ h => hP.floatingShift _ _ _ h) h
  | s m => exact endsIn_run (hP.keeps_needChange _ fun _ _ h => hP.shift _ _ _ h) h
  | las m =>
    exact endsIn_run (keeps_bind (keeps_need P _) fun v => keeps_bind (hP.keeps_loadAndSet v) fun _ =>
      hP.keeps_changeDone fun _ h => hP.loadWord _ _ h) h
  | cvs m =>
    exact endsIn_run (keeps_bind (keeps_need P _) fun v =>
      hP.keeps_needChange _ fun _ _ h => hP.loadWord _ _ (hP.setReg _ _ h)) h
  | cva m =>
    exact endsIn_run (keeps_bind (keeps_need P _) fun v =>
      hP.keeps_needChange _ fun _ _ h => hP.setCC1 _ (hP.loadWord _ _ h)) h
  | lm m =>
    exact endsIn_run (keeps_bind (keeps_need P _) fun v => keeps_bind (keeps_look P _) fun n =>
      keeps_bind (keeps_testEnds P v n .read) fun _ => keeps_bind (hP.keeps_loadMultiple false v _ n) fun _ =>
      keeps_bind (hP.keeps_freeOverlap v _ n 16) fun _ => hP.keeps_done) h
  | stm m =>
    exact endsIn_run (keeps_bind (keeps_need P _) fun v => keeps_bind (keeps_look P _) fun n =>
      keeps_bind (keeps_testEnds P v n .write) fun _ => keeps_bind (hP.keeps_storeMultiple false v _ n) fun _ =>
      keeps_bind (hP.keeps_freeOverlap v _ n 16) fun _ => hP.keeps_done) h
  | aw m => exact endsIn_run (hP.keeps_needChangeOverflow _ fun _ _ h => hP.putResult _ _ h) h
  | cw m => exact endsIn_run (hP.keeps_needChange _ fun _ _ h => hP.setCC2 _ (hP.setCC34 _ _ h)) h
  | lw m => exact endsIn_run (hP.keeps_needChange _ fun _ _ h => hP.loadWord _ _ h) h
  | mtw m =>
    exact endsIn_run (keeps_bind (keeps_need P _) fun v => keeps_bind (keeps_modifyOperand P _ v) fun _ =>
      keeps_bind (keeps_change fun _ h => hP.modifyStore _ _ _ h) fun _ =>
      keeps_bind (keeps_change fun _ h => hP.arithCC _ h) fun _ => hP.keeps_doneWithOverflow) h
  | stw m =>
    exact endsIn_run (keeps_bind (keeps_need P _) fun v => keeps_bind (hP.keeps_writeWord _ _) fun _ =>
      hP.keeps_done) h
  | dw m =>
    refine endsIn_run (keeps_bind (keeps_need P _) fun w => keeps_bind (keeps_look P _) fun q => ?_) h
    cases q with
    | none => exact hP.keeps_divideOverflow
    | some q => exact hP.keeps_changeDone fun _ h => hP.setCC2 _ (hP.loadWord _ _ (hP.setReg _ _ h))
  | mw m => exact endsIn_run (hP.keeps_needChange _ fun _ _ h => hP.putProduct _ _ h) h
  | sw m => exact endsIn_run (hP.keeps_needChangeOverflow _ fun _ _ h => hP.putResult _ _ h) h
  | clr m => exact endsIn_run (hP.keeps_needChange _ fun _ _ h => hP.setCC12 _ _ (hP.setCC34 _ _ h)) h
  | lcw m => exact endsIn_run (hP.keeps_needChangeOverflow _ fun _ _ h => hP.setCC2 _ (hP.loadWord _ _ h)) h
  | law m => exact endsIn_run (hP.keeps_needChangeOverflow _ fun _ _ h => hP.setCC2 _ (hP.loadWord _ _ h)) h
  | fss m => exact endsIn_run (hP.keeps_floatShort m _) h
  | fas m => exact endsIn_run (hP.keeps_floatShort m _) h
  | fds m => exact endsIn_run (hP.keeps_floatShort m _) h
  | fms m => exact endsIn_run (hP.keeps_floatShort m _) h
  | ttbs b =>
    exact endsIn_run (keeps_bind (keeps_requireByteString P) fun _ => keeps_bind (keeps_requireEven P _) fun _ =>
      keeps_bind (keeps_testDestination P b .read) fun _ => keeps_bind (keeps_look P _) fun mask =>
      keeps_bind (keeps_look P _) fun sa => keeps_bind (keeps_look P _) fun da => keeps_bind (keeps_look P _) fun n =>
      keeps_bind (hP.keeps_translateTest false b mask sa da n) fun _ => hP.keeps_done) h
  | tbs b =>
    exact endsIn_run (keeps_bind (keeps_requireByteString P) fun _ => keeps_bind (keeps_requireEven P _) fun _ =>
      keeps_bind (keeps_testDestination P b .write) fun _ => keeps_bind (keeps_look P _) fun sa =>
      keeps_bind (keeps_look P _) fun da => keeps_bind (keeps_look P _) fun n =>
      keeps_bind (hP.keeps_translateBytes false b sa da n) fun _ => hP.keeps_done) h
  | anlz m =>
    refine endsIn_run (keeps_bind (keeps_look P _) fun e => ?_) h
    rcases e with (t | x) | a
    · exact keeps_bind (keeps_raise P t) fun _ => hP.keeps_done
    · exact keeps_bind (keeps_change fun _ h => hP.setReg _ _ (hP.reportBankFault _ h)) fun _ =>
        keeps_bind (hP.keeps_draw 4) fun cc => keeps_bind (hP.keeps_setCC cc) fun _ => hP.keeps_done
    · exact keeps_bind (hP.keeps_analyzeRegister m a) fun _ =>
        keeps_bind (keeps_change fun _ h => hP.analyzeCC a h) fun _ => hP.keeps_done
  | cs m => exact endsIn_run (hP.keeps_needChange _ fun _ _ h => hP.setCC34 _ _ h) h
  | xw m =>
    exact endsIn_run (keeps_bind (keeps_need P _) fun v => keeps_bind (keeps_need P _) fun _ =>
      keeps_bind (keeps_change fun _ h => hP.store _ _ h) fun _ =>
      hP.keeps_changeDone fun _ h => hP.loadWord _ _ h) h
  | sts m =>
    exact endsIn_run (keeps_bind (keeps_need P _) fun v => hP.keeps_needChange _ fun _ _ h => hP.store _ _ h) h
  | eor m => exact endsIn_run (hP.keeps_needChange _ fun _ _ h => hP.loadWord _ _ h) h
  | or m => exact endsIn_run (hP.keeps_needChange _ fun _ _ h => hP.loadWord _ _ h) h
  | ls m => exact endsIn_run (hP.keeps_needChange _ fun _ _ h => hP.loadWord _ _ h) h
  | and m => exact endsIn_run (hP.keeps_needChange _ fun _ _ h => hP.loadWord _ _ h) h
  | ah m => exact endsIn_run (hP.keeps_needChangeOverflow _ fun _ _ h => hP.putResult _ _ h) h
  | ch m => exact endsIn_run (hP.keeps_needChange _ fun _ _ h => hP.setCC2 _ (hP.setCC34 _ _ h)) h
  | lh m => exact endsIn_run (hP.keeps_needChange _ fun _ _ h => hP.loadWord _ _ h) h
  | mth m =>
    exact endsIn_run (keeps_bind (keeps_need P _) fun b => keeps_bind (keeps_modifyOperand P _ _) fun _ =>
      keeps_bind (keeps_change fun _ h => hP.modifyStore _ _ _ h) fun _ =>
      keeps_bind (keeps_change fun _ h => hP.arithCC _ h) fun _ => hP.keeps_doneWithOverflow) h
  | sth m =>
    exact endsIn_run (keeps_bind (keeps_need P _) fun b => keeps_bind (keeps_look P _) fun w =>
      keeps_bind (keeps_commit fun _ _ h e => hP.writeHalf h e) fun _ =>
      hP.keeps_changeDone fun _ h => hP.setCC2 _ h) h
  | dh m =>
    refine endsIn_run (keeps_bind (keeps_need P _) fun w => keeps_bind (keeps_look P _) fun q => ?_) h
    cases q with
    | none => exact hP.keeps_divideOverflow
    | some q => exact hP.keeps_changeDone fun _ h => hP.setCC2 _ (hP.loadWord _ _ h)
  | mh m => exact endsIn_run (hP.keeps_needChange _ fun _ _ h => hP.loadWord _ _ h) h
  | sh m => exact endsIn_run (hP.keeps_needChangeOverflow _ fun _ _ h => hP.putResult _ _ h) h
  | lch m => exact endsIn_run (hP.keeps_needChange _ fun _ _ h => hP.loadWord _ _ h) h
  | lah m => exact endsIn_run (hP.keeps_needChange _ fun _ _ h => hP.loadWord _ _ h) h
  | cbs b =>
    exact endsIn_run (keeps_bind (keeps_requireByteString P) fun _ => keeps_bind (keeps_testStrings P b .read) fun _ =>
      keeps_bind (keeps_look P _) fun sa => keeps_bind (keeps_look P _) fun da => keeps_bind (keeps_look P _) fun n =>
      keeps_bind (hP.keeps_compareBytes false b sa da n) fun _ => hP.keeps_done) h
  | mbs b =>
    exact endsIn_run (keeps_bind (keeps_requireByteString P) fun _ => keeps_bind (keeps_testStrings P b .write) fun _ =>
      keeps_bind (keeps_look P _) fun sa => keeps_bind (keeps_look P _) fun da => keeps_bind (keeps_look P _) fun n =>
      keeps_bind (hP.keeps_moveBytes false b sa da n) fun _ => hP.keeps_done) h
  | ebs b =>
    exact endsIn_run (keeps_bind (keeps_requireDecimal P) fun _ => keeps_ite (keeps_raise P _) <|
      keeps_bind (keeps_testDestination P b .write) fun _ => keeps_bind (keeps_look P _) fun fill =>
      keeps_bind (keeps_look P _) fun sa => keeps_bind (keeps_look P _) fun da => keeps_bind (keeps_look P _) fun n =>
      hP.keeps_editBytes false b fill sa da n) h
  | bdr m =>
    exact endsIn_run (keeps_bind (keeps_look P _) fun v => hP.keeps_branchIf _ m fun _ h => hP.setReg _ _ h) h
  | bir m =>
    exact endsIn_run (keeps_bind (keeps_look P _) fun v => hP.keeps_branchIf _ m fun _ h => hP.setReg _ _ h) h
  | awm m =>
    exact endsIn_run (keeps_bind (keeps_need P _) fun v => keeps_bind (keeps_need P _) fun _ =>
      keeps_bind (keeps_look P _) fun x => keeps_bind (keeps_change fun _ h => hP.store _ _ h) fun _ =>
      keeps_bind (keeps_change fun _ h => hP.arithCC _ h) fun _ => hP.keeps_doneWithOverflow) h
  | exu m =>
    exact endsIn_run (keeps_bind (keeps_need P _) fun v => keeps_bind (keeps_need P _) fun l =>
      keeps_bind (keeps_need P _) fun w => keeps_change fun _ h => hP.controls h rfl) h
  | bcr m => exact endsIn_run (keeps_bind (keeps_look P _) fun taken => hP.keeps_branchIf _ m fun _ h => h) h
  | bcs m => exact endsIn_run (keeps_bind (keeps_look P _) fun taken => hP.keeps_branchIf _ m fun _ h => h) h
  | bal m =>
    exact endsIn_run (keeps_bind (keeps_need P _) fun v => keeps_bind (keeps_change fun _ h => hP.setReg _ _ h) fun _ =>
      keeps_bind (keeps_altering (keeps_need P _)) fun _ => keeps_change fun _ h => hP.branchTo v h) h
  | int m =>
    exact endsIn_run (keeps_bind (keeps_need P _) fun w =>
      keeps_bind (keeps_change fun _ h => hP.setReg _ _ (hP.setReg _ _ h)) fun _ =>
      keeps_bind (hP.keeps_setCC _) fun _ => hP.keeps_done) h
  | lcf m => exact endsIn_run (hP.keeps_needChange _ fun _ _ h => hP.loadControl _ _ h) h
  | cb m => exact endsIn_run (hP.keeps_needChange _ fun _ _ h => hP.setCC2 _ (hP.setCC34 _ _ h)) h
  | lb m => exact endsIn_run (hP.keeps_needChange _ fun _ _ h => hP.loadWord _ _ h) h
  | mtb m =>
    exact endsIn_run (keeps_bind (keeps_need P _) fun b => keeps_bind (keeps_modifyOperand P _ _) fun _ =>
      keeps_bind (keeps_change fun _ h => hP.modifyStore _ _ _ h) fun _ =>
      hP.keeps_changeDone fun _ h => hP.setCC34 _ _ (hP.setCC12 _ _ h)) h
  | stcf m =>
    exact endsIn_run (keeps_bind (keeps_need P _) fun b => keeps_bind (hP.keeps_writeByte b _) fun _ =>
      hP.keeps_done) h
  | stb m =>
    exact endsIn_run (keeps_bind (keeps_need P _) fun b => keeps_bind (hP.keeps_writeByte b _) fun _ =>
      hP.keeps_done) h
  | pack m =>
    exact endsIn_run (keeps_bind (keeps_decimalOperand P m _ .read) fun b => keeps_bind (keeps_need P _) fun z =>
      keeps_bind (keeps_look P _) fun e => hP.keeps_decimalFinish e) h
  | unpk m => exact endsIn_run (hP.keeps_decimalStore m _ _ _) h
  | ds m => exact endsIn_run (hP.keeps_decimalOn m _) h
  | da m => exact endsIn_run (hP.keeps_decimalOn m _) h
  | dd m => exact endsIn_run (hP.keeps_decimalOnShort m _) h
  | dm m => exact endsIn_run (hP.keeps_decimalOnShort m _) h
  | dsa m =>
    exact endsIn_run (keeps_bind (keeps_requireDecimal P) fun _ => keeps_bind (keeps_need P _) fun d =>
      keeps_bind (keeps_look P _) fun e => hP.keeps_decimalFinish e) h
  | dc m =>
    exact endsIn_run (keeps_bind (keeps_readDecimal P m) fun b => keeps_bind (keeps_look P _) fun a =>
      keeps_ite (hP.keeps_changeDone fun _ h => hP.setCC34 _ _ (hP.setCC12 _ _ h)) (hP.keeps_decimalFault true)) h
  | dl m => exact endsIn_run (hP.keeps_decimalOn m _) h
  | dst m => exact endsIn_run (hP.keeps_decimalStore m _ _ _) h
  | _ => cases hi

end Sys2Proof.Proofs

namespace Sys2Proof.Proofs

open Sys2Proof Sys2Proof.Machine Sys2Proof.Laws

/-! ### Slave mode: what no instruction changes -/

/-- The state beside the program status, the registers and memory that an instruction in slave mode leaves alone: memory
control storage, interrupt levels, panel, snapshot and what is to come from outside. -/
structure SystemKept (s t : State) : Prop where
  map : t.map = s.map
  acc : t.acc = s.acc
  lock : t.lock = s.lock
  ints : t.ints = s.ints
  inst : t.inst = s.inst
  alarm : t.alarm = s.alarm
  pcf : t.pcf = s.pcf
  clockMargin : t.clockMargin = s.clockMargin
  snapControl : t.snapControl = s.snapControl
  snapArmed : t.snapArmed = s.snapArmed
  snapSample : t.snapSample = s.snapSample
  stopSwitches : t.stopSwitches = s.stopSwitches
  compute : t.compute = s.compute
  ioLine : t.ioLine = s.ioLine
  ioScript : t.ioScript = s.ioScript
  dioScript : t.dioScript = s.dioScript
  inputs : t.inputs = s.inputs

/-- The program status of a slave program with its privileged fields unchanged. -/
structure ModeKept (s t : State) : Prop where
  ms : t.psd.ms = true
  mm : t.psd.mm = s.psd.mm
  ma : t.psd.ma = s.psd.ma
  rp : t.psd.rp = s.psd.rp
  wk : t.psd.wk = s.psd.wk
  dm : t.psd.dm = s.psd.dm
  am : t.psd.am = s.psd.am
  ansi : t.psd.ansi = s.psd.ansi
  inhibits : inhibits t = inhibits s

/-- What an instruction in slave mode keeps as long as it takes no trap. -/
structure SlaveKept (s t : State) : Prop where
  system : SystemKept s t
  mode : ModeKept s t
  blocks : OtherBlocksKept s t

theorem systemKept_refl (s : State) : SystemKept s s := by constructor <;> rfl

theorem SystemKept.writeLoc {s t : State} (h : SystemKept s t) (l : Loc) (w : Word) :
    SystemKept s (writeLoc l w t) := by
  obtain ⟨⟩ := h
  constructor <;> simpa

theorem slaveKept_refl {s : State} (h : s.psd.ms = true) : SlaveKept s s :=
  ⟨systemKept_refl s, ⟨h, rfl, rfl, rfl, rfl, rfl, rfl, rfl, rfl⟩, fun _ _ _ => rfl⟩

/-- A store goes to memory or to the current block (R40). -/
theorem otherBlocksKept_writeLoc {s t : State} (h : OtherBlocksKept s t) (hrp : t.psd.rp = s.psd.rp) (l : Loc)
    (w : Word) : OtherBlocksKept s (writeLoc l w t) := by
  cases l with
  | mem a => exact h
  | reg n =>
    intro b k hb
    have hne : regIndex t.psd n ≠ (b ++ k : BitVec 6).toNat := by
      intro e
      have e' : t.psd.rp.extractLsb' 0 2 ++ n = b ++ k := BitVec.eq_of_toNat_eq e
      have hhi := congrArg (BitVec.extractLsb' 4 2) e'
      rw [BitVec.extractLsb'_append_eq_left, BitVec.extractLsb'_append_eq_left, hrp] at hhi
      exact hb hhi.symm
    have hset : (setReg n w t).regs[(b ++ k : BitVec 6).toNat]'(b ++ k : BitVec 6).isLt =
        t.regs[(b ++ k : BitVec 6).toNat]'(b ++ k : BitVec 6).isLt := by
      simp [setReg, hne]
    exact hset.trans (h b k hb)

theorem userKeeps_slaveKept (s : State) : UserKeeps (SlaveKept s) where
  store l w h :=
    ⟨h.system.writeLoc l w, by
      obtain ⟨⟩ := h.mode
      constructor <;> simpa [inhibits], otherBlocksKept_writeLoc h.blocks h.mode.rp l w⟩
  controls := by
    rintro u t ⟨hs, hm, hb⟩ ht
    rw [ht]
    exact ⟨by obtain ⟨⟩ := hs; constructor <;> assumption, by obtain ⟨⟩ := hm; constructor <;> assumption, hb⟩

/-! ### What taking a trap leaves -/

/-- Before its entry sequence a trap changes only the CPU's own trap registers and the status of the banks (R640, R664). -/
def TrapNoted (s r : State) : Prop :=
  r = { s with
    tcc := r.tcc, jumped := r.jumped, completed := r.completed, stale := r.stale, pend := r.pend, banks := r.banks
    free := r.free, halt := r.halt, pdf := r.pdf, faultStatus := r.faultStatus, pfiGenerated := r.pfiGenerated }

/-- The entry of a trap leaves the state as it was but for the pending trap, or with the old PSD stored, or with another PSD
as well (R523, R524, R640). -/
def EntryLeaves (r t : State) : Prop :=
  ∃ u, (u = r ∨ ∃ tsf ra l0 l1, u = psdStored r r.psd tsf ra l0 l1) ∧
    t = { u with psd := t.psd, jumped := t.jumped, free := t.free, pend := t.pend }

/-- The additional operations of a trap XPSD touch the new program status only (R524). -/
theorem trapModify_cases (old : State) (t : Trap) (w : Word) (s : State) :
    ∃ p n, trapModify old t w s = { s with psd := p, free := n } := by
  unfold trapModify
  split
  · dsimp only
    split <;> exact ⟨_, _, rfl⟩
  · split <;> exact ⟨_, _, rfl⟩

theorem trapSequence_cases (t : Trap) (s : State) : EntryLeaves s (trapSequence t s) := by
  unfold trapSequence
  split
  · exact ⟨s, .inl rfl, rfl⟩
  · rename_i w _
    split
    · split
      · rename_i t' s' he
        rcases entryXpsd_error_cases he with rfl | ⟨l0, l1, rfl⟩
        · exact ⟨_, .inl rfl, rfl⟩
        · exact ⟨_, .inr ⟨_, _, l0, l1, rfl⟩, rfl⟩
      · rename_i s' he
        obtain ⟨a, -, he⟩ := entryXpsd_cases he
        obtain ⟨l0, l1, _, _, n1, n2, -, -, -, rfl⟩ := exchangePsd_cases he
        obtain ⟨p, n, hm⟩ := trapModify_cases s t w
          { psdStored s s.psd t.tsf t.ra l0 l1 with psd := exchangedPsd s.psd n1 n2 (bit w 8), jumped := true }
        exact ⟨_, .inr ⟨_, _, l0, l1, rfl⟩, by rw [hm]⟩
    · exact ⟨s, .inl rfl, rfl⟩

/-- Taking a trap: its registers, then its entry. -/
theorem enterTrap_cases (t : Trap) (s : State) : ∃ r, TrapNoted s r ∧ EntryLeaves r (enterTrap t s) := by
  have hn : TrapNoted s (noteBankFault t.bankFault { s with
      tcc := t.tcc, jumped := true, completed := false, stale := none, pend := .none }) := by
    unfold noteBankFault
    split <;> rfl
  unfold enterTrap
  dsimp only
  generalize noteBankFault t.bankFault _ = r at hn
  split
  · refine ⟨{ r with halt := .memoryFault }, ?_, _, .inl rfl, rfl⟩
    rw [hn]; rfl
  · split
    · exact ⟨r, hn, trapSequence_cases t r⟩
    · split
      · refine ⟨{ r with halt := .hung, pfiGenerated := true }, ?_, _, .inl rfl, rfl⟩
        rw [hn]; rfl
      · refine ⟨_, ?_, trapSequence_cases t _⟩
        rw [hn]; rfl

theorem EntryLeaves.system {s r t : State} (h : SystemKept s r) (he : EntryLeaves r t) : SystemKept s t := by
  obtain ⟨u, hu, ht⟩ := he
  have h1 : SystemKept s u := by
    rcases hu with rfl | ⟨_, _, l0, l1, rfl⟩
    · exact h
    · exact (h.writeLoc _ _).writeLoc _ _
  rw [ht]
  obtain ⟨⟩ := h1
  constructor <;> assumption

theorem EntryLeaves.blocks {s r t : State} (h : OtherBlocksKept s r) (hrp : r.psd.rp = s.psd.rp)
    (he : EntryLeaves r t) : OtherBlocksKept s t := by
  obtain ⟨u, hu, ht⟩ := he
  have h1 : OtherBlocksKept s u := by
    rcases hu with rfl | ⟨_, _, l0, l1, rfl⟩
    · exact h
    · exact otherBlocksKept_writeLoc (otherBlocksKept_writeLoc h hrp _ _) (by simpa using hrp) _ _
  rw [ht]
  exact h1

/-- A trap taken in slave mode leaves alone the system state and the registers of the other blocks. -/
theorem enterTrap_kept {s u : State} (h : SlaveKept s u) (x : Trap) :
    SystemKept s (enterTrap x u) ∧ OtherBlocksKept s (enterTrap x u) := by
  obtain ⟨r, hr, he⟩ := enterTrap_cases x u
  have hs : SystemKept s r := by
    rw [hr]
    obtain ⟨⟩ := h.system
    constructor <;> assumption
  have hb : OtherBlocksKept s r := by rw [hr]; exact h.blocks
  have hrp : r.psd.rp = s.psd.rp := by rw [hr]; exact h.mode.rp
  exact ⟨he.system hs, he.blocks hb hrp⟩

/-! ### The instructions -/

/-- A privileged instruction in slave mode does nothing but trap (R652). -/
theorem exec_privileged_slave {i : Instr} (hi : privileged i = true) {s : State} (hs : s.psd.ms = true) :
    exec i s = .next (enterTrap { loc := 0x40#8, tcc := 0b0010#4 } s) := by
  have trap : ∀ k : Unit → Act Unit,
      run (requireMaster >>= k) s = .next (enterTrap { loc := 0x40#8, tcc := 0b0010#4 } s) :=
    fun k => run_trap (bind_error (requireMaster_slave hs) k)
  cases i with
  | lpsd _ | xpsd _ | lrp _ | mmc _ | lra _ | lms _ | wait _ | rd _ | wd _ => exact trap _
  | sio _ | tio _ | tdv _ | aio _ => exact trap _
  | hio _ | rio _ | polp _ | polr _ => exact trap _
  | _ => cases hi

theorem slave_endsIn_exec (i : Instr) {s : State} (hs : s.psd.ms = true) : EndsIn (SlaveKept s) (exec i s) := by
  cases hi : privileged i with
  | false => exact (userKeeps_slaveKept s).endsIn_exec hi (slaveKept_refl hs)
  | true =>
    rw [exec_privileged_slave hi hs]
    rintro _ ⟨⟩
    exact .inr ⟨_, s, slaveKept_refl hs, rfl⟩

/-- Settles O10: every instruction keeps `SlaveKept` up to the trap that may end it, and taking a trap keeps what lies
outside the program status and the current block. -/
theorem slaveIsolation : Obligations.SlaveIsolation := by
  intro i s t hs h
  obtain ⟨hsys, hb, hend⟩ :
      SystemKept s t ∧ OtherBlocksKept s t ∧ (ModeKept s t ∨ ∃ x u, SlaveKept s u ∧ t = enterTrap x u) := by
    rcases slave_endsIn_exec i hs t h with hk | ⟨x, u, hk, rfl⟩
    · exact ⟨hk.system, hk.blocks, .inl hk.mode⟩
    · obtain ⟨hsys, hb⟩ := enterTrap_kept hk x
      exact ⟨hsys, hb, .inr ⟨x, u, hk, rfl⟩⟩
  refine ⟨hsys.map, hsys.acc, hsys.lock, hsys.ints, hsys.inst, hsys.alarm, hsys.pcf, hsys.clockMargin,
    hsys.snapControl, hsys.snapArmed, hsys.snapSample, hsys.stopSwitches, hsys.compute, hsys.ioLine, hsys.ioScript,
    hsys.dioScript, hsys.inputs, hb, ?_⟩
  rcases hend with hm | ⟨x, u, ⟨_, hm, hu⟩, ht⟩
  · exact .inl ⟨hm.ms, hm.mm, hm.ma, hm.rp, hm.wk, hm.dm, hm.am, hm.ansi, hm.inhibits⟩
  · exact .inr ⟨x, u, ht, hm.ms, hm.mm, hm.ma, hm.rp, hm.wk, hm.dm, hm.am, hm.ansi, hm.inhibits, hu⟩

end Sys2Proof.Proofs

namespace Sys2Proof.Proofs

open Sys2Proof Sys2Proof.Config Sys2Proof.Machine Sys2Proof.Laws

/-! ### Properties that every step keeps -/

/-- A property that every step keeps. It may speak of the installation, of memory, of the register pointer and of the
events to come; it survives a store, a load of the pointer that names an installed block (R54), and the events of a
boundary. -/
structure MachineKeeps (P : State → Prop) : Prop where
  other : ∀ {s t : State}, P s → t.inst = s.inst → t.mem = s.mem → t.psd.rp = s.psd.rp → t.inputs = s.inputs → P t
  store : ∀ {s : State} (l : Loc) (w : Word), P s → P (writeLoc l w s)
  pointer : ∀ {s : State} (rp : BitVec 4), P s → rpInvalid s rp = false → P { s with psd := { s.psd with rp := rp } }
  events : ∀ {s : State}, P s → P (takeInputs s)

namespace MachineKeeps

variable {P : State → Prop} (hP : MachineKeeps P)

include hP

theorem user : UserKeeps P where
  store := hP.store
  controls h e := by rw [e]; exact hP.other h rfl rfl rfl rfl

/-! ### Loading the program status -/

/-- A load of the pointer under the test of LPSD and XPSD: LP = 0, or a block that is installed (R522, R523). -/
theorem pointerIf {s : State} {lp : Bool} {rp : BitVec 4} (h : P s) (hv : ¬ (lp = true ∧ rpInvalid s rp = true)) :
    P { s with psd := { s.psd with rp := if lp then rp else s.psd.rp } } := by
  cases lp with
  | false => exact h
  | true => exact hP.pointer rp h (by simpa using hv)

theorem psdStored {s : State} (old : Psd) (tsf : BitVec 8) (ra : Bool) (l0 l1 : Loc) (h : P s) :
    P (psdStored s old tsf ra l0 l1) := hP.store _ _ (hP.store _ _ h)

theorem exchangePsd {s t : State} {old : Psd} {a : Via} {lp ra : Bool} {e : Option (BitVec 8)} {tsf : BitVec 8}
    (h : P s) (he : exchangePsd s old a lp e tsf ra = .ok t) : P t := by
  obtain ⟨l0, l1, _, _, n1, n2, -, -, hv, rfl⟩ := exchangePsd_cases he
  have hs := hP.psdStored old tsf ra l0 l1 h
  have hi : (Laws.psdStored s old tsf ra l0 l1).inst = s.inst := by simp [Laws.psdStored]
  have hp : (Laws.psdStored s old tsf ra l0 l1).psd = s.psd := by simp [Laws.psdStored]
  have h1 := hP.pointerIf (lp := lp) (rp := field n2 24 27) hs (by simpa [rpInvalid, hi] using hv)
  exact hP.other h1 rfl rfl (by rw [hp]; rfl) rfl

theorem loadPsd {s : State} {d : Dword} {lp : Bool} (h : P s)
    (hv : ¬ (lp = true ∧ rpInvalid s (field (loWord d) 24 27) = true)) : P (loadPsd d lp s) :=
  hP.other (hP.pointerIf h hv) rfl rfl rfl rfl

/-! ### Traps and interrupts (60) -/

theorem entry : EntryKeeps P where
  store _ _ _ _ _ h := hP.psdStored _ _ _ _ _ h
  exchange _ _ _ _ _ _ _ h he := hP.exchangePsd h he
  pend _ _ h := hP.other h rfl rfl rfl rfl
  modify old t w s h := by
    unfold trapModify
    dsimp only
    repeat' split
    all_goals exact hP.other h rfl rfl rfl rfl

theorem enterTrap {s : State} (t : Trap) (h : P s) : P (enterTrap t s) :=
  enterTrap_keeps hP.entry (fun _ _ _ h => hP.other h rfl rfl rfl rfl) (fun _ _ h => hP.other h rfl rfl rfl rfl)
    (fun _ _ _ h => hP.other h rfl rfl rfl rfl) (fun _ h => hP.other h rfl rfl rfl rfl)
    (fun _ _ h => hP.other h rfl rfl rfl rfl) t s h

theorem singleInstruction {s t : State} {l : Level} {w : Word} (h : P s) (e : singleInstruction l w s = .ok t) :
    P t := by
  unfold Machine.singleInstruction at e
  split at e
  · cases e
  · rename_i at_ k _
    split at e
    · cases e
    · rename_i v _
      cases e
      have h1 : P (if field w 8 11 = 0#4 then s
          else writeLoc at_ (counterResult (opOf w) k (field w 8 11) v).1 s) := by
        split
        · exact h
        · exact hP.store _ _ h
      split
      · split <;> exact hP.other h1 rfl rfl rfl rfl
      · exact hP.other h1 rfl rfl rfl rfl

theorem interruptSequence {s : State} (l : Level) (h : P s) : P (interruptSequence l s) := by
  unfold Machine.interruptSequence
  dsimp only
  split
  · exact hP.other h rfl rfl rfl rfl
  · split
    · split
      · rename_i t s' he
        rcases entryXpsd_error_cases he with rfl | ⟨l0, l1, rfl⟩
        · exact hP.other h rfl rfl rfl rfl
        · exact hP.other (hP.psdStored _ _ _ l0 l1 h) rfl rfl rfl rfl
      · rename_i s' he
        obtain ⟨a, -, hx⟩ := entryXpsd_cases he
        exact hP.exchangePsd h hx
    · split
      · split
        · exact hP.other h rfl rfl rfl rfl
        · exact hP.singleInstruction h (by assumption)
      · exact hP.other h rfl rfl rfl rfl

theorem enterInterrupt {s : State} (l : Level) (h : P s) : P (enterInterrupt l s) :=
  hP.interruptSequence l (hP.other h rfl rfl rfl rfl)

/-! ### Privileged instructions (48, 49) -/

theorem endsIn_lpsd (m : MR) {s : State} (h : P s) : EndsIn P (execLpsd m s) := by
  refine endsIn_run (keeps_bind (keeps_requireMaster P) fun _ => keeps_bind (keeps_need P _) fun d => ?_) h
  intro s h
  rw [bind_look]
  split
  · exact h
  · rename_i hv
    have h1 := hP.loadPsd (lp := m.r.getLsbD 3) (d := d) h (by simpa using hv)
    rw [change_apply]
    show P (pswControl _ _ _)
    unfold pswControl clearHighestActive
    repeat' split
    all_goals exact hP.other h1 rfl rfl rfl rfl

theorem endsIn_lrp (m : MR) {s : State} (h : P s) : EndsIn P (execLrp m s) := by
  refine endsIn_run (keeps_bind (keeps_requireMaster P) fun _ => keeps_bind (keeps_need P _) fun w => ?_) h
  intro s h
  rw [bind_look]
  split
  · exact h
  · rename_i hv
    have hvalid : rpInvalid s (0#2 ++ field w 26 27) = false := by
      have hhi : (0#2 ++ field w 26 27).extractLsb' 2 2 = 0#2 := BitVec.extractLsb'_append_eq_left
      have hlo : (0#2 ++ field w 26 27).extractLsb' 0 2 = field w 26 27 := BitVec.extractLsb'_append_eq_right
      simpa [rpInvalid, hhi, hlo] using hv
    exact hP.user.advance (hP.pointer _ h hvalid)

omit hP in
theorem putCodes {P : State → Prop} {put : BitVec 8 → BitVec 2 → State → State}
    (hput : ∀ p v s, P s → P (put p v s)) (p : BitVec 8) (w : Word) (n : Nat) {s : State} (h : P s) : P (putCodes put p w n s) := by
  induction n with
  | zero => exact h
  | succ n ih => exact hput _ _ _ ih

theorem setMap {s : State} (p : BitVec 8) (v : BitVec 13) (h : P s) : P (setMap p v s) := hP.other h rfl rfl rfl rfl
theorem setAcc {s : State} (p : BitVec 8) (v : BitVec 2) (h : P s) : P (setAcc p v s) := hP.other h rfl rfl rfl rfl
theorem setLock {s : State} (p : BitVec 8) (v : BitVec 2) (h : P s) : P (setLock p v s) := hP.other h rfl rfl rfl rfl

theorem loadControlWord {s : State} (b : ControlBlock) (p : BitVec 8) (w : Word) (h : P s) :
    P (loadControlWord b p w s) := by
  unfold Machine.loadControlWord
  cases b with
  | locks => exact putCodes (fun _ _ _ h => hP.setLock _ _ h) p w 16 h
  | access => exact putCodes (fun _ _ _ h => hP.setAcc _ _ h) p w 16 h
  | map8 => exact hP.setMap _ _ (hP.setMap _ _ (hP.setMap _ _ (hP.setMap _ _ h)))
  | map13 => exact hP.setMap _ _ (hP.setMap _ _ h)

theorem imageProgress {s : State} (r : BitVec 4) (b : ControlBlock) (v : WordAddr) (c : Word) (k : Nat) (h : P s) :
    P (imageProgress r b v c k s) := hP.user.setReg _ _ (hP.user.setReg _ _ h)

theorem keeps_imageWord (r : BitVec 4) (b : ControlBlock) (v : WordAddr) (c : Word) (k : Nat) :
    Keeps P (imageWord r b v c k) := by
  intro s h
  unfold imageWord
  split
  · exact h
  · show P (if _ then _ else _)
    split
    · exact hP.imageProgress r b v c k h
    · exact h

theorem keeps_loadImage (r : BitVec 4) (b : ControlBlock) (v : WordAddr) (c : Word) (k n : Nat) :
    Keeps P (loadImage r b v c k n) := by
  induction n generalizing k with
  | zero => exact keeps_pure P ()
  | succ n ih =>
    exact keeps_bind (hP.keeps_imageWord r b v c k) fun w =>
      keeps_bind (keeps_change fun _ h => hP.loadControlWord b _ w h) fun _ => ih (k + 1)

theorem endsIn_mmc (m : MR) {s : State} (h : P s) : EndsIn P (execMmc m s) := by
  refine endsIn_run (keeps_bind (keeps_requireMaster P) fun _ => keeps_bind (keeps_requireEven P _) fun _ => ?_) h
  cases controlBlock m.x with
  | none => exact keeps_raise P _
  | some b =>
    exact keeps_bind (keeps_look P _) fun v => keeps_bind (keeps_look P _) fun c =>
      keeps_bind (UserKeeps.keeps_testEnds P v _ .read) fun _ => keeps_bind (hP.keeps_loadImage _ b v c 0 _) fun _ =>
      hP.user.keeps_changeDone fun _ h => hP.imageProgress _ b v c _ h

theorem endsIn_lra (m : MR) {s : State} (h : P s) : EndsIn P (execLra m s) :=
  endsIn_run (keeps_bind (keeps_requireMaster P) fun _ => keeps_bind (keeps_need P _) fun _ =>
    keeps_bind (keeps_look P _) fun _ => hP.user.keeps_changeDone fun _ h => hP.user.setCC _ (hP.user.setReg _ _ h)) h

theorem keeps_finishLms (bad : Bool) : Keeps P (finishLms bad) :=
  keeps_bind (hP.user.keeps_draw 1) fun _ => hP.user.keeps_changeDone fun _ h => hP.user.setCC _ h

theorem keeps_lmsResult (r : BitVec 4) (w : Word) : Keeps P (lmsResult r w) :=
  keeps_bind (hP.user.keeps_setReg r w) fun _ => hP.keeps_finishLms false

theorem endsIn_lms (m : MR) {s : State} (h : P s) : EndsIn P (execLms m s) := by
  refine endsIn_run (keeps_bind (keeps_requireMaster P) fun _ => keeps_bind (keeps_need P _) fun v =>
    keeps_bind (keeps_look P _) fun cc => ?_) h
  cases lmsAction cc with
  | loadAndSet => exact keeps_bind (hP.user.keeps_loadAndSet v) fun w => hP.keeps_lmsResult _ w
  | inhibitParity =>
    exact keeps_bind (keeps_need P _) fun a => keeps_bind (keeps_look P _) fun bad =>
      keeps_bind (keeps_change fun _ h => hP.user.setReg _ _ h) fun _ => hP.keeps_finishLms bad
  | setBadParity =>
    exact keeps_bind (keeps_need P _) fun a => keeps_bind (keeps_need P _) fun w =>
      keeps_bind (keeps_change fun _ h => hP.other h rfl rfl rfl rfl) fun _ => hP.keeps_lmsResult _ w
  | setMargins =>
    exact keeps_bind (keeps_need P _) fun a => keeps_bind (keeps_change fun _ h => hP.other h rfl rfl rfl rfl) fun _ =>
      hP.keeps_finishLms false
  | status f clear =>
    exact keeps_bind (keeps_need P _) fun a => keeps_bind (keeps_look P _) fun _ =>
      keeps_bind (hP.keeps_lmsResult _ _) fun _ => keeps_ite (keeps_bind (hP.user.keeps_draw 22) fun _ =>
        keeps_change fun _ h => hP.other h rfl rfl rfl rfl) (keeps_pure P ())
  | clearMemory =>
    exact keeps_bind (keeps_need P _) fun a => keeps_bind (keeps_change fun _ h => hP.store _ _ h) fun _ =>
      hP.keeps_finishLms false
  | reserved =>
    exact keeps_bind (keeps_need P _) fun a => keeps_bind (hP.user.keeps_setReg _ 0) fun _ =>
      keeps_altering (keeps_raise P _)

theorem endsIn_wait (m : MR) {s : State} (h : P s) : EndsIn P (execWait m s) :=
  endsIn_run (keeps_bind (keeps_requireMaster P) fun _ => keeps_bind hP.user.keeps_done fun _ =>
    keeps_change fun _ h => hP.other h rfl rfl rfl rfl) h

omit hP in
theorem keeps_busHangs {α : Type} (P : State → Prop) (tcc : BitVec 4) : Keeps P (busHangs tcc : Act α) :=
  keeps_bind (keeps_look P _) fun _ => keeps_ite (keeps_stopWith P _) (keeps_raise P _)

theorem keeps_dioRespond (q : DioRequest) : Keeps P (dioRespond q) := by
  refine keeps_bind (keeps_change fun _ h => hP.other h rfl rfl rfl rfl) fun _ =>
    keeps_bind (keeps_look P _) fun script => ?_
  rcases script with _ | ⟨_ | _, rest⟩
  · exact keeps_bind (hP.user.keeps_draw 32) fun _ => keeps_bind (hP.user.keeps_draw 2) fun _ => keeps_pure P _
  · exact keeps_bind (keeps_change fun _ h => hP.other h rfl rfl rfl rfl) fun _ => keeps_pure P _
  · exact keeps_bind (keeps_change fun _ h => hP.other h rfl rfl rfl rfl) fun _ => keeps_busHangs P _

theorem rdLoad {s : State} (r : BitVec 4) (w : Word) (h : P s) : P (rdLoad r w s) := by
  unfold Machine.rdLoad
  split
  · exact h
  · exact hP.user.setReg _ _ h

theorem keeps_rdSnapshot (r : BitVec 4) : Keeps P (rdSnapshot r) :=
  keeps_bind (hP.user.keeps_draw 32) fun w => keeps_bind (keeps_change fun _ h => hP.rdLoad r w h) fun _ =>
    keeps_bind (keeps_look P _) fun _ => keeps_ite (keeps_change fun _ h => hP.other h rfl rfl rfl rfl)
      (keeps_bind (hP.user.keeps_draw 1) fun _ => keeps_change fun _ h => hP.user.setCC34 _ _ h)

theorem keeps_rdInternal (r : BitVec 4) (a : Half) : Keeps P (rdInternal r a) := by
  unfold rdInternal
  refine keeps_ite (keeps_change fun _ h => hP.user.setCC _ h) (keeps_ite (keeps_change fun _ h => hP.rdLoad r _ h)
    (keeps_ite (keeps_change fun _ h => hP.rdLoad r _ h) (keeps_ite (hP.keeps_rdSnapshot r) (keeps_pure P ()))))

theorem rdInterrupt {s : State} (r : BitVec 4) (a : Half) (h : P s) : P (rdInterrupt r a s) := by
  unfold Machine.rdInterrupt
  split
  · exact h
  · split
    · exact h
    · split
      · exact h
      · exact hP.rdLoad r _ h

theorem endsIn_rd (m : MR) {s : State} (h : P s) : EndsIn P (execRd m s) := by
  refine endsIn_run (keeps_bind (keeps_requireMaster P) fun _ => keeps_bind (keeps_need P _) fun v => ?_) h
  dsimp only
  split
  · exact keeps_bind (hP.keeps_rdInternal _ _) fun _ => hP.user.keeps_done
  · split
    · exact hP.user.keeps_changeDone fun _ h => hP.rdInterrupt _ _ h
    · exact keeps_bind (hP.keeps_dioRespond _) fun _ =>
        hP.user.keeps_changeDone fun _ h => hP.user.setCC34 _ _ (hP.user.setCC12 _ _ (hP.rdLoad _ _ h))

omit hP in
/-- Two states chosen between. -/
theorem ite_keeps {P : State → Prop} {c : Prop} [Decidable c] {a b : State} (ha : P a) (hb : P b) :
    P (if c then a else b) := by
  split
  · exact ha
  · exact hb

theorem wdInternal {s : State} (data : Word) (a : Half) (h : P s) : P (wdInternal data a s) := by
  unfold Machine.wdInternal
  repeat' apply ite_keeps
  all_goals exact hP.other h rfl rfl rfl rfl

theorem wdInterrupt {s : State} (data : Word) (a : Half) (h : P s) : P (wdInterrupt data a s) := by
  unfold Machine.wdInterrupt
  split <;> exact hP.other h rfl rfl rfl rfl

theorem endsIn_wd (m : MR) {s : State} (h : P s) : EndsIn P (execWd m s) := by
  refine endsIn_run (keeps_bind (keeps_requireMaster P) fun _ => keeps_bind (keeps_need P _) fun v => ?_) h
  dsimp only
  split
  · exact keeps_bind hP.user.keeps_done fun _ => keeps_change fun _ h => hP.wdInternal _ _ h
  · split
    · exact keeps_bind hP.user.keeps_done fun _ => keeps_change fun _ h => hP.wdInterrupt _ _ h
    · exact keeps_bind (keeps_look P _) fun _ => keeps_bind (hP.keeps_dioRespond _) fun _ =>
        hP.user.keeps_changeDone fun _ h => hP.user.setCC34 _ _ (hP.user.setCC12 _ _ h)

theorem setCC123 {s : State} (a b c : Bool) (h : P s) : P (setCC123 a b c s) := hP.other h rfl rfl rfl rfl

theorem keeps_ioRespond (q : IoRequest) : Keeps P (ioRespond q) := by
  intro s h
  unfold ioRespond
  split <;> exact hP.other h rfl rfl rfl rfl

theorem putCommunication {s : State} (c : Option (Word × Word)) (h : P s) : P (putCommunication c s) := by
  have put : ∀ (n : WordAddr) (w : Word) (u : State), P u →
      P (if memExists u (homespaceBias u n) then writeLoc (.mem (homespaceBias u n)) w u else u) := by
    intro n w u hu
    split
    · exact hP.store _ _ hu
    · exact hu
  cases c with
  | none => exact h
  | some x => exact put _ _ _ (put _ _ _ h)

theorem putAnswer {s : State} (k : IoKind) (r : BitVec 4) (w1 w2 : Word) (h : P s) : P (putAnswer k r w1 w2 s) := by
  unfold Machine.putAnswer putStatus
  repeat' split
  all_goals first
    | exact h
    | exact hP.user.setReg _ _ h
    | exact hP.user.setReg _ _ (hP.user.setReg _ _ h)

theorem keeps_ioExchange (k : IoKind) (r : BitVec 4) (v : WordAddr) : Keeps P (ioExchange k r v) := by
  refine keeps_bind (keeps_look P _) fun q => keeps_bind (hP.keeps_ioRespond q) fun x => ?_
  cases x with
  | silent => exact keeps_busHangs P _
  | answer a1 a2 a3 w1 w2 comm line =>
    dsimp only
    obtain ⟨c1, c2, c3⟩ := admitted k a1 a2 a3
    refine keeps_bind (keeps_change fun _ h => hP.other (hP.putCommunication _ h) rfl rfl rfl rfl) fun _ =>
      hP.user.keeps_changeDone fun s h => hP.setCC123 _ _ _ ?_
    split
    · exact h
    · exact hP.putAnswer k r w1 w2 h

theorem keeps_ioInstruction (k : IoKind) (m : MR) : Keeps P (ioInstruction k m) :=
  keeps_bind (keeps_requireMaster P) fun _ => keeps_bind (keeps_need P _) fun v => hP.keeps_ioExchange k _ v

theorem keeps_selectedIo (m : MR) : Keeps P (selectedIo m) := by
  refine keeps_bind (keeps_requireMaster P) fun _ => keeps_bind (keeps_need P _) fun v => ?_
  cases selection v with
  | some k => exact hP.keeps_ioExchange k _ v
  | none => exact hP.user.keeps_changeDone fun _ h => hP.setCC123 _ _ _ h

theorem endsIn_xpsd (m : MR) {s : State} (h : P s) : EndsIn P (execXpsd m s) := by
  refine endsIn_run (keeps_bind (keeps_requireMaster P) fun _ => keeps_bind (keeps_need P _) fun v =>
    keeps_attempt (fun _ _ h he => hP.exchangePsd h he) fun u t u' h he => ?_) h
  rcases exchangePsd_error_cases he with rfl | ⟨l0, l1, rfl⟩
  · exact h
  · exact hP.psdStored _ _ _ l0 l1 h

/-! ### Instructions and steps -/

/-- Every instruction keeps the property up to the trap it may take. -/
theorem endsIn_exec (i : Instr) {s : State} (h : P s) : EndsIn P (exec i s) := by
  cases hi : privileged i with
  | false => exact hP.user.endsIn_exec hi h
  | true =>
    cases i with
    | lpsd m => exact hP.endsIn_lpsd m h
    | xpsd m => exact hP.endsIn_xpsd m h
    | lrp m => exact hP.endsIn_lrp m h
    | mmc m => exact hP.endsIn_mmc m h
    | lra m => exact hP.endsIn_lra m h
    | lms m => exact hP.endsIn_lms m h
    | wait m => exact hP.endsIn_wait m h
    | rd m => exact hP.endsIn_rd m h
    | wd m => exact hP.endsIn_wd m h
    | sio m => exact endsIn_run (hP.keeps_ioInstruction .sio m) h
    | tio m => exact endsIn_run (hP.keeps_ioInstruction .tio m) h
    | tdv m => exact endsIn_run (hP.keeps_ioInstruction .tdv m) h
    | aio m => exact endsIn_run (hP.keeps_ioInstruction .aio m) h
    | hio m => exact endsIn_run (hP.keeps_selectedIo m) h
    | rio m => exact endsIn_run (hP.keeps_selectedIo m) h
    | polp m => exact endsIn_run (hP.keeps_selectedIo m) h
    | polr m => exact endsIn_run (hP.keeps_selectedIo m) h
    | _ => cases hi

/-- An instruction word keeps the property, with the trap that it may take. -/
theorem runWord {s t : State} (w : Word) (h : P s) (e : runWord w s = .next t) : P t := by
  unfold Machine.runWord at e
  split at e
  · rename_i i _
    rcases hP.endsIn_exec i h t e with ht | ⟨x, u, hu, rfl⟩
    · exact ht
    · exact hP.enterTrap x hu
  · cases e
    exact hP.enterTrap _ h

theorem noteStale {s t : State} (h : P t) : P (noteStale s t) := by
  unfold Machine.noteStale
  dsimp only
  split
  · exact hP.other h rfl rfl rfl rfl
  · exact h

theorem fireSnapshot {s : State} (h : P s) : P (fireSnapshot s) := by
  unfold Machine.fireSnapshot
  dsimp only
  split
  · split <;> exact hP.other h rfl rfl rfl rfl
  · exact h

theorem runInstruction {s t : State} (h : P s) (e : runInstruction s = .next t) : P t := by
  unfold Machine.runInstruction at e
  dsimp only at e
  have h1 := hP.fireSnapshot h
  split at e
  · cases e
    exact hP.enterTrap _ h1
  · obtain ⟨r, hr, rfl⟩ := mapNext_next e
    refine hP.noteStale (hP.runWord _ ?_ hr)
    exact hP.other h1 rfl rfl rfl rfl

theorem runSubject {s t : State} (w : Word) (h : P s) (e : runSubject w s = .next t) : P t := by
  obtain ⟨r, hr, rfl⟩ := mapNext_next e
  refine hP.noteStale (hP.runWord _ ?_ hr)
  exact hP.other h rfl rfl rfl rfl

theorem settle {s : State} (h : P s) : P (settle s) :=
  hP.other h (settle_inst s) (settle_mem s) (by rw [settle_psd]) (settle_inputs s)

/-- The ADDRESS STOP halt that may follow an activity keeps the property (R715). -/
theorem withReferenceStop {f : State → Result} {s t : State} (hf : ∀ r, f s = .next r → P r)
    (e : withReferenceStop f s = .next t) : P t := by
  rcases withReferenceStop_cases f s with e' | e' <;> rw [e'] at e
  · exact hf t e
  · obtain ⟨r, hr, rfl⟩ := mapNext_next e
    exact hP.other (hf r hr) (haltAtReference_inst r) (haltAtReference_mem r) (by rw [haltAtReference_psd])
      (haltAtReference_inputs r)

/-- An activity of the CPU, its ADDRESS STOP halt and the end of STEP. -/
theorem activity {f : State → Result} {s t : State} (hf : ∀ r, f s = .next r → P r)
    (e : mapNext Machine.settle (Machine.withReferenceStop f s) = .next t) : P t := by
  obtain ⟨r, hr, rfl⟩ := mapNext_next e
  exact hP.settle (hP.withReferenceStop hf hr)

theorem enterPending {s t : State} (x : Trap) (h : P s) (e : enterPending x s = .next t) : P t := by
  unfold Machine.enterPending at e
  split at e
  · cases e
    exact hP.events h
  · refine hP.activity (fun r hr => ?_) e
    cases hr
    exact hP.enterTrap x h

theorem enterAnticipated {s t : State} (h : P s) (e : enterAnticipated s = .next t) : P t := by
  unfold Machine.enterAnticipated at e
  split at e <;> cases e
  · exact hP.enterTrap _ h
  · exact h

/-- Every step keeps the property. -/
theorem step {s t : State} (h : P s) (e : step s = .next t) : P t := by
  unfold Machine.step at e
  split at e
  · exact hP.enterPending _ h e
  · exact hP.activity (fun r hr => hP.runSubject _ h hr) e
  · have h1 := hP.events h
    dsimp only at e
    split at e
    · exact hP.enterPending _ h1 e
    · cases e
      exact h1
    · split at e
      · cases e
        exact hP.settle h1
      · exact hP.activity (fun r hr => hP.enterAnticipated h1 hr) e
      · refine hP.withReferenceStop (fun r hr => ?_) e
        cases hr
        exact hP.enterInterrupt _ h1
      · cases e
        exact hP.other h1 rfl rfl rfl rfl
      · exact hP.activity (fun r hr => hP.runInstruction h1 hr) e

end MachineKeeps

end Sys2Proof.Proofs

namespace Sys2Proof.Proofs

open Sys2Proof Sys2Proof.Config Sys2Proof.Machine Sys2Proof.Laws

/-! ### The register pointer through events and steps (10_state R54) -/

/-- No INSERT PSW2 is among the events to come. -/
def NoInsertToCome (s : State) : Prop := ∀ es ∈ s.inputs, ∀ e ∈ es, ∀ w, e ≠ .insert2 w

/-- The change keeps the number of installed blocks and the events to come, and keeps the register pointer or clears it. -/
structure PointerKept (s t : State) : Prop where
  blocks : t.inst.nblocks = s.inst.nblocks
  pointer : t.psd.rp = s.psd.rp ∨ t.psd.rp = 0
  inputs : t.inputs = s.inputs

theorem pointerKept_refl (s : State) : PointerKept s s := ⟨rfl, .inl rfl, rfl⟩

theorem PointerKept.trans {s t u : State} (h : PointerKept s t) (k : PointerKept t u) : PointerKept s u where
  blocks := k.blocks.trans h.blocks
  pointer := k.pointer.elim (fun e => h.pointer.imp e.trans e.trans) .inr
  inputs := k.inputs.trans h.inputs

theorem rpInvalid_congr {s t : State} (h : t.inst.nblocks = s.inst.nblocks) (rp : BitVec 4) :
    rpInvalid t rp = rpInvalid s rp := by
  simp [rpInvalid, h]

/-- Where some block is installed, block 0 is. -/
theorem rpInvalid_zero {s : State} (h : PointerInstalled s) : rpInvalid s 0 = false := by
  simp only [PointerInstalled, rpInvalid, Bool.or_eq_false_iff, decide_eq_false_iff_not] at h ⊢
  obtain ⟨-, hn⟩ := h
  exact ⟨rfl, by simp; omega⟩

theorem PointerKept.installed {s t : State} (h : PointerKept s t) (hs : PointerInstalled s) : PointerInstalled t := by
  unfold PointerInstalled
  rw [rpInvalid_congr h.blocks]
  rcases h.pointer with e | e <;> rw [e]
  · exact hs
  · exact rpInvalid_zero hs

theorem writeLoc_pointerKept (l : Loc) (w : Word) (s : State) : PointerKept s (writeLoc l w s) :=
  ⟨by simp, .inl (by simp), by simp⟩

theorem whenIdle_pointerKept {f : State → State} (hf : ∀ s, PointerKept s (f s)) (s : State) :
    PointerKept s (whenIdle f s) := by
  unfold whenIdle
  split
  · exact hf s
  · exact pointerKept_refl s

theorem putReal_pointerKept (a : WordAddr) (w : Word) (s : State) : PointerKept s (putReal a w s) := by
  unfold putReal
  split
  · exact writeLoc_pointerKept _ _ _
  · exact pointerKept_refl s

theorem putHomespace_pointerKept (l : List Word) (a : WordAddr) (s : State) : PointerKept s (putHomespace a l s) := by
  induction l generalizing a s with
  | nil => exact pointerKept_refl s
  | cons w l ih => exact (putReal_pointerKept _ w s).trans (ih (a + 1) _)

theorem panelStore_pointerKept (v : WordAddr) (w : Word) (s : State) : PointerKept s (panelStore v w s) := by
  unfold panelStore
  dsimp only
  generalize (if s.psd.mm = true then wrapWord s v else v) = x
  split
  · exact writeLoc_pointerKept (.reg _) w s
  · exact putReal_pointerKept _ w s

theorem injectTrap_pointerKept (t : Trap) (s : State) : PointerKept s (injectTrap t s) := by
  rcases injectTrap_cases t s with e | e <;> rw [e]
  · exact pointerKept_refl s
  · exact ⟨rfl, .inl rfl, rfl⟩

theorem powerUp_pointerKept (s : State) : PointerKept s (powerUp s) := by
  have frame : ∀ (c : Prop) [Decidable c] (r : State), r.inst = s.inst → r.psd.rp = 0 → r.inputs = s.inputs →
      PointerKept s (if c then signalLevel ⟨.power, 0⟩ r else r) := by
    intro c _ r hi hr hn
    split <;> exact ⟨congrArg _ hi, .inr hr, hn⟩
  unfold powerUp cpuReset
  exact frame _ _ (by dsimp only) (by dsimp only; rfl) (by dsimp only)

theorem moveSwitch_pointerKept (v : SwitchSetting) (s : State) : PointerKept s (moveSwitch v s) := by
  cases v with
  | decimalOverride on =>
    unfold moveSwitch
    dsimp only
    split <;> exact ⟨rfl, .inl rfl, rfl⟩
  | _ => exact ⟨rfl, .inl rfl, rfl⟩

theorem memoryBusHangs_pointerKept (b : Bool) (s : State) : PointerKept s (memoryBusHangs b s) := by
  unfold memoryBusHangs
  split
  · exact pointerKept_refl s
  · split
    · exact ⟨rfl, .inl rfl, rfl⟩
    · refine PointerKept.trans ?_ (injectTrap_pointerKept _ _)
      exact ⟨rfl, .inl rfl, rfl⟩

/-- Every event but INSERT PSW2 keeps the register pointer or, as a reset does, clears it. -/
theorem applyEvent_pointerKept {e : Event} (he : ∀ w, e ≠ .insert2 w) (s : State) : PointerKept s (applyEvent e s) := by
  cases e <;> dsimp only [applyEvent]
  case insert2 w => exact absurd rfl (he w)
  case powerOn => exact powerUp_pointerKept s
  case rioReset => exact ⟨rfl, .inr rfl, rfl⟩
  case cpuReset | sysReset =>
    apply whenIdle_pointerKept
    exact fun _ => ⟨rfl, .inr rfl, rfl⟩
  case run | memoryClear | insert1 | incrementAddress | snapEnter =>
    apply whenIdle_pointerKept
    exact fun _ => ⟨rfl, .inl rfl, rfl⟩
  case stepOne =>
    apply whenIdle_pointerKept
    intro r
    split
    · exact pointerKept_refl r
    · exact ⟨rfl, .inl rfl, rfl⟩
  case load u => exact whenIdle_pointerKept (fun r => putHomespace_pointerKept (bootstrap r u) _ r) s
  case store a w => exact whenIdle_pointerKept (panelStore_pointerKept a w) s
  case switch v => exact moveSwitch_pointerKept v s
  case agentStore a w => exact putReal_pointerKept a w s
  case mapParity | dataBusCheck | memoryParity => exact injectTrap_pointerKept _ s
  case memoryBusHang b => exact memoryBusHangs_pointerKept b s
  case watchdogPhase1 =>
    split
    · exact injectTrap_pointerKept _ s
    · exact pointerKept_refl s
  all_goals exact ⟨rfl, .inl rfl, rfl⟩

theorem applyEvents_pointerKept {l : List Event} (hl : ∀ e ∈ l, ∀ w, e ≠ .insert2 w) (s : State) :
    PointerKept s (applyEvents l s) := by
  induction l generalizing s with
  | nil => exact pointerKept_refl s
  | cons e l ih =>
    obtain ⟨he, hl⟩ := List.forall_mem_cons.1 hl
    exact (applyEvent_pointerKept he s).trans (ih hl _)

theorem levelLines_pointerKept (s : State) : PointerKept s (levelLines s) := by
  unfold levelLines
  dsimp only
  repeat' split
  all_goals exact ⟨rfl, .inl rfl, rfl⟩

/-- The pointer names an installed block, and the operator will not load another. -/
def PointerSafe (s : State) : Prop := PointerInstalled s ∧ NoInsertToCome s

theorem PointerKept.safe {s t : State} (h : PointerKept s t) (hs : PointerSafe s) : PointerSafe t :=
  ⟨h.installed hs.1, by unfold NoInsertToCome; rw [h.inputs]; exact hs.2⟩

theorem takeInputs_pointerSafe {s : State} (hs : PointerSafe s) : PointerSafe (takeInputs s) := by
  obtain ⟨hp, hn⟩ := hs
  unfold takeInputs
  split
  · exact (levelLines_pointerKept s).safe ⟨hp, hn⟩
  · rename_i now later e
    rw [NoInsertToCome, e] at hn
    obtain ⟨hnow, hlater⟩ := List.forall_mem_cons.1 hn
    have h1 : PointerSafe { s with inputs := later } := ⟨hp, hlater⟩
    exact ((applyEvents_pointerKept hnow _).trans (levelLines_pointerKept _)).safe h1

/-- LRP, LPSD, XPSD and the entries load a pointer only when it passes the test; nothing else of a step loads one. -/
theorem machineKeeps_pointerSafe : MachineKeeps PointerSafe where
  other h hi _ hr hn := PointerKept.safe ⟨by rw [hi], .inl hr, hn⟩ h
  store l w h := (writeLoc_pointerKept l w _).safe h
  pointer _ h hv := ⟨hv, h.2⟩
  events := takeInputs_pointerSafe

/-- Settles O7: `PointerSafe` is kept by every step. -/
theorem stepKeepsPointer : Obligations.StepKeepsPointer := by
  intro s t hn hp h
  exact machineKeeps_pointerSafe.step ⟨hp, hn⟩ h

end Sys2Proof.Proofs

namespace Sys2Proof.Proofs

open Sys2Proof Sys2Proof.Machine Sys2Proof.Laws

/-! ### The image of the program status doubleword (10_state R52) -/

/-- The bits of the first word. -/
theorem bit_psdWord1 (p : Psd) :
    bit (psdWord1 p) 0 = p.cc1 ∧ bit (psdWord1 p) 1 = p.cc2 ∧ bit (psdWord1 p) 2 = p.cc3 ∧ bit (psdWord1 p) 3 = p.cc4 ∧
    bit (psdWord1 p) 4 = false ∧ bit (psdWord1 p) 5 = p.fs ∧ bit (psdWord1 p) 6 = p.fz ∧ bit (psdWord1 p) 7 = p.fn ∧
    bit (psdWord1 p) 8 = p.ms ∧ bit (psdWord1 p) 9 = p.mm ∧ bit (psdWord1 p) 10 = p.dm ∧ bit (psdWord1 p) 11 = p.am ∧
    bit (psdWord1 p) 12 = p.ansi := by
  simp only [bit, psdWord1, BitVec.getLsbD_append]
  simp

/-- The fields of the first word. -/
theorem field_psdWord1 (p : Psd) : field (psdWord1 p) 13 14 = 0#2 ∧ field (psdWord1 p) 15 31 = p.ia := by
  simp (disch := omega) only [field, psdWord1,
    BitVec.extractLsb'_append_eq_of_le, BitVec.extractLsb'_append_eq_of_add_le]
  simp

/-- The bits of the second word. -/
theorem bit_psdWord2 (p : Psd) (tsf : BitVec 8) (ra : Bool) :
    bit (psdWord2 p tsf ra) 4 = false ∧ bit (psdWord2 p tsf ra) 5 = p.ci ∧ bit (psdWord2 p tsf ra) 6 = p.ii ∧
    bit (psdWord2 p tsf ra) 7 = p.ei ∧ bit (psdWord2 p tsf ra) 8 = p.ma ∧ bit (psdWord2 p tsf ra) 9 = false ∧
    bit (psdWord2 p tsf ra) 28 = ra := by
  simp only [bit, psdWord2, BitVec.getLsbD_append]
  simp

/-- The fields of the second word. -/
theorem field_psdWord2 (p : Psd) (tsf : BitVec 8) (ra : Bool) :
    field (psdWord2 p tsf ra) 0 1 = 0#2 ∧ field (psdWord2 p tsf ra) 2 3 = p.wk ∧ field (psdWord2 p tsf ra) 10 15 = p.ea ∧
    field (psdWord2 p tsf ra) 16 23 = tsf ∧ field (psdWord2 p tsf ra) 24 27 = p.rp ∧
    field (psdWord2 p tsf ra) 29 31 = 0#3 := by
  simp (disch := omega) only [field, psdWord2,
    BitVec.extractLsb'_append_eq_of_le, BitVec.extractLsb'_append_eq_of_add_le]
  simp

/-- Settles O11. -/
theorem psdImage : Obligations.PsdImage := by
  intro p q tsf ra
  obtain ⟨a0, a1, a2, a3, a4, a5, a6, a7, a8, a9, a10, a11, a12⟩ := bit_psdWord1 p
  obtain ⟨a13, a15⟩ := field_psdWord1 p
  obtain ⟨b4, b5, b6, b7, b8, b9, b28⟩ := bit_psdWord2 p tsf ra
  obtain ⟨b0, b2, b10, b16, b24, b29⟩ := field_psdWord2 p tsf ra
  have load : loadPsd1 (psdWord1 p) q =
      { p with wk := q.wk, ci := q.ci, ii := q.ii, ei := q.ei, ma := q.ma, ea := q.ea, rp := q.rp } := by
    simp only [loadPsd1, a0, a1, a2, a3, a5, a6, a7, a8, a9, a10, a11, a12, a15]
  exact ⟨_, _, rfl, rfl, a0, a1, a2, a3, a4, a5, a6, a7, a8, a9, a10, a11, a12, a13, a15, b0, b2, b4, b5, b6, b7, b8, b9,
    b10, b16, b24, b28, b29, load⟩

/-! ### The state after reset -/

/-- Settles O5: no byte is listed, and of the two blocks installed the pointer names the first. -/
theorem resetInvariants : Obligations.ResetInvariants := by
  have hmem : MemCanonical State.reset := rfl
  have hrp : PointerInstalled State.reset := rfl
  exact ⟨hmem, hrp⟩

end Sys2Proof.Proofs

namespace Sys2Proof.Proofs

open Sys2Proof Sys2Proof.Machine Sys2Proof.Laws

/-! ### What a store does, all at once -/

/-- A word stored at a real address leaves every byte outside it alone. -/
theorem readCell_writeLoc {l : Loc} {x : Nat} (h : Outside l x) (w : Word) (s : State) :
    readCell (writeLoc l w s).mem x = readCell s.mem x := by
  cases l with
  | reg n => rfl
  | mem a =>
    have hx := h a rfl
    exact readCell_writeWordAt_ne w (by omega)

theorem wordAt_writeLoc {s : State} (h : MemCanonical s) (l : Loc) (w : Word) : wordAt (writeLoc l w s) l = w := by
  cases l with
  | reg n => exact getReg_setReg_same n w s
  | mem a => exact readWordAt_writeWordAt h a w

theorem writeLoc_keptBut (l : Loc) (w : Word) (s : State) :
    KeptBut s (writeLoc l w s) (· = l) (fun _ => False) := by
  refine ⟨fun x hx => readCell_writeLoc (hx l rfl) w s, fun n hn _ => ?_,
    otherBlocksKept_writeLoc (fun _ _ _ => rfl) rfl l w⟩
  cases l with
  | reg k => exact getReg_setReg_ne (fun e => hn (congrArg Loc.reg e)) w s
  | mem a => rfl

theorem writeLoc_onlyData (l : Loc) (w : Word) (s : State) : OnlyData s (writeLoc l w s) := by
  cases l <;> rfl

/-! ### Homespace (20 R124) and LOAD (70 R721, R722) -/

/-- Homespace location `n` lies at its biased address. -/
theorem homespaceBias_toNat (s : State) {n : Nat} (h : n < 1024) :
    (homespaceBias s (BitVec.ofNat 22 n)).toNat = s.inst.homespaceBias.toNat * 16384 + n := by
  have hb := s.inst.homespaceBias.isLt
  have hz : (BitVec.ofNat 22 n).extractLsb' 10 12 = 0#12 := by
    apply BitVec.eq_of_toNat_eq
    simp [Nat.shiftRight_eq_div_pow]
    omega
  have hn : n % 4194304 % 16384 = n := by omega
  simp only [homespaceBias, hz, if_true, BitVec.toNat_append, BitVec.extractLsb'_toNat, BitVec.toNat_ofNat]
  rw [← Nat.shiftLeft_add_eq_or_of_lt (by omega)]
  simp [Nat.shiftLeft_eq]
  omega

theorem homespaceBias_ne (s : State) {m n : Nat} (hm : m < 1024) (hn : n < 1024) (h : m ≠ n) :
    homespaceBias s (BitVec.ofNat 22 m) ≠ homespaceBias s (BitVec.ofNat 22 n) := by
  intro e
  have e' := congrArg BitVec.toNat e
  rw [homespaceBias_toNat s hm, homespaceBias_toNat s hn] at e'
  omega

/-- What words stored from Homespace location `n` on leave: memory with its parity and watch list, in it the words, and
every byte outside them as it was. -/
structure HomespaceStored (n : Nat) (l : List Word) (s t : State) : Prop where
  words : ∀ k, k < l.length → l[k]? = some (readWordAt t.mem (homespaceBias s (BitVec.ofNat 22 (n + k))))
  bytes : ∀ x, (∀ k, k < l.length → Outside (.mem (homespaceBias s (BitVec.ofNat 22 (n + k)))) x) →
    readCell t.mem x = readCell s.mem x
  frame : t = { s with mem := t.mem, badParity := t.badParity, watch := t.watch }

/-- A word outside the stored ones is as it was. -/
theorem HomespaceStored.readWordAt {n : Nat} {l : List Word} {s t : State} (h : HomespaceStored n l s t) {a : WordAddr}
    (ha : ∀ k, k < l.length → a ≠ homespaceBias s (BitVec.ofNat 22 (n + k))) :
    readWordAt t.mem a = readWordAt s.mem a := by
  have key : ∀ j, j < 4 → readCell t.mem (4 * a.toNat + j) = readCell s.mem (4 * a.toNat + j) := by
    intro j hj
    refine h.bytes _ fun k hk b hb => ?_
    cases hb
    have hne : a.toNat ≠ (homespaceBias s (BitVec.ofNat 22 (n + k))).toNat := fun e => ha k hk (BitVec.eq_of_toNat_eq e)
    omega
  have h0 : readCell t.mem (4 * a.toNat) = readCell s.mem (4 * a.toNat) := key 0 (by omega)
  simp only [Machine.readWordAt, h0, key 1 (by omega), key 2 (by omega), key 3 (by omega)]

theorem putHomespace_stored (l : List Word) {n : Nat} (hn : n + l.length ≤ 1024) {s : State} (hs : MemCanonical s)
    (he : ∀ k, k < l.length → memExists s (homespaceBias s (BitVec.ofNat 22 (n + k))) = true) :
    HomespaceStored n l s (putHomespace (BitVec.ofNat 22 n) l s) := by
  induction l generalizing n s with
  | nil => exact ⟨fun k hk => absurd hk (Nat.not_lt_zero k), fun _ _ => rfl, rfl⟩
  | cons w l ih =>
    rw [List.length_cons] at hn
    generalize hu : writeLoc (.mem (homespaceBias s (BitVec.ofNat 22 n))) w s = u
    have hput : putHomespace (BitVec.ofNat 22 n) (w :: l) s = putHomespace (BitVec.ofNat 22 (n + 1)) l u := by
      have hex := he 0 (by simp)
      rw [Nat.add_zero] at hex
      simp only [putHomespace, putReal, hex, if_true, hu, BitVec.ofNat_add]
      rfl
    have hbias : ∀ a, homespaceBias u a = homespaceBias s a := by intro a; rw [← hu]; rfl
    have hshift : ∀ k, n + 1 + k = n + (k + 1) := fun k => by omega
    have hcan : MemCanonical u := by rw [← hu]; exact wf_writeLoc hs _ _
    have rest := ih (n := n + 1) (s := u) (by omega) hcan fun k hk => by
      rw [hbias, hshift, ← hu]
      exact he (k + 1) (by simpa using hk)
    rw [hput]
    generalize putHomespace (BitVec.ofNat 22 (n + 1)) l u = t at rest
    refine ⟨fun k hk => ?_, fun x hx => ?_, ?_⟩
    · cases k with
      | zero =>
        have hne : ∀ k, k < l.length →
            homespaceBias s (BitVec.ofNat 22 n) ≠ homespaceBias u (BitVec.ofNat 22 (n + 1 + k)) := fun k hk => by
          rw [hbias]
          exact homespaceBias_ne s (by omega) (by omega) (by omega)
        rw [Nat.add_zero, rest.readWordAt hne, ← hu]
        exact congrArg some (wordAt_writeLoc hs (.mem _) w).symm
      | succ k =>
        have := rest.words k (by simpa using hk)
        rwa [hbias, hshift] at this
    · rw [rest.bytes x fun k hk => by rw [hbias, hshift]; exact hx (k + 1) (by simpa using hk), ← hu]
      exact readCell_writeLoc (by simpa using hx 0 (by simp)) w s
    · rw [rest.frame, ← hu]
      rfl

theorem bootstrap_eq (s : State) (u : BitVec 13) : bootstrap s u =
    [0x22110029#32, 0x64100023#32, 0x68000028#32, BitVec.ofNat 32 u.toNat,
      BitVec.ofNat 32 (0x22000015 + s.inst.homespaceBias.toNat * 2 ^ 13), 0xCC000025#32, 0xCD000025#32, 0x69C00022#32,
      BitVec.ofNat 32 (0x020000A8 + s.inst.homespaceBias.toNat * 2 ^ 16), 0x0E000058#32] := by
  have hb := s.inst.homespaceBias.isLt
  have hunit : u.zeroExtend 32 = BitVec.ofNat 32 u.toNat := by
    apply BitVec.eq_of_toNat_eq
    simp
  have hli : 0x22000015#32 + (s.inst.homespaceBias.zeroExtend 32 <<< 13) =
      BitVec.ofNat 32 (0x22000015 + s.inst.homespaceBias.toNat * 2 ^ 13) := by
    apply BitVec.eq_of_toNat_eq
    simp [Nat.shiftLeft_eq]
  have hlcfi : 0x020000A8#32 + (s.inst.homespaceBias.zeroExtend 32 <<< 16) =
      BitVec.ofNat 32 (0x020000A8 + s.inst.homespaceBias.toNat * 2 ^ 16) := by
    apply BitVec.eq_of_toNat_eq
    simp [Nat.shiftLeft_eq]
  simp only [bootstrap, hunit, hli, hlcfi]

/-! ### The panel -/

/-- A bit of the first word of a doubleword. -/
theorem bitOf_append_left (w v : Word) {k : Nat} (h : k < 32) : bitOf (w ++ v) k = bit w k := by
  have h1 : ¬ 32 + 32 - 1 - k < 32 := by omega
  have h2 : 32 + 32 - 1 - k - 32 = 31 - k := by omega
  simp only [bitOf, bit, BitVec.getLsbD_append, h1, h2, if_false]

/-- A bit of the second word of a doubleword. -/
theorem bitOf_append_right (v w : Word) {k : Nat} (h : k < 32) : bitOf (v ++ w) (32 + k) = bit w k := by
  have h2 : 32 + 32 - 1 - (32 + k) = 31 - k := by omega
  have h1 : 31 - k < 32 := by omega
  simp only [bitOf, bit, BitVec.getLsbD_append, h2, h1, if_true]

theorem incrementedIa_toNat (s : State) : (incrementedIa s).toNat =
    (if realExtended s then s.psd.ia.toNat / 65536 * 65536 + (s.psd.ia.toNat + 1) % 65536
      else (s.psd.ia.toNat + 1) % 131072) := by
  have hlt := s.psd.ia.isLt
  unfold incrementedIa
  split
  · rw [BitVec.toNat_append, ← Nat.shiftLeft_add_eq_or_of_lt (BitVec.isLt _)]
    simp [Nat.shiftLeft_eq, Nat.shiftRight_eq_div_pow]
    omega
  · simp

theorem panelStore_eq {s : State} {v a : WordAddr} {l : Loc} (w : Word)
    (ha : a = if s.psd.mm then v &&& 0x1FFFF#22 else v) (hreg : a.toNat < 16 → l = .reg (a.extractLsb' 0 4))
    (hmem : 16 ≤ a.toNat → ∃ r, r = homespaceBias s (actualAddr s a) ∧ memExists s r = true ∧ l = .mem r) :
    panelStore v w s = writeLoc l w s := by
  have hwrap : (if s.psd.mm then wrapWord s v else v) = a := by
    rw [ha]
    cases hm : s.psd.mm <;> simp [wrapWord, realExtended, hm]
  unfold panelStore
  dsimp only
  rw [hwrap]
  split
  · rename_i hlt
    rw [hreg hlt]
    rfl
  · rename_i hge
    obtain ⟨r, rfl, hex, rfl⟩ := hmem (by omega)
    simp [putReal, hex]

/-- INSERT PSW1 loads the first word of the program status (R714). -/
theorem loadPsd1_eq_psdLoaded (p : Psd) (w : Word) : loadPsd1 w p =
    { psdLoaded p (w ++ 0#32) false false with wk := p.wk, ci := p.ci, ii := p.ii, ei := p.ei } := by
  have hia : (w ++ 0#32 : Dword).extractLsb' 32 17 = field w 15 31 := BitVec.extractLsb'_append_eq_of_le (le_refl 32)
  simp [loadPsd1, psdLoaded, bitOf_append_left, hia]

/-- INSERT PSW2 loads the second word of the program status, the register pointer untested (R714, log 40). -/
theorem insertPsw2_eq_psdLoaded (s : State) (w : Word) {p : Psd} (hp : p = psdLoaded s.psd (0#32 ++ w) true true) :
    insertPsw2 w s = { s with
      psd := { s.psd with wk := p.wk, ci := p.ci, ii := p.ii, ei := p.ei, ma := p.ma, ea := p.ea, rp := p.rp } } := by
  have hbit : ∀ k, k < 32 → bitOf (0#32 ++ w : Dword) (32 + k) = bit w k := fun k hk => bitOf_append_right 0#32 w hk
  have hfield : ∀ a n, a + n ≤ 32 → (0#32 ++ w : Dword).extractLsb' a n = w.extractLsb' a n :=
    fun a n h => BitVec.extractLsb'_append_eq_of_add_le h
  have h5 := hbit 5 (by omega)
  have h6 := hbit 6 (by omega)
  have h7 := hbit 7 (by omega)
  have h8 := hbit 8 (by omega)
  subst hp
  simp only [insertPsw2, psdLoaded, if_true, hfield 28 2 (by omega), hfield 16 6 (by omega), hfield 4 4 (by omega), h5,
    h6, h7, h8]
  rfl

/-- An action of the idle panel does nothing while COMPUTE is not in IDLE. -/
theorem whenIdle_busy {s : State} (h : s.compute ≠ .idle) (f : State → State) : whenIdle f s = s := if_neg h

theorem whenIdle_idle {s : State} (h : s.compute = .idle) (f : State → State) : whenIdle f s = f s := if_pos h

/-! ### The clauses of O4 -/

/-- Memory in which nothing is listed reads as zeros. -/
theorem readWordAt_nil (a : WordAddr) : readWordAt [] a = 0 := by
  simp only [readWordAt, readCell]
  decide

/-- MEMORY CLEAR (R713). -/
theorem memoryClear_clears {s : State} (h : s.compute = .idle) : ∃ t, applyEvent .memoryClear s = t ∧
    (∀ a, readWordAt t.mem a = 0) ∧ t.badParity = [] ∧ t = { s with mem := t.mem, badParity := t.badParity } :=
  ⟨{ s with mem := [], badParity := [] }, by simp only [applyEvent, whenIdle_idle h], readWordAt_nil, rfl, rfl⟩

/-- LOAD (R721, R722). -/
theorem load_stores {s : State} (h : s.compute = .idle) (hs : MemCanonical s) (u : BitVec 13)
    (he : ∀ k, k < 10 → memExists s (homespaceBias s (BitVec.ofNat 22 (0x22 + k))) = true) :
    HomespaceStored 0x22 (bootstrap s u) s (applyEvent (.load u) s) := by
  have e : applyEvent (.load u) s = putHomespace (BitVec.ofNat 22 0x22) (bootstrap s u) s := by
    simp only [applyEvent, whenIdle_idle h]
  rw [e]
  exact putHomespace_stored (bootstrap s u) (by simp [bootstrap]) hs he

/-- STORE (R714). -/
theorem store_stores {s : State} (h : s.compute = .idle) (hs : MemCanonical s) {v a : WordAddr} {l : Loc} (w : Word)
    (ha : a = if s.psd.mm then v &&& 0x1FFFF#22 else v) (hreg : a.toNat < 16 → l = .reg (a.extractLsb' 0 4))
    (hmem : 16 ≤ a.toNat → ∃ r, r = homespaceBias s (actualAddr s a) ∧ memExists s r = true ∧ l = .mem r) :
    ∃ t, applyEvent (.store v w) s = t ∧ wordAt t l = w ∧ KeptBut s t (· = l) (fun _ => False) ∧ OnlyData s t ∧
      t.psd = s.psd := by
  refine ⟨writeLoc l w s, ?_, wordAt_writeLoc hs l w, writeLoc_keptBut l w s, writeLoc_onlyData l w s,
    writeLoc_psd l w s⟩
  exact (whenIdle_idle h (panelStore v w)).trans (panelStore_eq w ha hreg hmem)

/-- The actions of the idle panel need COMPUTE in IDLE (R712-R714). -/
theorem panel_needs_idle {s : State} (h : s.compute ≠ .idle) (u : BitVec 13) (v : WordAddr) (w : Word) :
    ∀ e ∈ [Event.cpuReset, .sysReset, .memoryClear, .load u, .insert1 w, .insert2 w, .store v w, .incrementAddress,
      .snapEnter w], applyEvent e s = s := by
  simp [applyEvent, whenIdle_busy h]

/-- Settles O4, clause by clause. -/
theorem resetState : Obligations.ResetState := by
  refine ⟨rfl, fun s => ⟨_, rfl, rfl⟩, fun s => memoryClear_clears, ?load, ?insert, ?store, ?increment,
    fun s u v w h => panel_needs_idle h u v w, ?reset⟩
  case load =>
    intro s u w h hs he hw
    have hboot : bootstrap s u = w := (bootstrap_eq s u).trans hw.symm
    have hlen : w.length = 10 := by rw [hw]; rfl
    have st := load_stores h hs u he
    rw [hboot] at st
    exact ⟨_, rfl, fun k hk => st.words k (by omega), fun x hx => st.bytes x fun k hk => hx k (by omega), st.frame⟩
  case insert =>
    intro s w p h
    refine ⟨fun hp => ?_, fun hp => ?_⟩
    · simp only [applyEvent, whenIdle_idle h, loadPsd1_eq_psdLoaded, hp]
    · exact (whenIdle_idle h _).trans (insertPsw2_eq_psdLoaded s w hp)
  case store => exact fun s v a w l h hs ha hreg hmem => store_stores h hs w ha hreg hmem
  case increment => exact fun s h =>
    ⟨incrementedIa s, incrementedIa_toNat s, by simp only [applyEvent, whenIdle_idle h]⟩
  case reset =>
    intro s h
    have hext : ∀ g : Fin 14, (cpuReset s).ints.external[g.val] = ⟨0, 0, 0⟩ := fun g => by
      simp [cpuReset, Interrupts.reset]
    have hcc : ccOf (cpuReset s) = 0 := by simp [ccOf, cpuReset, Psd.reset]
    refine ⟨cpuReset s, whenIdle_idle h _, ?_⟩
    exact ⟨hcc, rfl, rfl, rfl, rfl, rfl, rfl, rfl, rfl, rfl, rfl, rfl, rfl, rfl, rfl, rfl, rfl, rfl, rfl, hext, rfl, rfl,
      rfl, rfl, rfl, rfl, rfl, rfl, rfl, rfl, rfl, rfl, rfl, rfl, rfl, rfl, rfl, rfl, rfl⟩

end Sys2Proof.Proofs

namespace Sys2Proof.Proofs

open Sys2Proof Sys2Proof.Machine Sys2Proof.Laws

/-! ### Canonical memory (20_memory R100, R101; log 2) -/

/-- The events of a boundary keep the canonical form. -/
theorem memCanonical_applyEvents (l : List Event) {s : State} (h : MemCanonical s) : MemCanonical (applyEvents l s) := by
  induction l generalizing s with
  | nil => exact h
  | cons e l ih => exact ih (wf_applyEvent e h)

@[simp] theorem levelLines_mem (s : State) : (levelLines s).mem = s.mem := by
  unfold levelLines
  dsimp only
  repeat' split
  all_goals rfl

theorem memCanonical_takeInputs {s : State} (h : MemCanonical s) : MemCanonical (takeInputs s) := by
  unfold takeInputs MemCanonical
  split <;> rw [levelLines_mem]
  · exact h
  · exact memCanonical_applyEvents _ h

/-- Memory changes by stores of words and by the events of a boundary alone. -/
theorem machineKeeps_memCanonical : MachineKeeps MemCanonical where
  other h _ hm _ _ := by
    unfold MemCanonical
    rw [hm]
    exact h
  store l w h := wf_writeLoc h l w
  pointer _ h _ := h
  events := memCanonical_takeInputs

/-- Settles O6: the canonical form is one of the properties that every step keeps. -/
theorem stepKeepsCanonical : Obligations.StepKeepsCanonical :=
  fun _ _ h e => machineKeeps_memCanonical.step h e

theorem wfFrom_cons_iff {lo k : Nat} {b : Byte} {m : Memory} :
    wfFrom lo ((k, b) :: m) = true ↔ lo ≤ k ∧ b ≠ unwritten ∧ wfFrom (k + 1) m = true := by
  simp [wfFrom, and_assoc]

@[simp] theorem readCell_nil (x : Nat) : readCell [] x = unwritten := rfl

@[simp] theorem readCell_cons_same (k : Nat) (b : Byte) (m : Memory) : readCell ((k, b) :: m) k = b := if_pos rfl

theorem readCell_cons_ne {k x : Nat} (h : x ≠ k) (b : Byte) (m : Memory) :
    readCell ((k, b) :: m) x = readCell m x := if_neg h.symm

/-- Where a canonical memory does not read as unwritten, its first listed byte is not further on. -/
theorem wfFrom_head_le {lo k j : Nat} {b c : Byte} {n : Memory} (hb : b ≠ unwritten)
    (hn : wfFrom lo ((j, c) :: n) = true) (h : readCell ((j, c) :: n) k = b) : j ≤ k := by
  obtain ⟨-, hc, hn⟩ := wfFrom_cons_iff.1 hn
  by_contra hlt
  have hlow : readCell ((j, c) :: n) k = unwritten :=
    readCell_below (lo := j) (by omega) (wfFrom_cons_iff.2 ⟨le_rfl, hc, hn⟩)
  exact hb (h.symm.trans hlow)

/-- Both lists begin with the same byte, the lowest that is not as unwritten, and what follows reads alike too. -/
theorem wfFrom_ext {lo : Nat} {m n : Memory} (hm : wfFrom lo m = true) (hn : wfFrom lo n = true)
    (h : ∀ x, readCell m x = readCell n x) : m = n := by
  induction m generalizing lo n with
  | nil =>
    rcases n with _ | ⟨⟨j, c⟩, n⟩
    · rfl
    · have hc : unwritten = c := by simpa using h j
      exact absurd hc.symm (wfFrom_cons_iff.1 hn).2.1
  | cons p m ih =>
    obtain ⟨k, b⟩ := p
    obtain ⟨-, hb, hm'⟩ := wfFrom_cons_iff.1 hm
    rcases n with _ | ⟨⟨j, c⟩, n⟩
    · exact absurd (by simpa using h k) hb
    · obtain ⟨-, hc, hn'⟩ := wfFrom_cons_iff.1 hn
      have hjk : j ≤ k := wfFrom_head_le hb hn (by simp [← h k])
      have hkj : k ≤ j := wfFrom_head_le hc hm (by simp [h j])
      obtain rfl : k = j := le_antisymm hkj hjk
      have hbc : b = c := by simpa using h k
      have htail : m = n := by
        refine ih hm' hn' fun x => ?_
        by_cases hx : x = k
        · rw [readCell_below (by omega) hm', readCell_below (by omega) hn']
        · rw [← readCell_cons_ne hx b m, h x, readCell_cons_ne hx]
      rw [hbc, htail]

/-- Settles O17: canonical memories are those that are canonical from byte address 0 on. -/
theorem memoryExtensional : Obligations.MemoryExtensional := fun _ _ hm hn h => wfFrom_ext hm hn h

end Sys2Proof.Proofs

namespace Sys2Proof.Proofs

open Sys2Proof Sys2Proof.Machine Sys2Proof.Laws

/-! ### Effective addresses (20_memory R109, R110, R112) -/

/-- A direct address of 16 bits with no extension. -/
theorem zero_append_half (x : Half) : 0#6 ++ x = x.zeroExtend 22 := by
  apply BitVec.eq_of_toNat_eq
  rw [BitVec.toNat_append]
  simp
  omega

theorem directRef_eq (s : State) (m : MR) : directRef s m =
    (if realExtended s = false then m.addr.zeroExtend 22
      else if bitOf m.addr 0 = false then (m.addr.extractLsb' 0 16).zeroExtend 22
      else s.psd.ea ++ m.addr.extractLsb' 0 16) := by
  unfold directRef bitOf
  cases realExtended s with
  | false => rfl
  | true => cases m.addr.getLsbD 16 <;> simp [zero_append_half]

theorem indirectRef_eq (s : State) (w : Word) : indirectRef s w =
    (if realExtended s = false then (field w 15 31).zeroExtend 22
      else if bit w 0 = false then field w 10 31
      else if bit w 15 = false then (field w 16 31).zeroExtend 22 else s.psd.ea ++ field w 16 31) := by
  unfold indirectRef extendedIndirect
  cases realExtended s with
  | false => rfl
  | true => cases bit w 0 <;> cases bit w 15 <;> simp [zero_append_half]

/-- A byte address wraps at the size of the addressing type (R104). -/
theorem wrapByte_toNat (s : State) (b : ByteAddr) :
    (wrapByte s b).toNat = b.toNat % (if realExtended s then 2 ^ 24 else 2 ^ 19) := by
  unfold wrapByte
  split
  · exact (Nat.mod_eq_of_lt b.isLt).symm
  · exact Nat.and_two_pow_sub_one_eq_mod b.toNat 19

/-- The first byte of a word. -/
theorem append_byteZero_toNat (v : WordAddr) : (v ++ 0#2 : ByteAddr).toNat = 4 * v.toNat := by
  rw [BitVec.toNat_append]
  simp [Nat.shiftLeft_eq, Nat.mul_comm]

/-- The byte address of a word, made that of its doubleword (R109). -/
theorem evenWord_toNat {b : ByteAddr} (h : b.toNat % 4 = 0) : (b &&& 0xFFFFFB#24).toNat = b.toNat / 8 * 8 := by
  have hlt := b.isLt
  have hhi : (b.toNat &&& 0xFFFFFB) / 2 ^ 3 = b.toNat / 2 ^ 3 % 2 ^ 21 := by
    rw [Nat.and_div_two_pow]
    exact Nat.and_two_pow_sub_one_eq_mod _ 21
  have hlo : (b.toNat &&& 0xFFFFFB) % 2 ^ 3 = b.toNat % 2 ^ 3 % 2 ^ 2 := by
    rw [Nat.and_mod_two_pow]
    exact Nat.and_two_pow_sub_one_eq_mod _ 2
  rw [BitVec.toNat_and]
  change b.toNat &&& 0xFFFFFB = _
  omega

/-- The byte address after indexing, before a doubleword's is made even. -/
def indexSum (s : State) (m : MR) (align : Nat) (ref : WordAddr) : Nat :=
  if m.x = 0 then 4 * ref.toNat
  else (4 * ref.toNat + (getReg s (0#1 ++ m.x)).toNat * 2 ^ align) % (if realExtended s then 2 ^ 24 else 2 ^ 19)

theorem indexSum_word (s : State) (m : MR) (ref : WordAddr) : indexSum s m 3 ref % 4 = 0 := by
  unfold indexSum
  split
  · omega
  · split <;> omega

theorem indexSum_spec (s : State) (m : MR) {align : Nat} (ref : WordAddr) :
    (if m.x = 0 then (ref ++ 0#2 : ByteAddr)
      else wrapByte s (ref ++ 0#2 + ((getReg s (0#1 ++ m.x)).truncate 24 <<< align))).toNat =
    indexSum s m align ref := by
  unfold indexSum
  split
  · exact append_byteZero_toNat ref
  · have hdvd : (if realExtended s then 2 ^ 24 else 2 ^ 19) ∣ 2 ^ 24 := by
      split
      · exact dvd_rfl
      · exact pow_dvd_pow 2 (by omega)
    have hshift : ((getReg s (0#1 ++ m.x)).truncate 24 <<< align).toNat ≡
        (getReg s (0#1 ++ m.x)).toNat * 2 ^ align [MOD 2 ^ 24] := by
      rw [BitVec.toNat_shiftLeft, Nat.shiftLeft_eq, BitVec.toNat_setWidth]
      exact (Nat.mod_modEq _ _).trans ((Nat.mod_modEq _ _).mul_right _)
    have hsum := ((Nat.mod_modEq _ _).trans (hshift.add_left (4 * ref.toNat))).of_dvd hdvd
    rw [wrapByte_toNat, BitVec.toNat_add, append_byteZero_toNat]
    exact hsum

theorem indexed_toNat (s : State) (m : MR) (align : Nat) (ref : WordAddr) : (indexed s m align ref).toNat =
    indexSum s m align ref / (if align = 3 then 8 else 1) * (if align = 3 then 8 else 1) := by
  have hb := indexSum_spec s m (align := align) ref
  unfold indexed
  dsimp only
  split
  · rename_i h3
    subst h3
    rw [evenWord_toNat (by rw [hb]; exact indexSum_word s m ref), hb]
  · rw [hb, Nat.div_one, Nat.mul_one]

theorem effAddr_direct {s : State} {m : MR} (h : m.ind = false) (align : Nat) :
    effAddr s m align = .ok (indexed s m align (directRef s m)) := by
  simp [effAddr, refAddrWith, h]

theorem effAddr_indirect {s : State} {m : MR} {w : Word} (h : m.ind = true) (hw : readWord s (directRef s m) = .ok w)
    (align : Nat) : effAddr s m align = .ok (indexed s m align (indirectRef s w)) := by
  simp [effAddr, refAddrWith, h, hw]

/-- Settles O16: the reference address is the direct one or the indirect word's, and indexing is `indexSum` made even. -/
theorem effectiveAddress : Obligations.EffectiveAddress := by
  intro s m align ref _ hdir hind
  have heff : effAddr s m align = .ok (indexed s m align ref) := by
    cases h : m.ind with
    | false => rw [hdir h, effAddr_direct h]
    | true =>
      obtain ⟨w, hw, href⟩ := hind h
      rw [href, ← indirectRef_eq, effAddr_indirect h hw]
  exact ⟨directRef_eq s m, _, heff, indexed_toNat s m align ref⟩

end Sys2Proof.Proofs

namespace Sys2Proof.Proofs

open Sys2Proof Sys2Proof.Machine Sys2Proof.Laws

/-! ### The access path (20_memory R118-R131; 60_exceptions R651) -/

/-- Homespace is the first 1024 words of a real address (R124). -/
theorem homespaceBias_eq (s : State) (a : WordAddr) : homespaceBias s a =
    (if a.toNat < 1024 then s.inst.homespaceBias.zeroExtend 22 <<< 14 ||| a else a) := by
  have hbias := s.inst.homespaceBias.isLt
  split
  · rename_i h
    have hn := homespaceBias_toNat s h
    rw [BitVec.ofNat_toNat, BitVec.setWidth_eq] at hn
    apply BitVec.eq_of_toNat_eq
    have hz : (s.inst.homespaceBias.zeroExtend 22 <<< 14).toNat = s.inst.homespaceBias.toNat <<< 14 := by
      simp [Nat.shiftLeft_eq]
      omega
    rw [hn, BitVec.toNat_or, hz, ← Nat.shiftLeft_add_eq_or_of_lt (by omega), Nat.shiftLeft_eq]
  · rename_i h
    have hlt := a.isLt
    refine if_neg fun hz => h ?_
    have hz' := congrArg BitVec.toNat hz
    simp [Nat.shiftRight_eq_div_pow] at hz'
    omega

/-- The page of an address within the first 128K words (R119). -/
theorem pageOf_toNat {a : WordAddr} (h : a.toNat < 131072) : (pageOf a).toNat = a.toNat / 512 := by
  simp [pageOf, Nat.shiftRight_eq_div_pow]
  omega

/-- Beyond 128K words there are no locks (R130). -/
theorem lockOf_eq (s : State) (a : WordAddr) :
    lockOf s a = (if h : a.toNat < 131072 then s.lock[a.toNat / 512]'(by omega) else 0) := by
  unfold lockOf
  split
  · rename_i h
    simp only [pageOf_toNat h]
  · rfl

theorem allowed_eq_false_iff (code : BitVec 2) (k : Access) : allowed code k = false ↔
    (k = .write ∧ code ≠ 0) ∨ (k = .read ∧ code = 3) ∨ (k = .fetch ∧ (code = 2 ∨ code = 3)) := by
  cases k <;> revert code <;> decide

theorem keyOpens_eq_false_iff (key lock : BitVec 2) :
    keyOpens key lock = false ↔ lock ≠ 0 ∧ key ≠ 0 ∧ key ≠ lock := by
  simp [keyOpens, and_assoc]

/-- The access is protected: by the access code of its virtual page or by the write lock of its actual page (R119). -/
def protectedAccess (s : State) (v : WordAddr) (k : Access) : Bool :=
  (protectionOn s && !allowed (accOf s (pageOf v)) k) ||
    (k == .write && !keyOpens s.psd.wk (lockOf s (actualAddr s v)))

theorem protectedAccess_iff (s : State) (v : WordAddr) (k : Access) : protectedAccess s v k = true ↔
    ((s.psd.mm = true ∧ (s.psd.ms = true ∨ s.psd.ma = true) ∧
        ((k = .write ∧ accOf s (pageOf v) ≠ 0) ∨ (k = .read ∧ accOf s (pageOf v) = 3) ∨
          (k = .fetch ∧ (accOf s (pageOf v) = 2 ∨ accOf s (pageOf v) = 3)))) ∨
      (k = .write ∧ lockOf s (actualAddr s v) ≠ 0 ∧ s.psd.wk ≠ 0 ∧ s.psd.wk ≠ lockOf s (actualAddr s v))) := by
  simp only [protectedAccess, protectionOn, Bool.or_eq_true, Bool.and_eq_true, Bool.not_eq_true', beq_iff_eq,
    allowed_eq_false_iff, keyOpens_eq_false_iff, and_assoc]

theorem locateMemory_eq (s : State) (v : WordAddr) (k : Access) : locateMemory s v k =
    (if protectedAccess s v k || !memExists s (homespaceBias s (actualAddr s v)) then
      .error (storageTrap (!memExists s (homespaceBias s (actualAddr s v))) (protectedAccess s v k) (pageOf v))
    else .ok (homespaceBias s (actualAddr s v))) := rfl

/-- Virtual addresses 0-15 are registers (R118). -/
theorem locate_register {s : State} {v : WordAddr} (h : v.toNat < 16) (k : Access) :
    locate s v k = .ok (.reg (v.extractLsb' 0 4)) := if_pos h

/-- Any other address is translated, tested and biased; the trap says which test failed (R119, R651). -/
theorem locate_memory {s : State} {v : WordAddr} (h : 16 ≤ v.toNat) (k : Access) : locate s v k =
    (if protectedAccess s v k || !memExists s (homespaceBias s (actualAddr s v)) then
      .error (storageTrap (!memExists s (homespaceBias s (actualAddr s v))) (protectedAccess s v k) (pageOf v))
    else .ok (.mem (homespaceBias s (actualAddr s v)))) := by
  rw [locate, if_neg (Nat.not_lt.2 h), locateMemory_eq]
  split_ifs <;> rfl

/-- Settles O15: the statement's bias, lock and violation are those of `locate_memory`. -/
theorem accessPath : Obligations.AccessPath := by
  intro s v k
  refine ⟨fun h => locate_register h k, ?_⟩
  intro h p a real code key lock viol missing hp ha hreal hcode hkey hlock hviol hmissing
  have hp : p = pageOf v := hp
  subst hp
  have ha : a = actualAddr s v := ha
  have hreal : real = homespaceBias s a := hreal.trans (homespaceBias_eq s a).symm
  have hlock : lock = lockOf s a := hlock.trans (lockOf_eq s a).symm
  subst ha hreal hcode hkey hlock hmissing
  have hviol : viol = protectedAccess s v k := by
    rw [hviol, Bool.eq_iff_iff, decide_eq_true_iff]
    exact (protectedAccess_iff s v k).symm
  subst hviol
  rw [locate_memory h]
  refine ⟨fun hv hm => if_neg ?_, fun hor => if_pos ?_⟩
  · simp [hv, hm]
  · simpa using hor

end Sys2Proof.Proofs

namespace Sys2Proof.Proofs

open Sys2Proof Sys2Proof.Machine Sys2Proof.Laws

/-! ### The fields of an instruction word, taken apart and put together (30_encoding R171-R173) -/

theorem refFields_refWord (op : BitVec 7) (m : MR) : refFields (refWord op m) = m := by
  have hind : bit (refWord op m) 0 = m.ind := by
    simp only [bit, refWord, BitVec.getLsbD_append]
    simp
  rw [refFields, hind]
  simp (disch := omega) only [field, refWord,
    BitVec.extractLsb'_append_eq_of_le, BitVec.extractLsb'_append_eq_of_add_le]
  simp

theorem valueFields_valueWord (op : BitVec 7) (r : BitVec 4) (v : BitVec 20) : bit (valueWord op r v) 0 = false ∧
    field (valueWord op r v) 8 11 = r ∧ field (valueWord op r v) 12 31 = v := by
  constructor
  · simp only [bit, valueWord, BitVec.getLsbD_append]
    simp
  · simp (disch := omega) only [field, valueWord,
      BitVec.extractLsb'_append_eq_of_le, BitVec.extractLsb'_append_eq_of_add_le]
    simp

/-- Bit 0, the operation code and the R field, which all formats have in the same place, are bits 0-11 (R171-R173). -/
theorem head_append (w : Word) : BitVec.ofBool (bit w 0) ++ field w 1 7 ++ field w 8 11 = w.extractLsb' 20 12 := by
  have hbit : BitVec.ofBool (bit w 0) = w.extractLsb' 31 1 := by
    ext i hi
    obtain rfl : i = 0 := by omega
    simp [bit]
  calc BitVec.ofBool (bit w 0) ++ field w 1 7 ++ field w 8 11
      = w.extractLsb' 31 1 ++ field w 1 7 ++ field w 8 11 := by rw [hbit]
    _ = w.extractLsb' 24 8 ++ field w 8 11 :=
        congrArg (· ++ field w 8 11) (BitVec.extractLsb'_append_extractLsb'_eq_extractLsb' rfl)
    _ = w.extractLsb' 20 12 := BitVec.extractLsb'_append_extractLsb'_eq_extractLsb' rfl

theorem refWord_refFields (w : Word) : refWord (field w 1 7) (refFields w) = w := by
  calc refWord (field w 1 7) (refFields w)
      = w.extractLsb' 20 12 ++ field w 12 14 ++ field w 15 31 :=
        congrArg (· ++ field w 12 14 ++ field w 15 31) (head_append w)
    _ = w.extractLsb' 17 15 ++ field w 15 31 :=
        congrArg (· ++ field w 15 31) (BitVec.extractLsb'_append_extractLsb'_eq_extractLsb' rfl)
    _ = w.extractLsb' 0 32 := BitVec.extractLsb'_append_extractLsb'_eq_extractLsb' rfl
    _ = w := BitVec.extractLsb'_eq_self

theorem valueWord_fields {w : Word} (h : bit w 0 = false) :
    valueWord (field w 1 7) (field w 8 11) (field w 12 31) = w := by
  have hhead : 0#1 ++ field w 1 7 ++ field w 8 11 = w.extractLsb' 20 12 := by
    rw [← head_append, h]
    rfl
  calc valueWord (field w 1 7) (field w 8 11) (field w 12 31)
      = w.extractLsb' 20 12 ++ field w 12 31 := congrArg (· ++ field w 12 31) hhead
    _ = w.extractLsb' 0 32 := BitVec.extractLsb'_append_extractLsb'_eq_extractLsb' rfl
    _ = w := BitVec.extractLsb'_eq_self

/-! ### What the decoder answers -/

/-- A word reads, in the format of its operation code, as the instruction (R171-R173, R175, R176). -/
def ReadsAs (w : Word) (i : Instr) : Format → Prop
  | .ref build => build (refFields w) = i
  | .select => selectIo (refFields w) = i
  | .imm build => bit w 0 = false ∧ build ⟨field w 8 11, field w 12 31⟩ = i
  | .disp build => bit w 0 = false ∧ build ⟨field w 8 11, field w 12 31⟩ = i

/-- A word decodes exactly if its operation code is assigned and its format reads it. -/
theorem decodeWord_eq_ok_iff {w : Word} {i : Instr} :
    decodeWord w = .ok i ↔ ∃ f, findFormat (field w 1 7) opcodes = some f ∧ ReadsAs w i f := by
  unfold decodeWord
  cases findFormat (field w 1 7) opcodes with
  | none => simp
  | some f =>
    cases f with
    | ref build | select => simp [ReadsAs]
    | imm build | disp build => cases hbit : bit w 0 <;> simp [ReadsAs, hbit]

theorem decodeWord_refWord {op : BitVec 7} {build : MR → Instr} (h : findFormat op opcodes = some (.ref build))
    (m : MR) : decodeWord (refWord op m) = .ok (build m) :=
  decodeWord_eq_ok_iff.2 ⟨.ref build, by rw [field_refWord, h], by rw [ReadsAs, refFields_refWord]⟩

theorem decodeWord_selectWord (m : MR) : decodeWord (refWord 0x4F#7 m) = .ok (selectIo m) :=
  decodeWord_eq_ok_iff.2 ⟨.select, by rw [field_refWord]; rfl, by rw [ReadsAs, refFields_refWord]⟩

theorem decodeWord_immWord {op : BitVec 7} {build : Imm → Instr} (h : findFormat op opcodes = some (.imm build))
    (i : Imm) : decodeWord (valueWord op i.r i.value) = .ok (build i) :=
  decodeWord_eq_ok_iff.2 ⟨.imm build, by rw [field_valueWord, h], by simp [ReadsAs, valueFields_valueWord]⟩

theorem decodeWord_dispWord {op : BitVec 7} {build : Bs → Instr} (h : findFormat op opcodes = some (.disp build))
    (b : Bs) : decodeWord (valueWord op b.r b.disp) = .ok (build b) :=
  decodeWord_eq_ok_iff.2 ⟨.disp build, by rw [field_valueWord, h], by simp [ReadsAs, valueFields_valueWord]⟩

theorem decodeBytes_word (w : Word) (rest : List Byte) :
    decodeBytes (byteOf w 0 :: byteOf w 1 :: byteOf w 2 :: byteOf w 3 :: rest) = (decodeWord w).map (·, rest) := by
  rw [decodeBytes, bytes_append]
  cases decodeWord w <;> rfl

/-! ### The two round trips (R175, R176, R184) -/

/-- A well-formed X'4F' instruction is the one that bits 15-17 of its own fields select (R601). -/
theorem selectIo_of_wellFormed {m : MR} {i : Instr} (hi : i = .hio m ∨ i = .rio m ∨ i = .polp m ∨ i = .polr m)
    (h : i.wellFormed = true) : selectIo m = i := by
  rcases hi with rfl | rfl | rfl | rfl <;> simp_all [Instr.wellFormed, selectIo]

theorem decodeWord_encode {i : Instr} (h : i.wellFormed = true) : decodeWord (encode i) = .ok i := by
  cases i with
  | lcfi i | ai i | ci i | li i | mi i => exact decodeWord_immWord rfl i
  | ttbs b | tbs b | cbs b | mbs b | ebs b => exact decodeWord_dispWord rfl b
  | hio m | rio m | polp m | polr m =>
    exact (decodeWord_selectWord m).trans (congrArg _ (selectIo_of_wellFormed (by simp) h))
  | _ m => exact decodeWord_refWord rfl m

theorem decodeWord_of_encode_eq {w : Word} {i : Instr} (h : i.wellFormed = true) (hw : encode i = w) :
    decodeWord w = .ok i := hw ▸ decodeWord_encode h

/-- Settles O1: each format of word is read back as what it was written from. -/
theorem decodeEncode : Obligations.DecodeEncode := by
  intro i h
  refine ⟨decodeWord_encode h, fun rest => ?_⟩
  rw [decodeBytes_word, decodeWord_encode h]
  rfl

theorem selectIo_wellFormed (m : MR) : (selectIo m).wellFormed = true := by
  unfold selectIo
  split_ifs <;> simp_all [Instr.wellFormed]

theorem encode_selectIo (m : MR) : encode (selectIo m) = refWord 0x4F#7 m := by
  unfold selectIo
  split_ifs <;> rfl

/-- The instructions that a row of the opcode table builds are encoded with the row's operation code, and well-formed. -/
def RowEncodes (op : BitVec 7) : Format → Prop
  | .ref build => ∀ m, encode (build m) = refWord op m ∧ (build m).wellFormed = true
  | .select => op = 0x4F#7
  | .imm build => ∀ i, encode (build i) = valueWord op i.r i.value ∧ (build i).wellFormed = true
  | .disp build => ∀ b, encode (build b) = valueWord op b.r b.disp ∧ (build b).wellFormed = true

theorem opcodes_rowEncodes : ∀ row ∈ opcodes, RowEncodes row.1 row.2 := by
  have hselect : RowEncodes 0x4F#7 .select := rfl
  simp only [opcodes, opcodes00, opcodes20, opcodes40, opcodes60, List.forall_mem_append, List.forall_mem_cons,
    List.not_mem_nil, false_imp_iff, implies_true, and_true, true_and, hselect]
  and_intros
  all_goals exact fun _ => ⟨rfl, rfl⟩

theorem mem_of_findFormat {op : BitVec 7} {f : Format} :
    ∀ {rows : List (BitVec 7 × Format)}, findFormat op rows = some f → (op, f) ∈ rows
  | (o, g) :: rest, h => by
    rw [findFormat] at h
    split at h
    case isTrue ho =>
      cases ho
      cases h
      exact List.mem_cons_self
    case isFalse => exact List.mem_cons_of_mem _ (mem_of_findFormat h)

/-- Settles O2: the row of the table that the word was read by writes the same word. -/
theorem encodeDecode : Obligations.EncodeDecode := by
  intro w i h
  obtain ⟨f, hf, hread⟩ := decodeWord_eq_ok_iff.1 h
  have hrow : RowEncodes (field w 1 7) f := opcodes_rowEncodes _ (mem_of_findFormat hf)
  cases f with
  | ref build =>
    obtain rfl := hread
    obtain ⟨henc, hwf⟩ := hrow (refFields w)
    exact ⟨henc.trans (refWord_refFields w), hwf⟩
  | select =>
    obtain rfl := hread
    have hop : field w 1 7 = 0x4F#7 := hrow
    refine ⟨?_, selectIo_wellFormed _⟩
    rw [encode_selectIo, ← hop, refWord_refFields]
  | imm build | disp build =>
    obtain ⟨hbit, rfl⟩ := hread
    obtain ⟨henc, hwf⟩ := hrow ⟨field w 8 11, field w 12 31⟩
    exact ⟨henc.trans (valueWord_fields hbit), hwf⟩

/-- Settles O3: each word is the encoding of what it stands for. -/
theorem decodeSampleWords : Obligations.DecodeSampleWords := by
  unfold Obligations.DecodeSampleWords
  and_intros <;> exact decodeWord_of_encode_eq rfl rfl

end Sys2Proof.Proofs

namespace Sys2Proof.Proofs

open Sys2Proof Sys2Proof.Machine Sys2Proof.Laws

/-! ### Loads (40_load_store R210-R239) -/

/-- A load of a word computed from its operand (R210). -/
theorem run_load {α : Type} {f : State → Except Trap α} {s : State} {a : α} (h : f s = .ok a) (r : BitVec 4)
    (g : α → Word) : run (do
      let x ← need f
      change (loadWord r (g x))
      done) s = .next (loaded s (oneReg s r (g a)) (g a)) := by
  rw [run_need h, ← advance_loadWord]
  rfl

/-- A load that sets CC2 and may overflow (R212). -/
theorem run_load_overflow {α : Type} {f : State → Except Trap α} {s : State} {a : α} (h : f s = .ok a)
    (g : α → State → State) {t : State} (ht : advance (g a s) = t) :
    CompletesOrOverflows (run (do
      let x ← need f
      change (g x)
      doneWithOverflow) s) t := by
  rw [run_need h]
  exact completes_of_change s (g a) ht

/-- A word loaded with CC2 set beside the sign (R212). -/
theorem advance_setCC2_loadWord (c : Bool) (r : BitVec 4) (v : Word) (s : State) :
    advance (setCC2 c (loadWord r v s)) =
      finished s (oneReg s r v) s.psd.cc1 c (decide (0 < v.toInt)) (decide (v.toInt < 0)) := by
  simp only [decide_pos, decide_neg]; rfl

/-- A doubleword loaded with CC2 set beside the sign (R212, R213). -/
theorem advance_setCC2_loadDword (c : Bool) (r : BitVec 4) (d : Dword) (s : State) :
    advance (setCC2 c (loadDword r d s)) =
      finished s (pairRegs s r (hiWord d) (loWord d)) s.psd.cc1 c (decide (0 < d.toInt)) (decide (d.toInt < 0)) := by
  simp only [decide_pos, decide_neg]; rfl

/-- The absolute value of a halfword extended by its sign (R226). -/
theorem absolute_signExtend (h : Half) : absolute (h.signExtend 32) = BitVec.ofInt 32 |h.toInt| := by
  rw [← ofInt_abs_toInt, BitVec.toInt_signExtend_of_le (by omega)]

/-- Settles O18: each load puts its own function of the operand into register R. -/
theorem loadWords : Obligations.LoadWords := by
  refine ⟨?li, ?lb, ?lh, ?lw, ?lch, ?lah⟩
  case li =>
    rintro s i v rfl
    exact congrArg Host.Outcome.next (advance_loadWord i.r (immediate i) s)
  case lb =>
    rintro s m b v h rfl
    rw [BitVec.ofNat_toNat]
    exact run_load h m.r (fun b : Byte => b.zeroExtend 32)
  case lh =>
    rintro s m h v hop rfl
    exact run_load hop m.r (fun h : Half => h.signExtend 32)
  case lw => exact fun s m w h => run_load h m.r id
  case lch =>
    rintro s m h v hop rfl
    rw [BitVec.ofInt_neg]
    exact run_load hop m.r (fun h : Half => -h.signExtend 32)
  case lah =>
    rintro s m h v hop rfl
    rw [← absolute_signExtend]
    exact run_load hop m.r (fun h : Half => absolute (h.signExtend 32))

/-- Settles O19: both set CC2 beside the load and complete with the overflow test. -/
theorem loadComplementAbsolute : Obligations.LoadComplementAbsolute := by
  refine ⟨?lcw, ?law⟩
  case lcw =>
    rintro s m w v hop rfl
    rw [ofInt_neg_toInt]
    exact run_load_overflow hop (fun w s => setCC2 (w == 0x80000000#32) (loadWord m.r (-w) s))
      (advance_setCC2_loadWord _ m.r (-w) s)
  case law =>
    rintro s m w v hop rfl
    rw [ofInt_abs_toInt]
    exact run_load_overflow hop (fun w s => setCC2 (w == 0x80000000#32) (loadWord m.r (absolute w) s))
      (advance_setCC2_loadWord _ m.r (absolute w) s)

/-- Settles O20: as for words, the pair loaded low half first. -/
theorem loadDoubles : Obligations.LoadDoubles := by
  refine ⟨?ld, ?lcd, ?lad⟩
  case ld =>
    intro s m d hop
    rw [← advance_loadDword]
    exact run_need hop _
  case lcd =>
    rintro s m d v hop rfl
    rw [ofInt_neg_toInt]
    exact run_load_overflow hop (fun d s => setCC2 (d == 0x8000000000000000#64) (loadDword m.r (-d) s))
      (advance_setCC2_loadDword _ m.r (-d) s)
  case lad =>
    rintro s m d v hop rfl
    rw [ofInt_abs_toInt]
    exact run_load_overflow hop (fun d s => setCC2 (d == 0x8000000000000000#64) (loadDword m.r (absolute d) s))
      (advance_setCC2_loadDword _ m.r (absolute d) s)

/-! ### Selection under a mask, and the controls -/

/-- The next register of an even one (R42). -/
theorem ru1_of_even {r : BitVec 4} (h : oddR r = false) : ru1 r = r + 1 := by
  unfold ru1 oddR at *
  revert r
  decide

/-- A bit of two words mixed by a mask. -/
theorem getLsbD_mixed {w : Nat} (a b mask : BitVec w) (k : Nat) :
    (a &&& mask ||| b &&& ~~~ mask).getLsbD k = if mask.getLsbD k then a.getLsbD k else b.getLsbD k := by
  simp only [BitVec.getLsbD_or, BitVec.getLsbD_and, BitVec.getLsbD_not]
  rcases Nat.lt_or_ge k w with hk | hk
  · cases mask.getLsbD k <;> simp [hk]
  · simp [BitVec.getLsbD_of_ge _ _ hk]

/-- Two words mixed by the mask in the register after an even one. -/
theorem mixed_by_ru1 {s : State} {r : BitVec 4} {a b x : Word} (he : oddR r = false) (h : ∀ k, x.getLsbD k =
    (if (getReg s (r + 1)).getLsbD k then a.getLsbD k else b.getLsbD k)) :
    a &&& getReg s (ru1 r) ||| b &&& ~~~ getReg s (ru1 r) = x :=
  BitVec.eq_of_getLsbD_eq fun k _ => by rw [getLsbD_mixed, ru1_of_even he, h k]

/-- The word that LS leaves, bit by bit (R234). -/
theorem selected_eq {s : State} {r : BitVec 4} {w v : Word} (hodd : oddR r = true → v = w &&& getReg s r)
    (heven : oddR r = false → ∀ k, v.getLsbD k =
      (if (getReg s (r + 1)).getLsbD k then w.getLsbD k else (getReg s r).getLsbD k)) : selected s r w = v := by
  unfold selected
  split
  · rename_i h
    exact (hodd h).symm
  · rename_i h
    have he : oddR r = false := by simpa using h
    exact mixed_by_ru1 he (heven he)

/-- The condition code and the floating controls loaded, each as its instruction bit says (R238, R239). -/
theorem advance_loadControl (r : BitVec 4) (b : Byte) (s : State) : advance (loadControl r b s) =
    { s with psd := { s.psd with
      cc1 := if r.getLsbD 1 then bitOf b 0 else s.psd.cc1
      cc2 := if r.getLsbD 1 then bitOf b 1 else s.psd.cc2
      cc3 := if r.getLsbD 1 then bitOf b 2 else s.psd.cc3
      cc4 := if r.getLsbD 1 then bitOf b 3 else s.psd.cc4
      fs := if r.getLsbD 0 then bitOf b 5 else s.psd.fs
      fz := if r.getLsbD 0 then bitOf b 6 else s.psd.fz
      fn := if r.getLsbD 0 then bitOf b 7 else s.psd.fn
      ia := nextIa s } } := by
  unfold loadControl setCC
  cases r.getLsbD 1 <;> cases r.getLsbD 0 <;> simp [bitOf, advance, nextIa, incrementedIa, realExtended]

/-- Settles O21: `selected_eq` for LS, and for LCFI and LCF one loading of the controls from either byte. -/
theorem loadSelectiveAndControls : Obligations.LoadSelectiveAndControls := by
  refine ⟨?ls, ?controls⟩
  case ls =>
    intro s m w v hop hodd heven
    rw [← advance_loadWord, ← selected_eq hodd heven]
    exact run_need hop _
  case controls =>
    rintro s r b t rfl
    rw [← advance_loadControl]
    refine ⟨fun x => ?_, ?_⟩
    · have hb : (x ++ b : BitVec 20).extractLsb' 0 8 = b := BitVec.extractLsb'_append_eq_right
      exact congrArg (fun y => Host.Outcome.next (advance (loadControl r y s))) hb
    · rintro m rfl hop
      exact run_need hop _

end Sys2Proof.Proofs

namespace Sys2Proof.Proofs

open Sys2Proof Sys2Proof.Machine Sys2Proof.Laws

/-! ### Accesses that succeed -/

theorem writeWord_eq_ok {s : State} {v : WordAddr} {l : Loc} (h : locate s v .write = .ok l) (w : Word) :
    writeWord s v w = .ok (writeLoc l w s) := by
  simp [writeWord, h]

/-- A place that can be read gives its word. -/
theorem readLocNoting_sound {s : State} {l : Loc} (h : Sound s l) (bits : Word) :
    readLocNoting bits s l = .ok (wordAt s l) := by
  cases l with
  | reg n => rfl
  | mem a =>
    have hp : parityBad s a = false := h
    simp [readLocNoting, wordAt, hp]

theorem readForUpdate_eq_ok {s : State} {v : WordAddr} {l : Loc} (h : locate s v .write = .ok l) (hl : Sound s l)
    (bits : Word) : readForUpdate bits s v = .ok (l, wordAt s l) := by
  simp [readForUpdate, h, readLocNoting_sound hl]

theorem writeByte_eq_ok {s : State} {b : ByteAddr} {l : Loc} (h : locate s (wordOf b) .write = .ok l)
    (hl : Sound s l) (x : Byte) :
    writeByte s b x = .ok (writeLoc l (withByte (wordAt s l) (b.extractLsb' 0 2) x) s) := by
  simp [writeByte, readForUpdate_eq_ok h hl]

theorem writeHalf_eq_ok {s : State} {b : ByteAddr} {l : Loc} (h : locate s (wordOf b) .write = .ok l)
    (hl : Sound s l) (x : Half) :
    writeHalf s b x = .ok (writeLoc l (withHalf (wordAt s l) (b.extractLsb' 1 1) x) s) := by
  simp [writeHalf, readForUpdate_eq_ok h hl]

/-- The access test of a location that can be accessed. -/
theorem testAccess_eq_ok {s : State} {v : WordAddr} {k : Access} {l : Loc} (h : locate s v k = .ok l) :
    testAccess s v k = .ok () := by
  simp [testAccess, h]

theorem run_commit {f : State → Except Trap State} {s s' : State} (h : f s = .ok s') (k : Unit → Act Unit) :
    run (commit f >>= k) s = run (k ()) s' :=
  run_bind (commit_ok h) k

/-- A store changes nothing that an access consults. -/
@[simp] theorem locate_writeLoc (l : Loc) (w : Word) (s : State) (v : WordAddr) (k : Access) :
    locate (writeLoc l w s) v k = locate s v k := by
  cases l <;> rfl

/-! ### The word at a place after a store -/

theorem wordAt_writeLoc_ne {l k : Loc} (h : k ≠ l) (w : Word) (s : State) :
    wordAt (writeLoc l w s) k = wordAt s k := by
  cases l with
  | reg n =>
    cases k with
    | reg j => exact getReg_setReg_ne (fun e => h (congrArg Loc.reg e)) w s
    | mem a => rfl
  | mem b =>
    cases k with
    | reg j => rfl
    | mem a => exact readWordAt_writeWordAt_ne (fun e => h (congrArg Loc.mem e)) w

theorem getReg_withPsd {s : State} {p : Psd} (h : p.rp = s.psd.rp) (n : BitVec 4) :
    getReg { s with psd := p } n = getReg s n :=
  getReg_congr (s := s) (t := { s with psd := p }) rfl h n

/-- The program status says which register block is current and nothing else of what a place holds. -/
theorem wordAt_withPsd {s : State} {p : Psd} (h : p.rp = s.psd.rp) (l : Loc) :
    wordAt { s with psd := p } l = wordAt s l := by
  cases l with
  | reg n => exact getReg_withPsd h n
  | mem a => rfl

theorem memCanonical_writeLoc {s : State} (h : MemCanonical s) (l : Loc) (w : Word) : MemCanonical (writeLoc l w s) :=
  wf_writeLoc h l w

/-! ### Frames composed -/

theorem otherBlocksKept_trans {s t u : State} (h : OtherBlocksKept s t) (k : OtherBlocksKept t u)
    (hrp : t.psd.rp = s.psd.rp) : OtherBlocksKept s u := fun b n hb =>
  (k b n (by rwa [hrp])).trans (h b n hb)

section Frames

variable {s t u : State} {p p' : Loc → Prop} {q q' : BitVec 4 → Prop}

theorem keptBut_refl (s : State) (p : Loc → Prop) (q : BitVec 4 → Prop) : KeptBut s s p q :=
  ⟨fun _ _ => rfl, fun _ _ _ => rfl, fun _ _ _ => rfl⟩

theorem keptBut_trans (h : KeptBut s t p q) (k : KeptBut t u p q) (hrp : t.psd.rp = s.psd.rp) :
    KeptBut s u p q := by
  obtain ⟨hm, hr, hb⟩ := h
  obtain ⟨km, kr, kb⟩ := k
  exact ⟨fun x hx => (km x hx).trans (hm x hx), fun n hn ha => (kr n hn ha).trans (hr n hn ha),
    otherBlocksKept_trans hb kb hrp⟩

theorem keptBut_mono (h : KeptBut s t p q) (hp : ∀ l, p l → p' l) (hq : ∀ n, q n → q' n) : KeptBut s t p' q' := by
  obtain ⟨hm, hr, hb⟩ := h
  exact ⟨fun x hx => hm x fun l hl => hx l (hp l hl), fun n hn ha => hr n (fun e => hn (hp _ e)) fun e => ha (hq _ e),
    hb⟩

/-- A change of the program status that keeps the register pointer. -/
theorem keptBut_withPsd {x : Psd} (h : x.rp = s.psd.rp) (p : Loc → Prop) (q : BitVec 4 → Prop) :
    KeptBut s { s with psd := x } p q :=
  ⟨fun _ _ => rfl, fun n _ _ => getReg_withPsd h n, fun _ _ _ => rfl⟩

/-- A store into one of the places. -/
theorem keptBut_writeLoc {l : Loc} (hl : p l) (w : Word) (q : BitVec 4 → Prop) : KeptBut s (writeLoc l w s) p q :=
  keptBut_mono (writeLoc_keptBut l w s) (fun _ e => e ▸ hl) fun _ e => e.elim

/-- One of the registers written. -/
theorem keptBut_setReg {n : BitVec 4} (hn : q n) (w : Word) (p : Loc → Prop) : KeptBut s (setReg n w s) p q := by
  obtain ⟨-, -, hb⟩ := writeLoc_keptBut (.reg n) w s
  exact ⟨fun _ _ => rfl, fun k _ hk => getReg_setReg_ne (by rintro rfl; exact hk hn) w s, hb⟩

/-- A place that is none of those stored into nor a register written besides holds what it held. -/
theorem wordAt_of_keptBut (h : KeptBut s t p q) {l : Loc} (hl : ¬ p l) (hq : ∀ n, l = .reg n → ¬ q n) :
    wordAt t l = wordAt s l := by
  obtain ⟨hm, hr, -⟩ := h
  cases l with
  | reg n => exact hr n hl (hq n rfl)
  | mem a =>
    have hcell : ∀ i, i < 4 → readCell t.mem (4 * a.toNat + i) = readCell s.mem (4 * a.toNat + i) := by
      intro i hi
      refine hm _ fun k hk b hb => ?_
      have hne : b.toNat ≠ a.toNat := fun e => hl (by rwa [← BitVec.eq_of_toNat_eq e, ← hb])
      omega
    have h0 := hcell 0 (by omega)
    have h1 := hcell 1 (by omega)
    have h2 := hcell 2 (by omega)
    have h3 := hcell 3 (by omega)
    rw [Nat.add_zero] at h0
    simp only [wordAt, readWordAt, h0, h1, h2, h3]

theorem onlyData_trans (h : OnlyData s t) (k : OnlyData t u) : OnlyData s u :=
  k.trans (congrArg (fun x : State => { x with
    regs := u.regs, mem := u.mem, badParity := u.badParity, watch := u.watch, psd := u.psd }) h)

end Frames

end Sys2Proof.Proofs

namespace Sys2Proof.Proofs

open Sys2Proof Sys2Proof.Machine Sys2Proof.Laws

/-! ### Parts of a word (20_memory R101) -/

/-- A bit of a word in which the `n` bits from `p` up have been replaced. -/
theorem getLsbD_replaced {n p : Nat} (v : Word) (x : BitVec n) {i : Nat} (hi : i < 32) :
    ((v &&& ~~~ ((BitVec.allOnes n).zeroExtend 32 <<< p)) ||| (x.zeroExtend 32 <<< p)).getLsbD i =
      if p ≤ i ∧ i < p + n then x.getLsbD (i - p) else v.getLsbD i := by
  by_cases hp : p ≤ i
  · by_cases hn : i < p + n
    · have hin : i - p < n := by omega
      simp [hi, hp, hn, hin, Nat.not_lt.2 hp]
    · have hin : ¬ i - p < n := by omega
      simp [hi, hp, hn, hin, Nat.not_lt.2 hp, BitVec.getLsbD_of_ge x (i - p) (by omega)]
  · simp [hi, hp, Nat.lt_of_not_le hp]

/-- The part that has been replaced. -/
theorem extract_replaced_same {n p : Nat} (h : p + n ≤ 32) (v : Word) (x : BitVec n) :
    ((v &&& ~~~ ((BitVec.allOnes n).zeroExtend 32 <<< p)) ||| (x.zeroExtend 32 <<< p)).extractLsb' p n = x := by
  refine BitVec.eq_of_getLsbD_eq fun i hi => ?_
  have hin : p ≤ p + i ∧ p + i < p + n := by omega
  rw [BitVec.getLsbD_extractLsb', getLsbD_replaced v x (by omega), if_pos hin, Nat.add_sub_cancel_left]
  simp [hi]

/-- A part beside the one that has been replaced. -/
theorem extract_replaced_beside {n p q : Nat} (hq : q + n ≤ 32) (hpq : q + n ≤ p ∨ p + n ≤ q)
    (v : Word) (x : BitVec n) :
    ((v &&& ~~~ ((BitVec.allOnes n).zeroExtend 32 <<< p)) ||| (x.zeroExtend 32 <<< p)).extractLsb' q n =
      v.extractLsb' q n := by
  refine BitVec.eq_of_getLsbD_eq fun i hi => ?_
  have hout : ¬ (p ≤ q + i ∧ q + i < p + n) := by omega
  rw [BitVec.getLsbD_extractLsb', getLsbD_replaced v x (by omega), if_neg hout, BitVec.getLsbD_extractLsb']

theorem byteOf_withByte_same (v : Word) (k : BitVec 2) (b : Byte) : byteOf (withByte v k b) k = b :=
  extract_replaced_same (by omega) v b

theorem byteOf_withByte_ne {j k : BitVec 2} (h : j ≠ k) (v : Word) (b : Byte) :
    byteOf (withByte v k b) j = byteOf v j := by
  have hne : j.toNat ≠ k.toNat := fun e => h (BitVec.eq_of_toNat_eq e)
  have hj := j.isLt
  have hk := k.isLt
  exact extract_replaced_beside (by omega) (by omega) v b

theorem halfOf_withHalf_same (v : Word) (h : BitVec 1) (x : Half) : halfOf (withHalf v h x) h = x :=
  extract_replaced_same (by omega) v x

theorem halfOf_withHalf_ne {g h : BitVec 1} (hgh : g ≠ h) (v : Word) (x : Half) :
    halfOf (withHalf v h x) g = halfOf v g := by
  have hne : g.toNat ≠ h.toNat := fun e => hgh (BitVec.eq_of_toNat_eq e)
  have hg := g.isLt
  have hh := h.isLt
  exact extract_replaced_beside (by omega) (by omega) v x

/-- Bits 0-16 are not all equal exactly when the number does not fit a halfword (R242). -/
theorem exceedsHalf_eq (w : Word) : exceedsHalf w = decide (¬ (-32768 ≤ w.toInt ∧ w.toInt ≤ 32767)) := by
  have hlt := w.isLt
  have hfield : (field w 0 16).toNat = w.toNat / 32768 := by
    simp [field, Nat.shiftRight_eq_div_pow]
    omega
  have hint := BitVec.toInt_eq_toNat_cond w
  rw [Bool.eq_iff_iff, decide_eq_true_eq]
  have hzero : (0 : BitVec 17).toNat = 0 := rfl
  simp only [exceedsHalf, Bool.and_eq_true, bne_iff_ne, ne_eq, ← BitVec.toNat_inj, hfield, BitVec.toNat_allOnes,
    hzero]
  split at hint <;> omega

/-! ### One word stored (40_load_store R241-R247) -/

/-- An instruction that stores one word, sets its condition code and goes on. -/
theorem storedAt_writeLoc {s : State} (hs : MemCanonical s) (l : Loc) (w : Word) (c1 c2 c3 c4 : Bool) :
    StoredAt s { writeLoc l w s with
      psd := { s.psd with cc1 := c1, cc2 := c2, cc3 := c3, cc4 := c4, ia := nextIa s } } l w c1 c2 c3 c4 := by
  have hrp : ({ s.psd with cc1 := c1, cc2 := c2, cc3 := c3, cc4 := c4, ia := nextIa s } : Psd).rp =
      (writeLoc l w s).psd.rp := by rw [writeLoc_psd]
  have hpsd : (writeLoc l w s).psd.rp = s.psd.rp := by rw [writeLoc_psd]
  exact ⟨(wordAt_withPsd hrp l).trans (wordAt_writeLoc hs l w),
    keptBut_trans (writeLoc_keptBut l w s) (keptBut_withPsd hrp _ _) hpsd, onlyData_trans (writeLoc_onlyData l w s) rfl,
    rfl⟩

theorem advance_writeLoc (l : Loc) (w : Word) (s : State) :
    advance (writeLoc l w s) = { writeLoc l w s with psd := { s.psd with ia := nextIa s } } := by
  cases l <;> rfl

/-- A store that leaves the condition code alone. -/
theorem storedAt_advance {s : State} (hs : MemCanonical s) (l : Loc) (w : Word) :
    StoredAt s (advance (writeLoc l w s)) l w s.psd.cc1 s.psd.cc2 s.psd.cc3 s.psd.cc4 := by
  rw [advance_writeLoc]
  exact storedAt_writeLoc hs l w _ _ _ _

/-- A store that sets CC2. -/
theorem storedAt_setCC2 {s : State} (hs : MemCanonical s) (l : Loc) (w : Word) (c : Bool) :
    StoredAt s (advance (setCC2 c (writeLoc l w s))) l w s.psd.cc1 c s.psd.cc3 s.psd.cc4 := by
  have h : advance (setCC2 c (writeLoc l w s)) =
      { writeLoc l w s with psd := { s.psd with cc2 := c, ia := nextIa s } } := by cases l <;> rfl
  rw [h]
  exact storedAt_writeLoc hs l w _ _ _ _

/-- A store of the word of a place with one byte replaced. -/
theorem storedAt_withByte {s : State} (hs : MemCanonical s) (l : Loc) (k : BitVec 2) (x : Byte) :
    StoredAt s (advance (writeLoc l (withByte (wordAt s l) k x) s)) l (withByte (wordAt s l) k x) s.psd.cc1 s.psd.cc2
      s.psd.cc3 s.psd.cc4 ∧
    byteOf (withByte (wordAt s l) k x) k = x ∧ ∀ j, j ≠ k → byteOf (withByte (wordAt s l) k x) j = byteAt s l j :=
  ⟨storedAt_advance hs l _, byteOf_withByte_same _ _ _, fun _ hj => byteOf_withByte_ne hj _ _⟩

section Stores

variable {s : State} {m : MR} {v : WordAddr} {b : ByteAddr} {l : Loc}

theorem exec_stw (hv : effWordAddr s m alignWord = .ok v) (hl : locate s v .write = .ok l) :
    exec (.stw m) s = .next (advance (writeLoc l (getReg s m.r) s)) :=
  (run_need hv _).trans (run_commit (writeWord_eq_ok hl _) _)

theorem exec_sts (hv : effWordAddr s m alignWord = .ok v) (hl : locate s v .write = .ok l) (hs : Sound s l) :
    exec (.sts m) s = .next (advance (writeLoc l (merged s m.r (wordAt s l)) s)) :=
  (run_need hv _).trans (run_need (f := (readForUpdate swReadParity · v)) (readForUpdate_eq_ok hl hs _) _)

theorem exec_stb (hb : effAddr s m alignByte = .ok b) (hl : locate s (wordOf b) .write = .ok l) (hs : Sound s l) :
    exec (.stb m) s = .next (advance
      (writeLoc l (withByte (wordAt s l) (b.extractLsb' 0 2) ((getReg s m.r).extractLsb' 0 8)) s)) := by
  rw [← BitVec.setWidth_eq_extractLsb' (by omega)]
  exact (run_need hb _).trans (run_commit (writeByte_eq_ok hl hs _) _)

theorem exec_stcf (hb : effAddr s m alignByte = .ok b) (hl : locate s (wordOf b) .write = .ok l) (hs : Sound s l) :
    exec (.stcf m) s =
      .next (advance (writeLoc l (withByte (wordAt s l) (b.extractLsb' 0 2) (controlByte s.psd)) s)) :=
  (run_need hb _).trans (run_commit (writeByte_eq_ok hl hs _) _)

theorem exec_sth (hb : effAddr s m alignHalf = .ok b) (hl : locate s (wordOf b) .write = .ok l) (hs : Sound s l) :
    exec (.sth m) s = .next (advance (setCC2 (exceedsHalf (getReg s m.r))
      (writeLoc l (withHalf (wordAt s l) (b.extractLsb' 1 1) ((getReg s m.r).extractLsb' 0 16)) s))) := by
  rw [← BitVec.setWidth_eq_extractLsb' (by omega)]
  exact (run_need hb _).trans ((run_look _ _ s).trans (run_commit (writeHalf_eq_ok hl hs _) _))

theorem exec_xw (hv : effWordAddr s m alignWord = .ok v) (hl : locate s v .write = .ok l) (hs : Sound s l) :
    exec (.xw m) s = .next (advance (loadWord m.r (wordAt s l) (writeLoc l (getReg s m.r) s))) :=
  (run_need hv _).trans (run_need (f := (readForUpdate swReadParity · v)) (readForUpdate_eq_ok hl hs _) _)

theorem exec_las {a : WordAddr} (hv : effWordAddr s m alignWord = .ok v) (ha : locateMemory s v .write = .ok a)
    (hs : parityBad s a = false) : exec (.las m) s = .next (advance (loadWord m.r (readWordAt s.mem a)
      (writeLoc (.mem a) (readWordAt s.mem a ||| 0x80000000#32) s))) := by
  have hload : loadAndSet v s =
      .ok (readWordAt s.mem a) (writeLoc (.mem a) (readWordAt s.mem a ||| 0x80000000#32) s) :=
    (bind_ok (need_ok ha) _).trans (bind_ok (need_ok (readLocNoting_sound (l := .mem a) hs swReadParity)) _)
  exact (run_need hv _).trans (run_bind hload _)

end Stores

/-- The word that STS stores, bit by bit (R245). -/
theorem merged_eq {r : BitVec 4} {w x : Word} (hodd : oddR r = true → x = getReg s r ||| w)
    (heven : oddR r = false → ∀ k, x.getLsbD k =
      (if (getReg s (r + 1)).getLsbD k then (getReg s r).getLsbD k else w.getLsbD k)) : merged s r w = x := by
  unfold merged
  split
  · rename_i h
    exact (hodd h).symm
  · rename_i h
    have he : oddR r = false := by simpa using h
    exact mixed_by_ru1 he (heven he)

/-- Settles O24: the store is that of the register, or by `merged_eq` that of the mixture. -/
theorem storeWords : Obligations.StoreWords := by
  refine ⟨?stw, ?sts⟩
  case stw => exact fun s m v l hs hv hl => ⟨_, exec_stw hv hl, storedAt_advance hs l _⟩
  case sts =>
    intro s m v l x hs hv hl hsound hodd heven
    refine ⟨_, exec_sts hv hl hsound, ?_⟩
    rw [merged_eq hodd heven]
    exact storedAt_advance hs l x

/-- Settles O25: each stores the word of its place with one part replaced. -/
theorem storeParts : Obligations.StoreParts := by
  refine ⟨fun s m b l hs hb hl hsound => ⟨?stb, ?stcf⟩, ?sth⟩
  case stb => exact ⟨_, _, exec_stb hb hl hsound, storedAt_withByte hs l _ _⟩
  case stcf => exact ⟨_, _, exec_stcf hb hl hsound, storedAt_withByte hs l _ _⟩
  case sth =>
    intro s m b l hs hb hl hsound
    rw [← exceedsHalf_eq]
    exact ⟨_, _, exec_sth hb hl hsound, storedAt_setCC2 hs l _ _, halfOf_withHalf_same _ _ _,
      fun h hh => halfOf_withHalf_ne hh _ _⟩

/-! ### A word exchanged with a register (R231, R240) -/

/-- A word stored at a place and another then loaded into register `r`: what is there, and what is kept. -/
theorem exchange_leaves {s t : State} (hs : MemCanonical s) (l : Loc) (x w : Word) (r : BitVec 4)
    (ht : t = advance (loadWord r w (writeLoc l x s))) :
    getReg t r = w ∧ (l ≠ .reg r → wordAt t l = x) ∧ KeptBut s t (· = l) (· = r) ∧ OnlyData s t ∧
      t.psd = (loaded s s.regs w).psd := by
  have ht' : t = { setReg r w (writeLoc l x s) with psd := (loaded s s.regs w).psd } := by
    rw [ht, advance_loadWord]
    cases l <;> rfl
  have hrp : (loaded s s.regs w).psd.rp = (setReg r w (writeLoc l x s)).psd.rp := by simp [loaded, finished]
  have hpsd : (writeLoc l x s).psd.rp = s.psd.rp := by rw [writeLoc_psd]
  subst ht'
  refine ⟨(getReg_withPsd hrp r).trans (getReg_setReg_same r w _), fun hl => ?_, ?_, ?_, rfl⟩
  · exact (wordAt_withPsd hrp l).trans ((wordAt_writeLoc_ne (l := .reg r) hl w _).trans (wordAt_writeLoc hs l x))
  · have hstore : KeptBut s (writeLoc l x s) (· = l) (· = r) := keptBut_writeLoc (p := (· = l)) rfl x _
    have hload := keptBut_setReg (s := writeLoc l x s) (q := (· = r)) rfl w (· = l)
    exact keptBut_trans (keptBut_trans hstore hload hpsd) (keptBut_withPsd hrp _ _) hpsd
  · exact onlyData_trans (onlyData_trans (writeLoc_onlyData l x s) (writeLoc_onlyData (.reg r) w _)) rfl

/-- Settles O22; an XW of a register with itself finds there what it has loaded. -/
theorem exchangeAndSet : Obligations.ExchangeAndSet := by
  refine ⟨?xw, ?las⟩
  case xw =>
    rintro s m v l w hs hv hl hsound rfl
    obtain ⟨hreg, hplace, hkept, hdata, hpsd⟩ := exchange_leaves hs l (getReg s m.r) (wordAt s l) m.r rfl
    refine ⟨_, exec_xw hv hl hsound, hreg, ?_, hkept, hdata, hpsd⟩
    by_cases h : l = .reg m.r
    · subst h
      exact hreg
    · exact hplace h
  case las =>
    rintro s m v a w hs hv ha hsound rfl
    obtain ⟨hreg, hplace, hkept, hdata, hpsd⟩ :=
      exchange_leaves hs (.mem a) (readWordAt s.mem a ||| 0x80000000#32) (readWordAt s.mem a) m.r rfl
    exact ⟨_, exec_las hv ha hsound, hreg, hplace Loc.noConfusion, hkept, hdata, hpsd⟩

end Sys2Proof.Proofs

namespace Sys2Proof.Proofs

open Sys2Proof Sys2Proof.Machine Sys2Proof.Laws

/-! ### Word addresses within the addressing type (20_memory R104, D8) -/

/-- How many words the addressing type can address. -/
def addressSpace (s : State) : Nat := if realExtended s then 2 ^ 22 else 2 ^ 17

theorem addressSpace_dvd (s : State) : addressSpace s ∣ 2 ^ 22 := by
  unfold addressSpace
  split
  · exact dvd_rfl
  · exact pow_dvd_pow 2 (by omega)

theorem wrapWord_toNat (s : State) (a : WordAddr) : (wrapWord s a).toNat = a.toNat % addressSpace s := by
  unfold wrapWord addressSpace
  split
  · exact (Nat.mod_eq_of_lt a.isLt).symm
  · exact Nat.and_two_pow_sub_one_eq_mod a.toNat 17

theorem wordPlus_toNat (s : State) (v : WordAddr) (k : Nat) :
    (wordPlus s v k).toNat = (v.toNat + k) % addressSpace s := by
  have hk : (v + BitVec.ofNat 22 k).toNat = (v.toNat + k) % 2 ^ 22 := by simp
  rw [wordPlus, wrapWord_toNat, hk, Nat.mod_mod_of_dvd _ (addressSpace_dvd s)]

/-- Successive words are counted from any of them. -/
theorem wordPlus_wordPlus (s : State) (v : WordAddr) (j k : Nat) :
    wordPlus s (wordPlus s v j) k = wordPlus s v (j + k) := by
  apply BitVec.eq_of_toNat_eq
  simp only [wordPlus_toNat, Nat.mod_add_mod, Nat.add_assoc]

theorem wordPlus_congr {s t : State} (h : t.psd = s.psd) : wordPlus t = wordPlus s := by
  unfold wordPlus wrapWord realExtended
  rw [h]

theorem wordPlus_zero {s : State} {v : WordAddr} (h : v.toNat < addressSpace s) : wordPlus s v 0 = v :=
  BitVec.eq_of_toNat_eq (by rw [wordPlus_toNat, Nat.add_zero, Nat.mod_eq_of_lt h])

theorem directRef_lt (s : State) (m : MR) : (directRef s m).toNat < addressSpace s := by
  have hlt := (directRef s m).isLt
  have haddr := m.addr.isLt
  unfold addressSpace
  split
  · exact hlt
  · rename_i hx
    simp [directRef, hx]
    omega

theorem indirectRef_lt (s : State) (w : Word) : (indirectRef s w).toNat < addressSpace s := by
  have hlt := (indirectRef s w).isLt
  have haddr := (field w 15 31).isLt
  unfold addressSpace
  split
  · exact hlt
  · rename_i hx
    simp [indirectRef, hx]
    omega

/-- An effective address that has been formed comes from a reference address of the addressing type. -/
theorem effAddr_cases {s : State} {m : MR} {align : Nat} {b : ByteAddr} (h : effAddr s m align = .ok b) :
    ∃ ref : WordAddr, ref.toNat < addressSpace s ∧ b = indexed s m align ref := by
  cases hi : m.ind with
  | false =>
    rw [effAddr_direct hi] at h
    cases h
    exact ⟨_, directRef_lt s m, rfl⟩
  | true =>
    cases hw : readWord s (directRef s m) with
    | ok w =>
      rw [effAddr_indirect hi hw] at h
      cases h
      exact ⟨_, indirectRef_lt s w, rfl⟩
    | error t => simp [effAddr, refAddrWith, hi, hw] at h

theorem indexSum_lt {s : State} (m : MR) (align : Nat) {ref : WordAddr} (h : ref.toNat < addressSpace s) :
    indexSum s m align ref < 4 * addressSpace s := by
  unfold indexSum addressSpace at *
  split
  · omega
  · split <;> exact Nat.mod_lt _ (by decide)

theorem wordOf_toNat (b : ByteAddr) : (wordOf b).toNat = b.toNat / 4 := by
  have hlt := b.isLt
  simp [wordOf, Nat.shiftRight_eq_div_pow]
  omega

theorem effWordAddr_cases {s : State} {m : MR} {align : Nat} {v : WordAddr} (h : effWordAddr s m align = .ok v) :
    ∃ ref : WordAddr, ref.toNat < addressSpace s ∧ v = wordOf (indexed s m align ref) := by
  unfold effWordAddr at h
  split at h
  · rename_i b hb
    cases h
    obtain ⟨ref, hlt, rfl⟩ := effAddr_cases hb
    exact ⟨ref, hlt, rfl⟩
  · cases h

/-- An effective address lies within the addressing type (R104). -/
theorem effWordAddr_lt {s : State} {m : MR} {align : Nat} {v : WordAddr} (h : effWordAddr s m align = .ok v) :
    v.toNat < addressSpace s := by
  obtain ⟨ref, hlt, rfl⟩ := effWordAddr_cases h
  have hsum := indexSum_lt m align hlt
  rw [wordOf_toNat, indexed_toNat]
  split <;> omega

/-- The effective address of a doubleword is even (R109). -/
theorem effWordAddr_even {s : State} {m : MR} {v : WordAddr} (h : effWordAddr s m alignDword = .ok v) :
    v.toNat % 2 = 0 := by
  obtain ⟨ref, -, rfl⟩ := effWordAddr_cases h
  rw [wordOf_toNat, indexed_toNat, if_pos (show alignDword = 3 from rfl)]
  omega

end Sys2Proof.Proofs

namespace Sys2Proof.Proofs

open Sys2Proof Sys2Proof.Machine Sys2Proof.Laws

/-! ### A doubleword stored (40_load_store R244) -/

/-- A place of an odd number. -/
def placeOdd : Loc → Bool
  | .reg n => n.getLsbD 0
  | .mem a => a.getLsbD 0

theorem getLsbD_append_zero {m n : Nat} (hn : 0 < n) (x : BitVec m) (y : BitVec n) :
    (x ++ y).getLsbD 0 = y.getLsbD 0 := by
  rw [BitVec.getLsbD_append, if_pos hn]

/-- Neither the map nor Homespace bias changes the last bit of an address (R120, R124). -/
theorem homespaceBias_actualAddr_odd (s : State) (v : WordAddr) :
    (homespaceBias s (actualAddr s v)).getLsbD 0 = v.getLsbD 0 := by
  have hmap : (actualAddr s v).getLsbD 0 = v.getLsbD 0 := by
    unfold actualAddr
    split
    · exact (getLsbD_append_zero (by omega) (mapOf s (pageOf v)) (v.extractLsb' 0 9)).trans (by simp)
    · rfl
  rw [← hmap]
  unfold homespaceBias
  split
  · exact (getLsbD_append_zero (by omega) (0#2 ++ s.inst.homespaceBias) _).trans (by simp)
  · rfl

theorem placeOdd_of_locate {s : State} {v : WordAddr} {k : Access} {l : Loc} (h : locate s v k = .ok l) :
    placeOdd l = v.getLsbD 0 := by
  rcases locate_cases h with ⟨-, rfl⟩ | ⟨-, rfl, -⟩
  · simp [placeOdd]
  · exact homespaceBias_actualAddr_odd s v

/-- The odd word of the doubleword at an even address (R105). -/
theorem or_one_of_even {v : WordAddr} (h : v.toNat % 2 = 0) : v ||| 1#22 = v + 1 := by
  refine (BitVec.add_eq_or_of_and_eq_zero v 1#22 (BitVec.eq_of_toNat_eq ?_)).symm
  rw [BitVec.toNat_and]
  exact (Nat.and_one_is_mod v.toNat).trans h

/-- The two words of a doubleword lie at different places. -/
theorem dword_places_ne {s : State} {v : WordAddr} {l0 l1 : Loc} (hv : v.toNat % 2 = 0)
    (h0 : locate s v .write = .ok l0) (h1 : locate s (v + 1) .write = .ok l1) : l0 ≠ l1 := by
  rintro rfl
  have hbit : v.getLsbD 0 = (v + 1).getLsbD 0 := (placeOdd_of_locate h0).symm.trans (placeOdd_of_locate h1)
  rw [← or_one_of_even hv, BitVec.getLsbD_or] at hbit
  have hz : v.getLsbD 0 = false := by simp [BitVec.getLsbD, Nat.testBit_zero, hv]
  rw [hz] at hbit
  exact absurd hbit (by decide)

/-- Going on after stores: the places hold what they held, and the frame of the stores stands. -/
theorem advance_leaves {s u : State} {p : Loc → Prop} {q : BitVec 4 → Prop} (hk : KeptBut s u p q)
    (hd : OnlyData s u) (hp : u.psd = s.psd) :
    (∀ l, wordAt (advance u) l = wordAt u l) ∧ KeptBut s (advance u) p q ∧ OnlyData s (advance u) ∧
      (advance u).psd = (onward s s.regs).psd := by
  have hinst : u.inst = s.inst := by
    unfold OnlyData at hd
    rw [hd]
  have hia : nextIa u = nextIa s := by
    unfold nextIa incrementedIa realExtended
    rw [hinst, hp]
  refine ⟨fun l => wordAt_withPsd rfl l, keptBut_trans hk (keptBut_withPsd rfl _ _) (by rw [hp]),
    onlyData_trans hd rfl, ?_⟩
  have hadv : (advance u).psd = { u.psd with ia := nextIa u } := rfl
  rw [hadv, hia, hp]
  rfl

theorem exec_std {s : State} {m : MR} {v : WordAddr} {l0 l1 : Loc} (hv : effWordAddr s m alignDword = .ok v)
    (h0 : locate s v .write = .ok l0) (h1 : locate s (v + 1) .write = .ok l1) :
    exec (.std m) s = .next (advance (writeLoc l0 (getReg s m.r) (writeLoc l1 (getReg s (ru1 m.r)) s))) := by
  have hhi : hiWord (getRegPair s m.r) = getReg s m.r := BitVec.extractLsb'_append_eq_left
  have hlo : loWord (getRegPair s m.r) = getReg s (ru1 m.r) := BitVec.extractLsb'_append_eq_right
  rw [← or_one_of_even (effWordAddr_even hv)] at h1
  have hstore : storeDword v (getRegPair s m.r) s =
      .ok () (writeLoc l0 (getReg s m.r) (writeLoc l1 (getReg s (ru1 m.r)) s)) := by
    rw [← hhi, ← hlo]
    exact (bind_ok (commit_ok (writeWord_eq_ok h1 _)) _).trans
      (altering_ok (commit_ok (writeWord_eq_ok ((locate_writeLoc _ _ _ _ _).trans h0) _)))
  exact (run_need hv _).trans ((run_look _ _ s).trans (run_bind hstore _))

/-- Settles O26: the odd word is stored first, at another place than the even one. -/
theorem storeDouble : Obligations.StoreDouble := by
  intro s m v l0 l1 hs hv h0 h1
  have hne : l0 ≠ l1 := dword_places_ne (effWordAddr_even hv) h0 h1
  have hpsd : (writeLoc l1 (getReg s (ru1 m.r)) s).psd = s.psd := writeLoc_psd _ _ _
  have hkept : KeptBut s (writeLoc l0 (getReg s m.r) (writeLoc l1 (getReg s (ru1 m.r)) s))
      (fun l => l = l0 ∨ l = l1) (fun _ => False) :=
    keptBut_trans (keptBut_writeLoc (.inr rfl) _ _) (keptBut_writeLoc (.inl rfl) _ _) (by rw [hpsd])
  obtain ⟨hword, hk, hd, hp⟩ := advance_leaves hkept
    (onlyData_trans (writeLoc_onlyData _ _ _) (writeLoc_onlyData _ _ _)) ((writeLoc_psd _ _ _).trans hpsd)
  refine ⟨_, exec_std hv h0 h1, (hword l0).trans ?_, (hword l1).trans ?_, hk, hd, hp⟩
  · exact wordAt_writeLoc (memCanonical_writeLoc hs _ _) _ _
  · exact (wordAt_writeLoc_ne hne.symm _ _).trans (wordAt_writeLoc hs _ _)

end Sys2Proof.Proofs

namespace Sys2Proof.Proofs

open Sys2Proof Sys2Proof.Machine Sys2Proof.Laws

/-! ### Runs of registers and words (40_load_store R236, R246) -/

theorem addressSpace_congr {s t : State} (h : t.psd = s.psd) : addressSpace t = addressSpace s := by
  unfold addressSpace realExtended
  rw [h]

theorem wordPlus_lt (s : State) (v : WordAddr) (k : Nat) : (wordPlus s v k).toNat < addressSpace s := by
  rw [wordPlus_toNat]
  exact Nat.mod_lt _ (Nat.pos_of_dvd_of_pos (addressSpace_dvd s) (by decide))

/-- The registers after the first of a run. -/
theorem regPlus_succ (r : BitVec 4) (k : Nat) : r + BitVec.ofNat 4 (k + 1) = r + 1 + BitVec.ofNat 4 k := by
  rw [Nat.add_comm k 1, BitVec.ofNat_add, BitVec.add_assoc]
  rfl

theorem regPlus_zero (r : BitVec 4) : r + BitVec.ofNat 4 0 = r := by simp

theorem inRun_succ {r : BitVec 4} {n : Nat} {x : BitVec 4} : InRun r (n + 1) x ↔ x = r ∨ InRun (r + 1) n x := by
  constructor
  · rintro ⟨j, hj, rfl⟩
    cases j with
    | zero => exact .inl (regPlus_zero r)
    | succ j => exact .inr ⟨j, by omega, regPlus_succ r j⟩
  · rintro (rfl | ⟨j, hj, rfl⟩)
    · exact ⟨0, by omega, (regPlus_zero x).symm⟩
    · exact ⟨j + 1, by omega, (regPlus_succ r j).symm⟩

/-- A run of at most 16 registers does not come back to its first. -/
theorem not_inRun_first (r : BitVec 4) {n : Nat} (h : n ≤ 15) : ¬ InRun (r + 1) n r := by
  rintro ⟨j, hj, he⟩
  have hz := congrArg BitVec.toNat he
  have hr := r.isLt
  simp at hz
  omega

/-- A virtual address that is not the register's does not lead to it (R118). -/
theorem ne_reg_of_locate {s : State} {v : WordAddr} {k : Access} {l : Loc} {n : BitVec 4} (h : locate s v k = .ok l)
    (hv : v ≠ n.zeroExtend 22) : l ≠ .reg n := by
  rcases locate_cases h with ⟨hlt, rfl⟩ | ⟨-, rfl, -⟩
  · intro e
    injection e with e
    refine hv (BitVec.eq_of_toNat_eq ?_)
    subst e
    simp
    omega
  · exact Loc.noConfusion

theorem locate_of_readWord {s : State} {v : WordAddr} {w : Word} (h : readWord s v = .ok w) :
    ∃ l, locate s v .read = .ok l := by
  unfold readWord at h
  split at h
  · exact ⟨_, by assumption⟩
  · cases h

/-- A register written leaves what is read at any address but its own. -/
theorem readWord_setReg_ne {s : State} {v : WordAddr} {n : BitVec 4} (h : v ≠ n.zeroExtend 22) (w : Word) :
    readWord (setReg n w s) v = readWord s v := by
  have hloc : locate (setReg n w s) v .read = locate s v .read := locate_writeLoc (.reg n) w s v .read
  unfold readWord
  rw [hloc]
  split
  · exact readLoc_writeLoc_ne (l := .reg n) (ne_reg_of_locate (by assumption) h) w s
  · rfl

theorem multipleCount_bounds (s : State) : 0 < multipleCount s ∧ multipleCount s ≤ 16 := by
  unfold multipleCount
  split
  · omega
  · rename_i h
    have hlt := (ccOf s).isLt
    have hne : (ccOf s).toNat ≠ 0 := fun e => h (BitVec.eq_of_toNat_eq e)
    omega

/-- Where the model finds a register both of the run and among the addresses, the statements' overlap is. -/
theorem not_inOverlap {s : State} {v : WordAddr} {r : BitVec 4} {n : Nat} (h : NoOverlap s v r n) (d : BitVec 4) :
    inOverlap s v r n d = false := by
  have hd := d.isLt
  have hv := v.isLt
  have haddr : wordPlus s v (wrapWord s (d.zeroExtend 22 - v)).toNat = d.zeroExtend 22 := by
    apply BitVec.eq_of_toNat_eq
    rw [wordPlus_toNat, wrapWord_toNat]
    simp only [BitVec.toNat_sub, BitVec.toNat_setWidth]
    unfold addressSpace
    split <;> omega
  have hreg : r + BitVec.ofNat 4 (d - r).toNat = d := by
    rw [BitVec.ofNat_toNat, BitVec.setWidth_eq, BitVec.add_comm, BitVec.sub_add_cancel]
  rw [inOverlap, Bool.and_eq_false_iff, decide_eq_false_iff_not, decide_eq_false_iff_not, ← not_and_or]
  rintro ⟨hi, hj⟩
  exact h _ _ hi hj (by rw [haddr, hreg])

/-- With no overlap no register is left a free value. -/
theorem freeOverlap_none {s : State} {v : WordAddr} {r : BitVec 4} {n : Nat} (h : NoOverlap s v r n) :
    ∀ k, freeOverlap v r n k s = .ok () s
  | 0 => rfl
  | k + 1 => by
    unfold freeOverlap
    rw [bind_ok (freeOverlap_none h k), bind_look, not_inOverlap h]
    rfl

/-- LM and STM: both ends are tested, the words are moved, nothing of the run is free, and the next instruction follows
(R236, R246, R668). -/
theorem run_multiple {s t : State} {v : WordAddr} {r : BitVec 4} {n : Nat} {k : Access} {a : Act Unit}
    (hv : v.toNat < addressSpace s) (hn : 0 < n) (hno : NoOverlap s v r n)
    (htest : ∀ j, j < n → testAccess s (wordPlus s v j) k = .ok ()) (ha : a s = .ok () t) (ht : t.psd = s.psd) :
    run (do
      testEnds v n k
      a
      freeOverlap v r n 16
      done) s = .next (advance t) := by
  have hfirst : testAccess s v k = .ok () := by
    rw [← wordPlus_zero hv]
    exact htest 0 hn
  have hends : testEnds v n k s = .ok () s := (bind_ok (need_ok hfirst) _).trans
    (need_ok (f := fun s => testAccess s (wordPlus s v (n - 1)) k) (htest (n - 1) (by omega)))
  have hno' : NoOverlap t v r n := by
    unfold NoOverlap
    rw [wordPlus_congr ht]
    exact hno
  rw [run_bind hends, run_bind ha, run_bind (freeOverlap_none hno' 16), run_done]

/-! ### LM -/

/-- `t` is `s` with `n` registers from `r`, modulo 16, loaded with the words `w`. -/
structure WordsLoaded (s t : State) (r : BitVec 4) (n : Nat) (w : Nat → Word) : Prop where
  frame : t = { s with regs := t.regs }
  words : ∀ k, k < n → getReg t (r + BitVec.ofNat 4 k) = w k
  kept : ∀ x, ¬ InRun r n x → getReg t x = getReg s x
  blocks : OtherBlocksKept s t

theorem WordsLoaded.psd {s t : State} {r : BitVec 4} {n : Nat} {w : Nat → Word} (h : WordsLoaded s t r n w) :
    t.psd = s.psd := by
  rw [h.frame]

/-- The first register loaded and then the rest of the run. -/
theorem WordsLoaded.cons {s t : State} {r : BitVec 4} {n : Nat} {w : Nat → Word} (hn : n ≤ 15)
    (h : WordsLoaded (setReg r (w 0) s) t (r + 1) n fun k => w (k + 1)) : WordsLoaded s t r (n + 1) w where
  frame := h.frame
  words := by
    rintro (_ | k) hk
    · rw [regPlus_zero, h.kept r (not_inRun_first r hn), getReg_setReg_same]
    · rw [regPlus_succ, h.words k (by omega)]
  kept x hx := by
    rw [inRun_succ, not_or] at hx
    obtain ⟨hne, hrest⟩ := hx
    rw [h.kept x hrest, getReg_setReg_ne hne]
  blocks := otherBlocksKept_trans (otherBlocksKept_writeLoc (fun _ _ _ => rfl) rfl (.reg r) (w 0)) h.blocks rfl

/-- Successive readable words are loaded, when none is a register of the run (R236). -/
theorem loadMultiple_ok (altered : Bool) {v : WordAddr} {r : BitVec 4} {n : Nat} {s : State} {w : Nat → Word}
    (hv : v.toNat < addressSpace s) (hn : n ≤ 16) (hno : NoOverlap s v r n)
    (hw : ∀ k, k < n → readWord s (wordPlus s v k) = .ok (w k)) :
    ∃ t, loadMultiple altered v r n s = .ok () t ∧ WordsLoaded s t r n w := by
  induction n generalizing altered v r s w with
  | zero => exact ⟨s, rfl, rfl, fun k hk => absurd hk (by omega), fun _ _ => rfl, fun _ _ _ => rfl⟩
  | succ n ih =>
    have hfirst : readWord s v = .ok (w 0) := by
      rw [← wordPlus_zero hv]
      exact hw 0 (by omega)
    have hplus : wordPlus (setReg r (w 0) s) = wordPlus s := wordPlus_congr (setReg_psd r (w 0) s)
    obtain ⟨t, ht, hloaded⟩ := ih (altered := true) (v := wordPlus s v 1) (r := r + 1) (s := setReg r (w 0) s)
      (w := fun k => w (k + 1)) (wordPlus_lt s v 1) (by omega)
      (fun i j hi hj => by
        rw [hplus, wordPlus_wordPlus, Nat.add_comm 1 i, ← regPlus_succ]
        exact hno (i + 1) (j + 1) (by omega) (by omega))
      (fun k hk => by
        have hne := hno (k + 1) 0 (by omega) (by omega)
        rw [regPlus_zero] at hne
        rw [hplus, wordPlus_wordPlus, Nat.add_comm 1 k, readWord_setReg_ne hne]
        exact hw (k + 1) (by omega))
    refine ⟨t, ?_, hloaded.cons (by omega)⟩
    unfold loadMultiple
    rw [bind_ok (onceAltered_ok altered (need_ok hfirst)), bind_change, bind_look, hplus]
    exact ht

/-- Settles O23: what `loadMultiple_ok` loads stands when the instruction goes on. -/
theorem loadMultiple : Obligations.LoadMultiple := by
  intro s m v n w hv hn hno hw
  obtain ⟨hpos, hle⟩ := multipleCount_bounds s
  obtain rfl : n = multipleCount s := hn
  have hlt := effWordAddr_lt hv
  have htest : ∀ k, k < multipleCount s → testAccess s (wordPlus s v k) .read = .ok () := fun k hk => by
    obtain ⟨l, hl⟩ := locate_of_readWord (hw k hk)
    exact testAccess_eq_ok hl
  obtain ⟨t, hload, hloaded⟩ := loadMultiple_ok false hlt hle hno hw
  have hexec : exec (.lm m) s = .next (advance t) :=
    (run_need hv _).trans ((run_look multipleCount _ s).trans
      (run_multiple hlt hpos hno htest hload hloaded.psd))
  exact ⟨advance t, hexec, congrArg advance hloaded.frame, hloaded.words, hloaded.kept, hloaded.blocks⟩

/-! ### STM -/

/-- `t` is `s` with the words `x` stored at the `n` places `l`. -/
structure WordsStored (s t : State) (l : Nat → Loc) (n : Nat) (x : Nat → Word) : Prop where
  words : ∀ k, k < n → wordAt t (l k) = x k
  kept : KeptBut s t (fun y => ∃ k, k < n ∧ y = l k) (fun _ => False)
  data : OnlyData s t
  psd : t.psd = s.psd

/-- A word stored at the first of distinct places and then the rest. -/
theorem WordsStored.cons {s t : State} {l : Nat → Loc} {n : Nat} {x : Nat → Word} (hs : MemCanonical s)
    (hne : ∀ k, k < n → l 0 ≠ l (k + 1))
    (h : WordsStored (writeLoc (l 0) (x 0) s) t (fun k => l (k + 1)) n fun k => x (k + 1)) :
    WordsStored s t l (n + 1) x where
  words := by
    rintro (_ | k) hk
    · have hfirst : ¬ ∃ k, k < n ∧ l 0 = l (k + 1) := fun ⟨k, hk, e⟩ => hne k hk e
      exact (wordAt_of_keptBut h.kept hfirst fun _ _ => id).trans (wordAt_writeLoc hs (l 0) (x 0))
    · exact h.words k (by omega)
  kept := keptBut_trans (keptBut_writeLoc ⟨0, by omega, rfl⟩ _ _)
    (keptBut_mono h.kept (fun _ ⟨k, hk, e⟩ => ⟨k + 1, by omega, e⟩) fun _ => id) (by rw [writeLoc_psd])
  data := onlyData_trans (writeLoc_onlyData _ _ _) h.data
  psd := h.psd.trans (writeLoc_psd _ _ _)

/-- A register is stored into no place that is not it. -/
theorem getReg_writeLoc_ne {l : Loc} {n : BitVec 4} (h : l ≠ .reg n) (w : Word) (s : State) :
    getReg (writeLoc l w s) n = getReg s n :=
  wordAt_writeLoc_ne (k := .reg n) h.symm w s

/-- Successive registers are stored, when the places are distinct and none is a register of the run (R246). -/
theorem storeMultiple_ok (altered : Bool) {v : WordAddr} {r : BitVec 4} {n : Nat} {s : State} {l : Nat → Loc}
    (hs : MemCanonical s) (hv : v.toNat < addressSpace s)
    (hl : ∀ k, k < n → locate s (wordPlus s v k) .write = .ok (l k)) (hne : ∀ j k, j < k → k < n → l j ≠ l k)
    (hreg : ∀ i j, i < n → j < n → l i ≠ .reg (r + BitVec.ofNat 4 j)) :
    ∃ t, storeMultiple altered v r n s = .ok () t ∧ WordsStored s t l n fun k => getReg s (r + BitVec.ofNat 4 k) := by
  induction n generalizing altered v r s l with
  | zero => exact ⟨s, rfl, fun k hk => absurd hk (by omega), keptBut_refl s _ _, rfl, rfl⟩
  | succ n ih =>
    have hfirst : locate s v .write = .ok (l 0) := by
      rw [← wordPlus_zero hv]
      exact hl 0 (by omega)
    have hpsd : (writeLoc (l 0) (getReg s r) s).psd = s.psd := writeLoc_psd _ _ _
    have hplus := wordPlus_congr hpsd
    obtain ⟨t, ht, hstored⟩ := ih (altered := true) (v := wordPlus s v 1) (r := r + 1)
      (s := writeLoc (l 0) (getReg s r) s) (l := fun k => l (k + 1)) (memCanonical_writeLoc hs _ _)
      (by rw [addressSpace_congr hpsd]; exact wordPlus_lt s v 1)
      (fun k hk => by
        rw [hplus, wordPlus_wordPlus, Nat.add_comm 1 k, locate_writeLoc]
        exact hl (k + 1) (by omega))
      (fun j k hj hk => hne (j + 1) (k + 1) (by omega) (by omega))
      (fun i j hi hj => by
        rw [← regPlus_succ]
        exact hreg (i + 1) (j + 1) (by omega) (by omega))
    have hregs : ∀ k, k < n → getReg (writeLoc (l 0) (getReg s r) s) (r + 1 + BitVec.ofNat 4 k) =
        getReg s (r + BitVec.ofNat 4 (k + 1)) := fun k hk => by
      rw [← regPlus_succ]
      exact getReg_writeLoc_ne (hreg 0 (k + 1) (by omega) (by omega)) _ _
    refine ⟨t, ?_, WordsStored.cons hs (fun k hk => hne 0 (k + 1) (by omega) (by omega)) ?_⟩
    · unfold storeMultiple
      rw [bind_ok (onceAltered_ok altered (commit_ok (writeWord_eq_ok hfirst _))), bind_look, hplus]
      exact ht
    · rw [regPlus_zero]
      exact { hstored with words := fun k hk => (hstored.words k hk).trans (hregs k hk) }

/-- Settles O27: what `storeMultiple_ok` stores stands when the instruction goes on. -/
theorem storeMultiple : Obligations.StoreMultiple := by
  intro s m v n l hs hv hn hno hl hne
  obtain ⟨hpos, -⟩ := multipleCount_bounds s
  obtain rfl : n = multipleCount s := hn
  have hlt := effWordAddr_lt hv
  obtain ⟨t, hstore, hstored⟩ := storeMultiple_ok false hs hlt hl hne
    (fun i j hi hj => ne_reg_of_locate (hl i hi) (hno i j hi hj))
  have hexec : exec (.stm m) s = .next (advance t) := (run_need hv _).trans
    ((run_look multipleCount _ s).trans
      (run_multiple hlt hpos hno (fun k hk => testAccess_eq_ok (hl k hk)) hstore hstored.psd))
  obtain ⟨hword, hkept, hdata, hpsd⟩ := advance_leaves hstored.kept hstored.data hstored.psd
  exact ⟨advance t, hexec, fun k hk => (hword (l k)).trans (hstored.words k hk), hkept, hdata, hpsd⟩

end Sys2Proof.Proofs

namespace Sys2Proof.Proofs

open Sys2Proof Sys2Proof.Machine Sys2Proof.Laws

/-! ### Exact results (41 R266, R267) -/

/-- A result of `w` bits with its flags: the low bits of the exact number, a carry, and whether the number needs more
than `w` bits. -/
def exactResult {w : Nat} (carry : Bool) (exact : Int) : BitVec w × Bool × Bool :=
  (BitVec.ofInt w exact, carry, decide (exact < -2 ^ (w - 1) ∨ 2 ^ (w - 1) ≤ exact))

/-- Overflow of an addition, read from the signs, is that of the exact sum. -/
theorem addFlags_eq_exactResult {w : Nat} (a b : BitVec w) :
    addFlags a b = exactResult (decide (2 ^ w ≤ a.toNat + b.toNat)) (a.toInt + b.toInt) := by
  have hsum : a + b = BitVec.ofInt w (a.toInt + b.toInt) := by simp [BitVec.ofInt_add]
  have hover : (a.msb == b.msb && (a + b).msb != a.msb) =
      decide (a.toInt + b.toInt < -2 ^ (w - 1) ∨ 2 ^ (w - 1) ≤ a.toInt + b.toInt) := by
    rw [bne, ← BitVec.saddOverflow_eq, BitVec.saddOverflow, Bool.or_comm, ← Bool.decide_or]
  rw [addFlags, hover, hsum, exactResult]

/-- The carry out of `a + ~b + 1` says that nothing is borrowed; overflow is that of the exact difference. -/
theorem subFlags_eq_exactResult {w : Nat} (a b : BitVec w) :
    subFlags a b = exactResult (decide (b.toNat ≤ a.toNat)) (a.toInt - b.toInt) := by
  have hdiff : a - b = BitVec.ofInt w (a.toInt - b.toInt) := by
    rw [Int.sub_eq_add_neg, BitVec.ofInt_add, ofInt_neg_toInt, BitVec.ofInt_toInt, BitVec.sub_eq_add_neg]
  have hcarry : decide (2 ^ w ≤ a.toNat + (~~~b).toNat + 1) = decide (b.toNat ≤ a.toNat) := by
    have hb := b.isLt
    rw [BitVec.toNat_not, decide_eq_decide]
    omega
  have hover : (a.msb != b.msb && (a - b).msb != a.msb) =
      decide (a.toInt - b.toInt < -2 ^ (w - 1) ∨ 2 ^ (w - 1) ≤ a.toInt - b.toInt) := by
    have hsigns : (a.msb != b.msb && (a - b).msb != a.msb) = a.ssubOverflow b := by
      rw [BitVec.ssubOverflow_eq]
      cases a.msb <;> cases b.msb <;> simp
    rw [hsigns, BitVec.ssubOverflow, Bool.or_comm, ← Bool.decide_or]
  rw [subFlags, hcarry, hover, hdiff, exactResult]

theorem toInt_signExtend_half (h : Half) : (h.signExtend 32).toInt = h.toInt :=
  BitVec.toInt_signExtend_of_le (by omega)

/-- An exact result put into register R (R266). -/
theorem advance_putResult (r : BitVec 4) (x : Word × Bool × Bool) (s : State) :
    advance (putResult r x s) =
      finished s (oneReg s r x.1) x.2.1 x.2.2 (decide (0 < x.1.toInt)) (decide (x.1.toInt < 0)) :=
  advance_arithCC x (setReg r x.1 s)

/-- An exact result put into R and Ru1 (R271). -/
theorem advance_putResultPair (r : BitVec 4) (x : Dword × Bool × Bool) (s : State) :
    advance (putResultPair r x s) =
      finished s (pairRegs s r (hiWord x.1) (loWord x.1)) x.2.1 x.2.2 (decide (0 < x.1.toInt))
        (decide (x.1.toInt < 0)) :=
  advance_arithCC x (setRegPair r x.1 s)

/-! ### Add and subtract (41 R266-R274) -/

/-- An addition or subtraction of words that has computed an exact result. -/
theorem arithmeticEnd_word {o : Result} {s : State} {r : BitVec 4} {x : Word × Bool × Bool} {carry : Bool}
    {exact : Int} (hx : x = exactResult carry exact) (ho : CompletesOrOverflows o (advance (putResult r x s))) :
    ArithmeticEnd 32 o s (oneReg s r) carry exact := by
  subst hx
  rwa [advance_putResult] at ho

/-- An addition or subtraction of doublewords that has computed an exact result. -/
theorem arithmeticEnd_dword {o : Result} {s : State} {r : BitVec 4} {x : Dword × Bool × Bool} {carry : Bool}
    {exact : Int} (hx : x = exactResult carry exact) (ho : CompletesOrOverflows o (advance (putResultPair r x s))) :
    ArithmeticEnd 64 o s (fun d => pairRegs s r (hiWord d) (loWord d)) carry exact := by
  subst hx
  rwa [advance_putResultPair] at ho

/-- Settles O29: each puts away `addFlags` or `subFlags` of its operands, which are the exact sum and difference. -/
theorem addSubtractWords : Obligations.AddSubtractWords := by
  refine ⟨?ai, fun s m b hop => ⟨?aw, ?sw⟩, ?halves⟩
  case ai =>
    rintro s i b rfl
    exact arithmeticEnd_word (addFlags_eq_exactResult _ _)
      (completes_of_change s (fun s => putResult i.r (addFlags (getReg s i.r) (immediate i)) s) rfl)
  case aw =>
    exact arithmeticEnd_word (addFlags_eq_exactResult _ _)
      (run_load_overflow hop (fun b s => putResult m.r (addFlags (getReg s m.r) b) s) rfl)
  case sw =>
    exact arithmeticEnd_word (subFlags_eq_exactResult _ _)
      (run_load_overflow hop (fun b s => putResult m.r (subFlags (getReg s m.r) b) s) rfl)
  case halves =>
    rintro s m h b hop rfl
    rw [← toInt_signExtend_half]
    exact ⟨arithmeticEnd_word (addFlags_eq_exactResult _ _)
        (run_load_overflow hop (fun (h : Half) s => putResult m.r (addFlags (getReg s m.r) (h.signExtend 32)) s) rfl),
      arithmeticEnd_word (subFlags_eq_exactResult _ _)
        (run_load_overflow hop (fun (h : Half) s => putResult m.r (subFlags (getReg s m.r) (h.signExtend 32)) s) rfl)⟩

theorem getRegPair_even {r : BitVec 4} (h : oddR r = false) (s : State) :
    getRegPair s r = getReg s r ++ getReg s (r + 1) := by
  rw [getRegPair, ru1_of_even h]

/-- A meaning that tests its R field, when it is even. -/
theorem run_requireEven {r : BitVec 4} (h : oddR r = false) (k : Unit → Act Unit) (s : State) :
    run (requireEven r >>= k) s = run (k ()) s :=
  run_bind (requireEven_ok h) k

/-- A meaning that tests its R field, when it is odd (R662). -/
theorem run_requireEven_odd {r : BitVec 4} (h : oddR r = true) (k : Unit → Act Unit) (s : State) :
    run (requireEven r >>= k) s = registerTrapTaken s :=
  run_trap (bind_error (requireEven_odd h) k)

/-- Settles O30: as for words once the R field has been found even. -/
theorem addSubtractDoubles : Obligations.AddSubtractDoubles := by
  refine ⟨?even, fun s m hodd => ⟨run_requireEven_odd hodd _ s, run_requireEven_odd hodd _ s⟩⟩
  case even =>
    rintro s m a b heven hop rfl
    have had : exec (.ad m) s = _ := run_requireEven heven _ s
    have hsd : exec (.sd m) s = _ := run_requireEven heven _ s
    rw [had, hsd, ← getRegPair_even heven]
    exact ⟨arithmeticEnd_dword (addFlags_eq_exactResult _ _)
        (run_load_overflow hop (fun d s => putResultPair m.r (addFlags (getRegPair s m.r) d) s) rfl),
      arithmeticEnd_dword (subFlags_eq_exactResult _ _)
        (run_load_overflow hop (fun d s => putResultPair m.r (subFlags (getRegPair s m.r) d) s) rfl)⟩

end Sys2Proof.Proofs

namespace Sys2Proof.Proofs

open Sys2Proof Sys2Proof.Machine Sys2Proof.Laws

/-! ### Products (41 R275-R277) -/

/-- Numbers of `w` bits multiplied in twice as many or more: nothing of the product is lost. -/
theorem toInt_ofInt_product {w v : Nat} (hv : 2 * w ≤ v) (hpos : 0 < v) (a b : BitVec w) :
    (BitVec.ofInt v (a.toInt * b.toInt)).toInt = a.toInt * b.toInt := by
  have ha := BitVec.le_two_mul_toInt (x := a)
  have ha' := BitVec.two_mul_toInt_lt (x := a)
  have hb := BitVec.le_two_mul_toInt (x := b)
  have hb' := BitVec.two_mul_toInt_lt (x := b)
  have hprod : |2 * a.toInt * (2 * b.toInt)| ≤ 2 ^ w * 2 ^ w := by
    rw [abs_mul]
    exact mul_le_mul (abs_le.2 ⟨ha, ha'.le⟩) (abs_le.2 ⟨hb, hb'.le⟩) (abs_nonneg _) (by positivity)
  have hpow : (2 : Int) ^ w * 2 ^ w ≤ 2 * 2 ^ (v - 1) := by
    rw [← pow_add, ← pow_succ']
    exact pow_le_pow_right₀ (by norm_num) (by omega)
  have htwo : (0 : Int) < 2 ^ (v - 1) := by positivity
  have habs := abs_le.1 (hprod.trans hpow)
  have hreorder : 2 * a.toInt * (2 * b.toInt) = 4 * (a.toInt * b.toInt) := by ring
  rw [hreorder] at habs
  exact BitVec.toInt_ofInt_eq_self hpos (by omega) (by omega)

/-- The product in the doubled width. -/
theorem signExtend_mul_signExtend {w v : Nat} (h : w ≤ v) (a b : BitVec w) :
    a.signExtend v * b.signExtend v = BitVec.ofInt v (a.toInt * b.toInt) := by
  rw [BitVec.ofInt_mul, ← BitVec.toInt_signExtend_of_le h, ← BitVec.toInt_signExtend_of_le h (x := b),
    BitVec.ofInt_toInt, BitVec.ofInt_toInt]

/-- Ru1 alone holds a product that fits 32 bits (R277). -/
theorem needsHighWord_eq (d : Dword) :
    (d != (loWord d).signExtend 64) = decide (d.toInt < -2 ^ 31 ∨ 2 ^ 31 ≤ d.toInt) := by
  have hlow : (loWord d).toNat = d.toNat % 2 ^ 32 := by simp [loWord]
  have hlowInt := BitVec.toInt_eq_toNat_cond (loWord d)
  have hint := BitVec.toInt_eq_toNat_cond d
  have hlt := d.isLt
  rw [Bool.eq_iff_iff, bne_iff_ne, decide_eq_true_eq, ne_eq, ← BitVec.toInt_inj,
    BitVec.toInt_signExtend_of_le (by omega), hlowInt, hint, hlow]
  split <;> split <;> omega

/-- The exact product of two words put into R and Ru1. -/
theorem advance_putProduct (r : BitVec 4) (a b : Word) (s : State) :
    advance (putProduct r (product a b) s) =
      finished s (pairRegsLowLast s r (hiWord (BitVec.ofInt 64 (a.toInt * b.toInt)))
          (loWord (BitVec.ofInt 64 (a.toInt * b.toInt)))) s.psd.cc1
        (decide (a.toInt * b.toInt < -2 ^ 31 ∨ 2 ^ 31 ≤ a.toInt * b.toInt))
        (decide (0 < a.toInt * b.toInt)) (decide (a.toInt * b.toInt < 0)) := by
  have hexact := toInt_ofInt_product (v := 64) (by omega) (by omega) a b
  rw [product, signExtend_mul_signExtend (by omega)]
  generalize BitVec.ofInt 64 (a.toInt * b.toInt) = d at *
  rw [← hexact, ← needsHighWord_eq, decide_pos, decide_neg]
  rfl

/-- Settles O31: the product, formed in twice the width of its factors, is exact. -/
theorem multiply : Obligations.Multiply := by
  refine ⟨?mi, ?mw, ?mh⟩
  case mi =>
    rintro s i p d rfl rfl
    rw [← BitVec.toInt_signExtend_of_le (v := 32) (x := i.value) (by omega)]
    exact congrArg Host.Outcome.next (advance_putProduct i.r (getReg s (ru1 i.r)) (immediate i) s)
  case mw =>
    rintro s m w p d hop rfl rfl
    rw [← advance_putProduct]
    exact run_need hop _
  case mh =>
    rintro s m h p hop rfl
    have hexact := toInt_ofInt_product (v := 32) (by omega) (by omega) ((getReg s m.r).extractLsb' 0 16) h
    have hload : exec (.mh m) s = .next (advance (loadWord (ru1 m.r)
        (((getReg s m.r).truncate 16).signExtend 32 * h.signExtend 32) s)) := run_need hop _
    rw [hload, BitVec.truncate_eq_setWidth, BitVec.setWidth_eq_extractLsb' (by omega),
      signExtend_mul_signExtend (by omega), advance_loadWord, loaded, hexact]

end Sys2Proof.Proofs

namespace Sys2Proof.Proofs

open Sys2Proof Sys2Proof.Machine Sys2Proof.Laws

/-! ### Quotients (41 R278, R279; 60 R656) -/

theorem divide_eq_some {n d q : Int} (hq : q = n.tdiv d) (hd : d ≠ 0) (hlo : -2 ^ 31 ≤ q) (hhi : q < 2 ^ 31) :
    divide n d = some (q, n - q * d) := by
  subst hq
  have hfits : ¬ (n.tdiv d < -2147483648 ∨ 2147483647 < n.tdiv d) := by omega
  rw [divide, if_neg hd, if_neg hfits, Int.tmod_def, Int.mul_comm d]

theorem divide_eq_none {n d q : Int} (hq : q = n.tdiv d) (h : d = 0 ∨ q < -2 ^ 31 ∨ 2 ^ 31 ≤ q) :
    divide n d = none := by
  subst hq
  by_cases hd : d = 0
  · rw [divide, if_pos hd]
  · have hbeyond : n.tdiv d < -2147483648 ∨ 2147483647 < n.tdiv d := by omega
    rw [divide, if_neg hd, if_pos hbeyond]

/-- A quotient of 32 bits loaded, with CC2 reset. -/
theorem advance_loadQuotient {q : Int} (hlo : -2 ^ 31 ≤ q) (hhi : q < 2 ^ 31) (r : BitVec 4) (s : State) :
    advance (setCC2 false (loadWord r (BitVec.ofInt 32 q) s)) =
      finished s (oneReg s r (BitVec.ofInt 32 q)) s.psd.cc1 false (decide (0 < q)) (decide (q < 0)) := by
  rw [advance_setCC2_loadWord, BitVec.toInt_ofInt_eq_self (by omega) hlo hhi]

/-- The overflow of a division, masked and not. -/
theorem run_divideOverflow {o : Result} {s : State} (ho : o = run divideOverflow s) :
    (s.psd.am = false → o = .next (finished s s.regs s.psd.cc1 true s.psd.cc3 s.psd.cc4)) ∧
    (s.psd.am = true → o = .next (enterTrap { loc := 0x43#8 } (setCC2 true s))) := by
  have heq : run divideOverflow s =
      run (if s.psd.am = true then raise { loc := 0x43#8 } else done) (setCC2 true s) := rfl
  rw [ho, heq]
  refine ⟨fun ham => ?_, fun ham => ?_⟩
  · rw [if_neg (by simp [ham])]
    rfl
  · rw [if_pos ham]
    rfl

theorem exec_dh {s : State} {m : MR} {h : Half} (hop : operandHalf s m = .ok h) :
    exec (.dh m) s = match divide (getReg s m.r).toInt h.toInt with
      | some (q, _) => .next (advance (setCC2 false (loadWord m.r (BitVec.ofInt 32 q) s)))
      | none => run divideOverflow s := by
  refine (run_need hop _).trans ((run_look _ _ s).trans ?_)
  cases divide (getReg s m.r).toInt h.toInt <;> rfl

theorem exec_dw {s : State} {m : MR} {w : Word} (hop : operandWord s m = .ok w) :
    exec (.dw m) s = match divide (dividend s m.r) w.toInt with
      | some (q, rem) => .next (advance (setCC2 false
          (loadWord (ru1 m.r) (BitVec.ofInt 32 q) (setReg m.r (BitVec.ofInt 32 rem) s))))
      | none => run divideOverflow s := by
  refine (run_need hop _).trans ((run_look _ _ s).trans ?_)
  cases divide (dividend s m.r) w.toInt <;> rfl

theorem dividend_eq (s : State) (r : BitVec 4) :
    dividend s r = if oddR r then (getReg s r).toInt else (getReg s r ++ getReg s (r + 1)).toInt := by
  cases h : oddR r
  · simp [dividend, h, getRegPair_even h]
  · simp [dividend, h]

/-- Settles O32: `divide` delivers the quotient or finds none, and each case has its own end. -/
theorem divide : Obligations.Divide := by
  refine ⟨?dh, ?dw⟩
  case dh =>
    rintro s m h n q hop rfl hq
    refine ⟨fun hd hlo hhi => ?_, fun hover => run_divideOverflow ?_⟩
    · rw [exec_dh hop, divide_eq_some hq hd hlo hhi, ← advance_loadQuotient hlo hhi]
    · rw [exec_dh hop, divide_eq_none hq hover]
  case dw =>
    rintro s m w n q hop hn hq
    rw [← dividend_eq] at hn
    subst hn
    refine ⟨fun hd hlo hhi => ?_, fun hover => run_divideOverflow ?_⟩
    · rw [exec_dw hop, divide_eq_some hq hd hlo hhi]
      exact congrArg Host.Outcome.next (advance_loadQuotient hlo hhi (ru1 m.r) (setReg m.r _ s))
    · rw [exec_dw hop, divide_eq_none hq hover]

end Sys2Proof.Proofs

namespace Sys2Proof.Proofs

open Sys2Proof Sys2Proof.Machine Sys2Proof.Laws

/-! ### Memory modified in place (41 R280-R283) -/

/-- A store that sets the whole condition code. -/
theorem storedAt_setCC34_setCC12 {s : State} (hs : MemCanonical s) (l : Loc) (v : Word) (c1 c2 c3 c4 : Bool) :
    StoredAt s (advance (setCC34 c3 c4 (setCC12 c1 c2 (writeLoc l v s)))) l v c1 c2 c3 c4 := by
  have h : advance (setCC34 c3 c4 (setCC12 c1 c2 (writeLoc l v s))) = { writeLoc l v s with
      psd := { s.psd with cc1 := c1, cc2 := c2, cc3 := c3, cc4 := c4, ia := nextIa s } } := by cases l <;> rfl
  rw [h]
  exact storedAt_writeLoc hs l v _ _ _ _

/-- A store that sets the condition code by a sum. -/
theorem storedAt_arithCC {s : State} (hs : MemCanonical s) (l : Loc) (v : Word) {w : Nat}
    (x : BitVec w × Bool × Bool) :
    StoredAt s (advance (arithCC x (writeLoc l v s))) l v x.2.1 x.2.2 (decide (0 < x.1.toInt))
      (decide (x.1.toInt < 0)) := by
  rw [decide_pos, decide_neg]
  exact storedAt_setCC34_setCC12 hs l v _ _ _ _

/-- What a meaning ends in that has stored a word and then sets the condition code by an exact sum. -/
theorem stores_exactResult {o : Result} {s : State} {l : Loc} {v : Word} (hs : MemCanonical s) {w : Nat}
    {x : BitVec w × Bool × Bool} {carry : Bool} {exact : Int} (hx : x = exactResult carry exact)
    (ho : o = run (do change (arithCC x); doneWithOverflow) (writeLoc l v s)) :
    StoredAt s (advance (arithCC x (writeLoc l v s))) l v carry
        (decide (exact < -2 ^ (w - 1) ∨ 2 ^ (w - 1) ≤ exact))
        (decide (0 < (BitVec.ofInt w exact).toInt)) (decide ((BitVec.ofInt w exact).toInt < 0)) ∧
      CompletesOrOverflows o (advance (arithCC x (writeLoc l v s))) := by
  subst hx ho
  exact ⟨storedAt_arithCC hs l v _, completes_of_change _ _ rfl⟩

/-! ### The R field as a number, and an R field of 0 (R281-R284) -/

/-- The R field added as a number from -8 to 7. -/
theorem addFlags_field {w : Nat} (hw : 4 ≤ w) (b : BitVec w) (r : BitVec 4) : addFlags b (r.signExtend w) =
    exactResult (decide (2 ^ w ≤ b.toNat + (r.signExtend w).toNat)) (b.toInt + r.toInt) := by
  rw [addFlags_eq_exactResult, BitVec.toInt_signExtend_of_le hw]

/-- The R field added to a byte, which is a magnitude (R281). -/
theorem byte_add_field (b : Byte) (r : BitVec 4) : b + r.signExtend 8 = BitVec.ofInt 8 (b.toNat + r.toInt) := by
  rw [BitVec.ofInt_add, ← BitVec.toInt_signExtend_of_le (v := 8) (x := r) (by omega), BitVec.ofInt_toInt,
    BitVec.ofInt_natCast, BitVec.ofNat_toNat, BitVec.setWidth_eq]

theorem addFlags_zero {w : Nat} {r : BitVec 4} (hr : r = 0) (b : BitVec w) :
    addFlags b (r.signExtend w) = (b, false, false) := by
  have hzero : (0 : BitVec 4).signExtend w = 0#w := by
    rw [BitVec.signExtend_eq_setWidth_of_msb_false rfl, BitVec.ofNat_eq_ofNat, BitVec.setWidth_zero]
  have hb : ¬ 2 ^ w ≤ b.toNat := Nat.not_le.2 b.isLt
  rw [hr, hzero]
  simp [addFlags, hb]

theorem modifyOperand_eq_ok {s : State} {r : BitVec 4} {v : WordAddr} {l : Loc} (hr : r ≠ 0)
    (hl : locate s v .write = .ok l) (hs : Sound s l) : modifyOperand r v s = .ok (l, wordAt s l) s := by
  rw [modifyOperand, if_neg hr]
  exact need_ok (readForUpdate_eq_ok hl hs _)

theorem modifyOperand_zero {s : State} {r : BitVec 4} {v : WordAddr} {w : Word} (hr : r = 0)
    (hw : readWord s v = .ok w) : modifyOperand r v s = .ok (.reg 0, w) s := by
  rw [modifyOperand, if_pos hr]
  exact bind_ok (need_ok hw) _

theorem modifyStore_eq {r : BitVec 4} (hr : r ≠ 0) (l : Loc) (w : Word) (s : State) :
    modifyStore r l w s = writeLoc l w s := if_neg hr

theorem modifyStore_zero {r : BitVec 4} (hr : r = 0) (l : Loc) (w : Word) (s : State) : modifyStore r l w s = s :=
  if_pos hr

/-- A number with the flags of a sum that neither carries nor overflows: completed without a trap. -/
theorem run_arithCC_clear {w : Nat} (b : BitVec w) (s : State) :
    run (do change (arithCC (b, false, false)); doneWithOverflow) s =
      .next (finished s s.regs false false (decide (0 < b.toInt)) (decide (b.toInt < 0))) := by
  obtain ⟨hnext, -⟩ := completes_of_change s (arithCC (b, false, false)) (advance_arithCC _ s)
  exact hnext (by simp [finished])

/-! ### Where an operand was read -/

theorem operandWord_ok_cases {s : State} {m : MR} {w : Word} (h : operandWord s m = .ok w) :
    ∃ v, effWordAddr s m alignWord = .ok v ∧ readWord s v = .ok w := by
  unfold operandWord at h
  split at h
  · exact ⟨_, by assumption, h⟩
  · cases h

theorem operandByte_ok_cases {s : State} {m : MR} {x : Byte} (h : operandByte s m = .ok x) :
    ∃ b w, effAddr s m alignByte = .ok b ∧ readWord s (wordOf b) = .ok w ∧ byteOf w (b.extractLsb' 0 2) = x := by
  unfold operandByte readByte at h
  split at h
  · split at h
    · cases h
      exact ⟨_, _, by assumption, by assumption, rfl⟩
    · cases h
  · cases h

theorem operandHalf_ok_cases {s : State} {m : MR} {x : Half} (h : operandHalf s m = .ok x) :
    ∃ b w, effAddr s m alignHalf = .ok b ∧ readWord s (wordOf b) = .ok w ∧ halfOf w (b.extractLsb' 1 1) = x := by
  unfold operandHalf readHalf at h
  split at h
  · split at h
    · cases h
      exact ⟨_, _, by assumption, by assumption, rfl⟩
    · cases h
  · cases h

/-! ### The four instructions -/

section Modify

variable {s : State} {m : MR} {v : WordAddr} {b : ByteAddr} {l : Loc}

theorem exec_awm (hv : effWordAddr s m alignWord = .ok v) (hl : locate s v .write = .ok l) (hs : Sound s l) :
    exec (.awm m) s = run (do change (arithCC (addFlags (wordAt s l) (getReg s m.r))); doneWithOverflow)
      (writeLoc l (wordAt s l + getReg s m.r) s) :=
  (run_need hv _).trans (run_need (f := (readForUpdate swReadParity · v)) (readForUpdate_eq_ok hl hs _) _)

theorem exec_mtw {w : Word} (hv : effWordAddr s m alignWord = .ok v) (hop : modifyOperand m.r v s = .ok (l, w) s) :
    exec (.mtw m) s = run (do change (arithCC (addFlags w (m.r.signExtend 32))); doneWithOverflow)
      (modifyStore m.r l (w + m.r.signExtend 32) s) :=
  (run_need hv _).trans (run_bind hop _)

theorem exec_mth {w : Word} {h : Half} (hb : effAddr s m alignHalf = .ok b)
    (hop : modifyOperand m.r (wordOf b) s = .ok (l, w) s) (hh : halfOf w (b.extractLsb' 1 1) = h) :
    exec (.mth m) s = run (do change (arithCC (addFlags h (m.r.signExtend 16))); doneWithOverflow)
      (modifyStore m.r l (withHalf w (b.extractLsb' 1 1) (h + m.r.signExtend 16)) s) := by
  subst hh
  exact (run_need hb _).trans (run_bind hop _)

theorem exec_mtb {w : Word} {sum : Byte} {carry overflow : Bool} (hb : effAddr s m alignByte = .ok b)
    (hop : modifyOperand m.r (wordOf b) s = .ok (l, w) s)
    (hsum : addFlags (byteOf w (b.extractLsb' 0 2)) (m.r.signExtend 8) = (sum, carry, overflow)) :
    exec (.mtb m) s = .next (advance (setCC34 (decide (sum ≠ 0)) false (setCC12 carry false
      (modifyStore m.r l (withByte w (b.extractLsb' 0 2) sum) s)))) := by
  have hsum' : byteOf w (b.extractLsb' 0 2) + m.r.signExtend 8 = sum := congrArg Prod.fst hsum
  have hcarry : decide (2 ^ 8 ≤ (byteOf w (b.extractLsb' 0 2)).toNat + (m.r.signExtend 8).toNat) = carry :=
    congrArg (fun x => x.2.1) hsum
  rw [← hsum', ← hcarry, decide_not]
  exact (run_need hb _).trans (run_bind hop _)

end Modify

/-- Settles O33: with R nonzero the place receives the exact sum, with R zero the flags are those of adding nothing. -/
theorem modifyMemory : Obligations.ModifyMemory := by
  refine ⟨fun s m v l w x hs hv hl hsound hw => ⟨?awm, ?mtw⟩, ?mtb, ?mth,
    fun s m hr => ⟨?testWord, ?testByte, ?testHalf⟩⟩
  case awm =>
    rintro rfl
    subst hw
    have hsum := addFlags_eq_exactResult (wordAt s l) (getReg s m.r)
    have hput : wordAt s l + getReg s m.r = BitVec.ofInt 32 _ := congrArg Prod.fst hsum
    rw [exec_awm hv hl hsound, hput]
    exact ⟨_, stores_exactResult hs hsum rfl⟩
  case mtw =>
    rintro rfl hr
    subst hw
    have hsum := addFlags_field (by omega) (wordAt s l) m.r
    have hput : wordAt s l + m.r.signExtend 32 = BitVec.ofInt 32 _ := congrArg Prod.fst hsum
    rw [exec_mtw hv (modifyOperand_eq_ok hr hl hsound), modifyStore_eq hr, hput]
    exact ⟨_, stores_exactResult hs hsum rfl⟩
  case mtb =>
    rintro s m b l k x hs hb hl hsound rfl hr rfl
    rw [← byte_add_field]
    have hmtb := exec_mtb hb (modifyOperand_eq_ok hr hl hsound) rfl
    rw [modifyStore_eq hr] at hmtb
    exact ⟨_, _, hmtb, storedAt_setCC34_setCC12 hs l _ _ _ _ _, byteOf_withByte_same _ _ _,
      fun j hj => byteOf_withByte_ne hj _ _⟩
  case mth =>
    rintro s m b l k h x hs hb hl hsound rfl hh hr rfl
    have hsum := addFlags_field (by omega) h m.r
    have hput : h + m.r.signExtend 16 = BitVec.ofInt 16 _ := congrArg Prod.fst hsum
    rw [exec_mth hb (modifyOperand_eq_ok hr hl hsound) hh, modifyStore_eq hr, hput]
    obtain ⟨hstored, hends⟩ := stores_exactResult hs hsum rfl
    exact ⟨_, _, hends, hstored, halfOf_withHalf_same _ _ _, fun j hj => halfOf_withHalf_ne hj _ _⟩
  case testWord =>
    intro w hop
    obtain ⟨v, hv, hw⟩ := operandWord_ok_cases hop
    rw [exec_mtw hv (modifyOperand_zero hr hw), addFlags_zero hr, modifyStore_zero hr, run_arithCC_clear]
  case testByte =>
    intro x hop
    obtain ⟨b, w, hb, hw, rfl⟩ := operandByte_ok_cases hop
    rw [exec_mtb hb (modifyOperand_zero hr hw) (addFlags_zero hr _), modifyStore_zero hr]
    rfl
  case testHalf =>
    intro h hop
    obtain ⟨b, w, hb, hw, hh⟩ := operandHalf_ok_cases hop
    rw [exec_mth hb (modifyOperand_zero hr hw) hh, addFlags_zero hr, modifyStore_zero hr,
      run_arithCC_clear]

end Sys2Proof.Proofs

namespace Sys2Proof.Proofs

open Sys2Proof Sys2Proof.Machine Sys2Proof.Laws

/-! ### ANLZ: the word and its address (41 R260-R264) -/

/-- The groups of operation codes (R261, R262). -/
theorem groupOfOp_eq : ∀ op : BitVec 7, groupOfOp op =
    if op ∈ [0x40#7, 0x41#7, 0x42#7, 0x43#7, 0x60#7, 0x61#7, 0x62#7, 0x63#7] then .immediateByte
    else if op ∈ [0x02#7, 0x20#7, 0x21#7, 0x22#7, 0x23#7] then .immediateWord
    else if op.toNat / 16 = 7 then .byte
    else if op.toNat / 16 = 5 then .half
    else if 8 ≤ op.toNat ∧ op.toNat < 32 then .dword
    else .word := by decide

section Analyze

variable {s : State} {m : MR} {a : Word} {e : Trap}

/-- In master-protected mode a trap ends the analysis with a code. -/
theorem analyzeAccess_stop {α : Type} (h : masterProtected s = true) (code : BitVec 3) (v : WordAddr) :
    analyzeAccess s code v (.error e : Except Trap α) = .error (.inr ⟨code, v, e.bankFault⟩) := by
  rw [analyzeAccess, if_pos h]

/-- The code in its octet. -/
theorem analyzeStopWord_eq {code : BitVec 3} {octet : BitVec 8} (h : 0#5 ++ code = octet) (v : WordAddr)
    (f : Option (Word × WordAddr)) : analyzeStopWord ⟨code, v, f⟩ = octet ++ 0#2 ++ v := by
  subst h
  rfl

theorem analyzedWord_of_address {v : WordAddr} (hv : effWordAddr s m alignWord = .ok v) :
    analyzedWord s m = analyzeAccess s 0b011#3 v (readWord s v) := by
  rw [analyzedWord, hv]
  rfl

theorem analyzedWord_ok (h : operandWord s m = .ok a) : analyzedWord s m = .ok a := by
  obtain ⟨v, hv, hw⟩ := operandWord_ok_cases h
  rw [analyzedWord_of_address hv, hw]
  rfl

theorem analyzedWord_stop_word {v : WordAddr} (h : masterProtected s = true) (hv : effWordAddr s m alignWord = .ok v)
    (he : readWord s v = .error e) : analyzedWord s m = .error (.inr ⟨0b011#3, v, e.bankFault⟩) := by
  rw [analyzedWord_of_address hv, he, analyzeAccess_stop h]

theorem analyzedWord_stop_indirect (h : masterProtected s = true) (he : effWordAddr s m alignWord = .error e) :
    analyzedWord s m = .error (.inr ⟨0b111#3, directRef s m, e.bankFault⟩) := by
  simp only [analyzedWord, he, analyzeAccess_stop h]
  rfl

/-- The effective address as a displacement of items of `2 ^ align` bytes. -/
theorem analyzedAddress_ok {b : ByteAddr} {align : Nat} (hb : effAddr s (refOf a) align = .ok b) :
    analyzedAddress s a align = .ok (BitVec.ofNat 32 (b.toNat / 2 ^ align)) := by
  have hdisp : (b >>> align).zeroExtend 32 = BitVec.ofNat 32 (b.toNat / 2 ^ align) := by
    rw [← BitVec.toNat_inj]
    rw [BitVec.zeroExtend, BitVec.toNat_setWidth, BitVec.toNat_ushiftRight, Nat.shiftRight_eq_div_pow,
      BitVec.toNat_ofNat]
  simp only [analyzedAddress, hb, ← hdisp]
  rfl

theorem effAddr_error (hi : bit a 0 = true) (he : readWord s (directRef s (refOf a)) = .error e) (align : Nat) :
    effAddr s (refOf a) align = .error e := by
  have hind : (refOf a).ind = true := hi
  simp [effAddr, refAddrWith, hind, he]

theorem analyzedAddress_stop {align : Nat} (h : masterProtected s = true)
    (he : effAddr s (refOf a) align = .error e) :
    analyzedAddress s a align = .error (.inr ⟨0b001#3, directRef s (refOf a), e.bankFault⟩) := by
  simp only [analyzedAddress, he, analyzeAccess_stop h]
  rfl

/-! ### ANLZ: the register -/

theorem analyzeRegister_immediate (h : (groupOfOp (opOf a)).align = none) : analyzeRegister m a s = .ok () s := by
  rw [analyzeRegister, h]
  rfl

theorem analyzeRegister_address {b : ByteAddr} {align : Nat} (h : (groupOfOp (opOf a)).align = some align)
    (hb : effAddr s (refOf a) align = .ok b) :
    analyzeRegister m a s = .ok () (setReg m.r (BitVec.ofNat 32 (b.toNat / 2 ^ align)) s) := by
  rw [analyzeRegister, h]
  simp only [analyzedAddress_ok hb]

theorem analyzeRegister_stop {align : Nat} (h : (groupOfOp (opOf a)).align = some align)
    (hp : masterProtected s = true) (he : effAddr s (refOf a) align = .error e) :
    analyzeRegister m a s = .ok () (setReg m.r (0b00000001#8 ++ 0#2 ++ directRef s (refOf a))
      (reportBankFault e.bankFault s)) := by
  rw [analyzeRegister, h]
  simp only [analyzedAddress_stop hp he, analyzeStopWord_eq (code := 0b001#3) (octet := 0b00000001#8) rfl]

/-- The condition code of the analyzed word, whatever the register has received. -/
theorem advance_analyzeCC (a : Word) (s : State) : advance (analyzeCC a s) = finished s s.regs
    (groupOfOp (opOf a)).code.1 (groupOfOp (opOf a)).code.2.1 (bit a 0) (groupOfOp (opOf a)).code.2.2 := rfl

theorem exec_anlz {t : State} (hop : operandWord s m = .ok a) (hreg : analyzeRegister m a s = .ok () t) :
    exec (.anlz m) s = .next (advance (analyzeCC a t)) := by
  have hword : exec (.anlz m) s = _ := run_look (analyzedWord · m) _ s
  rw [hword, analyzedWord_ok hop]
  exact run_bind hreg _

/-- An analysis that ended before the word was there: its report, and a free condition code (log 13). -/
theorem exec_anlz_stop {code : BitVec 3} {octet : BitVec 8} {v : WordAddr} {f : Option (Word × WordAddr)} {t : State}
    (ht : t = reportBankFault f s) (hcode : 0#5 ++ code = octet)
    (h : analyzedWord s m = .error (.inr ⟨code, v, f⟩)) :
    ∃ cc : BitVec 4, exec (.anlz m) s =
      .next { finishedCC t (oneReg t m.r (octet ++ 0#2 ++ v)) cc with free := t.free + 1 } := by
  have hword : exec (.anlz m) s = _ := run_look (analyzedWord · m) _ s
  have hend : exec (.anlz m) s = .next (advance (setCC (Config.freeValue 4 t.free)
      { setReg m.r (octet ++ 0#2 ++ v) t with free := t.free + 1 })) := by
    rw [hword, h, ← analyzeStopWord_eq hcode v f, ht]
    rfl
  exact ⟨_, hend⟩

/-- The address of a group in the register, as a displacement of items of `size` bytes. -/
theorem exec_anlz_address {b : ByteAddr} {g : AddressGroup} {align size : Nat} (hop : operandWord s m = .ok a)
    (hg : groupOfOp (opOf a) = g) (hal : g.align = some align) (hsize : 2 ^ align = size)
    (hb : effAddr s (refOf a) align = .ok b) :
    exec (.anlz m) s = .next (finished s (oneReg s m.r (BitVec.ofNat 32 (b.toNat / size))) g.code.1 g.code.2.1
      (bit a 0) g.code.2.2) := by
  subst hg hsize
  rw [exec_anlz hop (analyzeRegister_address hal hb), advance_analyzeCC]
  rfl

/-- The register kept for an immediate word. -/
theorem exec_anlz_immediate {g : AddressGroup} (hop : operandWord s m = .ok a) (hg : groupOfOp (opOf a) = g)
    (hal : g.align = none) :
    exec (.anlz m) s = .next (finished s s.regs g.code.1 g.code.2.1 (bit a 0) g.code.2.2) := by
  subst hg
  rw [exec_anlz hop (analyzeRegister_immediate hal), advance_analyzeCC]

end Analyze

/-! ### ANLZ: reports (R264, R659; 70 R716) -/

theorem reportBankFault_eq (f : Option (Word × WordAddr)) (s : State) : reportBankFault f s =
    if s.inst.memoryFaultHalt = true ∧ f.isSome = true then { noteBankFault f s with halt := .memoryFault }
    else noteBankFault f s := by
  simp [reportBankFault]

/-- The groups but for the immediate ones have an index alignment, and CC1 and CC2 tell them apart. -/
theorem align_of_not_immediate {g : AddressGroup} (hb : g ≠ .immediateByte) (hw : g ≠ .immediateWord) :
    ∃ align, g.align = some align ∧
      g.code = (decide (g = .word ∨ g = .dword), decide (g = .half ∨ g = .dword), false) := by
  cases g with
  | immediateByte => exact absurd rfl hb
  | immediateWord => exact absurd rfl hw
  | byte | half | word | dword => exact ⟨_, rfl, rfl⟩

/-- A bank notes a fault (R535, R537). -/
theorem noteFault_eq (bits : Word) (a : WordAddr) (parity : Bool) (b : Bank) : b.noteFault bits a parity =
    if b.snap = none then
      { b with faults := b.faults ||| bits ||| (if parity then 0x00040000#32 else 0), snap := some a, mfi := true }
    else { b with faults := b.faults ||| 0x00080000#32, mfi := true } := by
  unfold Bank.noteFault
  cases b.snap <;> rfl

/-- INT (R265). -/
theorem exec_int {s : State} {m : MR} {w : Word} (hop : operandWord s m = .ok w) :
    exec (.int m) s = .next (finishedCC s
      (pairRegsLowLast s m.r ((field w 4 15).zeroExtend 32) ((field w 16 31).zeroExtend 32)) (field w 0 3)) :=
  run_need hop _

/-- Settles O28: an analysis ends with the word's address, keeps the register, or reports a trap, and the group of the
word fixes the condition code. -/
theorem analyzeInterpret : Obligations.AnalyzeInterpret := by
  refine ⟨groupOfOp_eq, ?analysis, ?reports, ?notes, fun s m w => exec_int⟩
  case analysis =>
    intro s m a hop
    refine ⟨fun hg => exec_anlz_immediate hop hg rfl, fun hg => exec_anlz_immediate hop hg rfl, fun b hg hb => ?byte,
      fun b hg hb => exec_anlz_address hop hg rfl rfl hb, fun b hg hb => exec_anlz_address hop hg rfl rfl hb,
      fun b hg hb => exec_anlz_address hop hg rfl rfl hb⟩
    case byte =>
      rw [← Nat.div_one b.toNat]
      exact exec_anlz_address hop hg rfl rfl hb
  case reports =>
    intro s m e t hms hmm hma ht
    have hp : masterProtected s = true := by simp [masterProtected, hms, hmm, hma]
    rw [← reportBankFault_eq] at ht
    refine ⟨fun v hv he => exec_anlz_stop ht rfl (analyzedWord_stop_word hp hv he),
      fun he => exec_anlz_stop ht rfl (analyzedWord_stop_indirect hp he), ?analyzed⟩
    case analyzed =>
      rintro a hop hbyte hword hi he c1 c2 rfl rfl
      obtain ⟨align, hal, hcode⟩ := align_of_not_immediate hbyte hword
      rw [exec_anlz hop (analyzeRegister_stop hal hp (effAddr_error hi he align)), advance_analyzeCC, hcode, hi, ← ht]
      rfl
  case notes =>
    intro s bits a
    refine ⟨Config.freeValue 1 s.free == 1#1, ?_⟩
    rw [← funext (noteFault_eq bits a _)]
    rfl

end Sys2Proof.Proofs

namespace Sys2Proof.Proofs

open Sys2Proof Sys2Proof.Machine Sys2Proof.Laws

/-! ### Comparison (42 R300-R308) -/

/-- A meaning that reads its operand, makes one change by it, and completes. -/
theorem run_change_by {α : Type} {f : State → Except Trap α} {s : State} {a : α} (h : f s = .ok a)
    (g : α → State → State) : run (do
      let x ← need f
      change (g x)
      done) s = .next (advance (g a s)) :=
  run_need h _

theorem bne_eq_decide {w : Nat} (a b : BitVec w) : (a != b) = decide (a ≠ b) := by
  rw [Bool.eq_iff_iff, bne_iff_ne, decide_eq_true_eq]

/-- CC3 CC4 of a signed comparison (R300). -/
theorem advance_compareSigned {w : Nat} (a b : BitVec w) (s : State) :
    advance (compareSigned a b s) =
      finished s s.regs s.psd.cc1 s.psd.cc2 (decide (b.toInt < a.toInt)) (decide (a.toInt < b.toInt)) := rfl

/-- CC3 CC4 of a comparison of magnitudes (R300). -/
theorem advance_compareUnsigned {w : Nat} (a b : BitVec w) (s : State) :
    advance (compareUnsigned a b s) =
      finished s s.regs s.psd.cc1 s.psd.cc2 (decide (b.toNat < a.toNat)) (decide (a.toNat < b.toNat)) := rfl

/-- A signed comparison with CC2 for the 1s in common (R301). -/
theorem advance_compareWithBits (a b : Word) (s : State) :
    advance (compareWithBits a b s) =
      finished s s.regs s.psd.cc1 (decide (a &&& b ≠ 0)) (decide (b.toInt < a.toInt)) (decide (a.toInt < b.toInt)) := by
  rw [← bne_eq_decide]
  rfl

/-- A comparison of magnitudes with CC2 for the 1s in common (R302). -/
theorem advance_compareBytes (a b : Byte) (s : State) :
    advance (setCC2 (a &&& b != 0) (compareUnsigned a b s)) =
      finished s s.regs s.psd.cc1 (decide (a &&& b ≠ 0)) (decide (b.toNat < a.toNat)) (decide (a.toNat < b.toNat)) := by
  rw [← bne_eq_decide]
  rfl

/-- The two comparisons of CLR and CLM (R307, R308). -/
theorem advance_compareLimits (a₁ b₁ a₂ b₂ : Word) (s : State) :
    advance (compareLimits a₁ b₁ a₂ b₂ s) =
      finished s s.regs (decide (b₂.toInt < a₂.toInt)) (decide (a₂.toInt < b₂.toInt))
        (decide (b₁.toInt < a₁.toInt)) (decide (a₁.toInt < b₁.toInt)) := rfl

/-- An operand of CS under the mask, which is in Ru1, or with odd R in R (R306). -/
theorem and_compareMask (s : State) (r : BitVec 4) (x : Word) :
    x &&& (if oddR r then getReg s r else getReg s (ru1 r)) =
      if oddR r then x &&& getReg s r else x &&& getReg s (r + 1) := by
  cases h : oddR r
  · simp [ru1_of_even h]
  · simp

/-- Settles O34: each instruction is one comparison of the model, made on its own operands. -/
theorem compare : Obligations.Compare := by
  refine ⟨?ci, ?cb, ?ch, fun s m w hop => ⟨?cw, ?clr, ?cs⟩, fun s m a d hop ha => ⟨?cd, ?clm⟩⟩
  case ci =>
    rintro s i b rfl
    exact congrArg Host.Outcome.next (advance_compareWithBits (getReg s i.r) (immediate i) s)
  case cb =>
    rintro s m a b hop rfl
    have hrun : exec (.cb m) s = .next (advance (setCC2 ((getReg s m.r).truncate 8 &&& b != 0)
        (compareUnsigned ((getReg s m.r).truncate 8) b s))) := run_need hop _
    rw [hrun, advance_compareBytes, BitVec.truncate_eq_setWidth, BitVec.setWidth_eq_extractLsb' (by omega)]
  case ch =>
    intro s m h hop
    rw [← toInt_signExtend_half, ← advance_compareWithBits]
    exact run_change_by hop (fun (h : Half) s => compareWithBits (getReg s m.r) (h.signExtend 32) s)
  case cw =>
    rw [← advance_compareWithBits]
    exact run_change_by hop (fun w s => compareWithBits (getReg s m.r) w s)
  case clr =>
    rw [← advance_compareLimits]
    exact run_change_by hop (fun w s => compareLimits (getReg s m.r) w (getReg s (ru1 m.r)) w s)
  case cs =>
    intro a b ha hb
    rw [← and_compareMask] at hb
    have ha' : a = getReg s m.r &&& (if oddR m.r then getReg s m.r else getReg s (ru1 m.r)) := by
      rw [and_compareMask, BitVec.and_self, ha]
    rw [ha', hb, ← advance_compareUnsigned]
    exact run_change_by hop (fun w s => compareUnsigned
      (getReg s m.r &&& (if oddR m.r then getReg s m.r else getReg s (ru1 m.r)))
      (w &&& (if oddR m.r then getReg s m.r else getReg s (ru1 m.r))) s)
  case cd =>
    subst ha
    rw [← advance_compareSigned]
    exact run_change_by hop (fun d s => compareSigned (getRegPair s m.r) d s)
  case clm =>
    rw [← advance_compareLimits]
    exact run_change_by hop (fun d s => compareLimits (getReg s m.r) (hiWord d) (getReg s m.r) (loWord d) s)

/-! ### Logical (42 R310-R312) -/

/-- Settles O35: OR, EOR and AND are the bit-by-bit operations on words. -/
theorem logical : Obligations.Logical := by
  refine fun s m w v hop => ⟨fun h => ?or, fun h => ?eor, fun h => ?and⟩
  case or =>
    have hv : v = getReg s m.r ||| w := BitVec.eq_of_getLsbD_eq fun k _ => by rw [h k, BitVec.getLsbD_or]
    rw [hv, ← advance_loadWord]
    exact run_need hop _
  case eor =>
    have hv : v = getReg s m.r ^^^ w := BitVec.eq_of_getLsbD_eq fun k _ => by rw [h k, BitVec.getLsbD_xor]
    rw [hv, ← advance_loadWord]
    exact run_need hop _
  case and =>
    have hv : v = getReg s m.r &&& w := BitVec.eq_of_getLsbD_eq fun k _ => by rw [h k, BitVec.getLsbD_and]
    rw [hv, ← advance_loadWord]
    exact run_need hop _

end Sys2Proof.Proofs

namespace Sys2Proof.Proofs

open Sys2Proof Sys2Proof.Machine Sys2Proof.Laws

/-! ### Rotations composed -/

/-- A left rotation in the manual's numbering takes each bit from `r` places to the right of it. -/
theorem rotateLeft_rotateLeft {w : Nat} (v : BitVec w) (j k : Nat) :
    (v.rotateLeft j).rotateLeft k = v.rotateLeft (j + k) := by
  apply BitVec.eq_of_getMsbD_eq
  intro i hi
  have hlt : (k + i) % w < w := Nat.mod_lt _ (by omega)
  simp only [BitVec.getMsbD_rotateLeft, hi, hlt, decide_true, Bool.true_and, Nat.add_mod_mod, Nat.add_assoc]

/-- A right rotation takes each bit from `r` places to the left of it. -/
theorem getLsbD_rotateRight_mod {w i : Nat} (v : BitVec w) (r : Nat) (hi : i < w) :
    (v.rotateRight r).getLsbD i = v.getLsbD ((r + i) % w) := by
  have hr : r % w < w := Nat.mod_lt _ (by omega)
  rw [BitVec.getLsbD_rotateRight, ← Nat.mod_add_mod]
  by_cases h : i < w - r % w
  · rw [Nat.mod_eq_of_lt (by omega : r % w + i < w)]
    simp [h]
  · rw [Nat.mod_eq_sub_mod (by omega : w ≤ r % w + i), Nat.mod_eq_of_lt (by omega : r % w + i - w < w),
      show r % w + i - w = i - (w - r % w) by omega]
    simp [h, hi]

theorem rotateRight_rotateRight {w : Nat} (v : BitVec w) (j k : Nat) :
    (v.rotateRight j).rotateRight k = v.rotateRight (j + k) := by
  apply BitVec.eq_of_getLsbD_eq
  intro i hi
  have hlt : (k + i) % w < w := Nat.mod_lt _ (by omega)
  rw [getLsbD_rotateRight_mod _ _ hi, getLsbD_rotateRight_mod _ _ hlt, getLsbD_rotateRight_mod _ _ hi,
    Nat.add_mod_mod, Nat.add_assoc]

/-! ### The condition code of a left shift (42 R321) -/

theorem oddOnes_succ (f : Nat → Bool) (n : Nat) : oddOnes f (n + 1) = (f 0 != oddOnes (fun k => f (k + 1)) n) := by
  have hlen : ((List.range (n + 1)).filter f).length =
      (f 0).toNat + ((List.range n).filter (fun k => f (k + 1))).length := by
    rw [List.range_succ_eq_map, List.filter_cons, List.filter_map]
    cases f 0 <;> simp [Function.comp_def, Nat.add_comm]
  rw [oddOnes, oddOnes, hlen]
  cases f 0
  · simp
  · simp only [Bool.toNat_true, Bool.true_bne, ← decide_not, decide_eq_decide]
    omega

theorem signChanges_succ (f : Nat → Bool) (n : Nat) :
    signChanges f (n + 1) = ((f 0 != f 1) || signChanges (fun k => f (k + 1)) n) := by
  rw [signChanges, List.range_succ_eq_map, List.any_cons, List.any_map]
  rfl

/-! ### Plain shifts (42 R316-R319) -/

section PlainShift

variable {w : Nat} (t : BitVec 2) (v : BitVec w)

theorem shiftedBy_left_zero : shiftedBy t false v 0 = v := by
  unfold shiftedBy
  split
  · apply BitVec.eq_of_getMsbD_eq
    intro i hi
    simp [BitVec.getMsbD_rotateLeft, hi, Nat.mod_eq_of_lt hi]
  · simp

/-- A left shift by one place more is one step and then the shift. -/
theorem shiftedBy_left_succ (k : Nat) :
    shiftedBy t false v (k + 1) = shiftedBy t false (leftOne (decide (t = 1)) v) k := by
  by_cases h : t = 1
  · simp only [shiftedBy, leftOne, h, decide_true, if_true, rotateLeft_rotateLeft, Nat.add_comm, Bool.false_eq_true,
      if_false]
  · simp only [shiftedBy, leftOne, h, decide_false, Bool.false_eq_true, if_false, ← BitVec.shiftLeft_add,
      Nat.add_comm]

/-- The model's left steps: the value shifted, with the parity and the change of sign accumulated (R321). -/
theorem leftSteps_eq (n : Nat) (odd changed : Bool) :
    leftSteps (decide (t = 1)) n (v, odd, changed) =
      (shiftedBy t false v n, odd != oddOnes (fun k => (shiftedBy t false v k).msb) n,
        changed || signChanges (fun k => (shiftedBy t false v k).msb) n) := by
  induction n generalizing v odd changed with
  | zero => simp [leftSteps, shiftedBy_left_zero, oddOnes, signChanges]
  | succ n ih =>
    rw [leftSteps, ih, oddOnes_succ, signChanges_succ]
    simp only [shiftedBy_left_succ, shiftedBy_left_zero, Bool.or_assoc, Bool.bne_assoc]
    rw [bne_comm (a := v.msb) (b := BitVec.msb _)]

theorem shiftTypeOf_ne_searching (h : t ≠ 3) : shiftTypeOf t ≠ .searching := by
  revert h
  revert t
  decide

theorem shiftTypeOf_circular : (shiftTypeOf t == .circular) = decide (t = 1) := by
  revert t
  decide

theorem rightShift_eq (h : t ≠ 3) (n : Nat) : rightShift (shiftTypeOf t) v n = shiftedBy t true v n := by
  have ht : t = 0 ∨ t = 1 ∨ t = 2 := by
    revert h
    revert t
    decide
  rcases ht with rfl | rfl | rfl <;> rfl

/-- The size of the count (R315). -/
theorem count_natAbs (c : BitVec 7) : c.toInt.natAbs = if c.msb then (-c).toNat else c.toNat := by
  revert c
  decide

/-- A shift that does not search, in the vocabulary of the statements. -/
theorem plainShift_eq (h : t ≠ 3) (c : BitVec 7) :
    plainShift (shiftTypeOf t) v c =
      (shiftedBy t c.msb v c.toInt.natAbs,
        !c.msb && oddOnes (fun k => (shiftedBy t false v k).msb) c.toInt.natAbs,
        !c.msb && signChanges (fun k => (shiftedBy t false v k).msb) c.toInt.natAbs) := by
  rw [plainShift, count_natAbs, shiftTypeOf_circular]
  cases c.msb
  · simp only [Bool.false_eq_true, if_false, leftSteps_eq, Bool.not_false, Bool.true_and, Bool.false_bne, Bool.false_or]
  · simp only [if_true, rightShift_eq t v h, Bool.not_true, Bool.false_and]

theorem shiftValue_of_ne_searching {t : ShiftType} (h : t ≠ .searching) (c : BitVec 7) :
    shiftValue t v c =
      { value := (plainShift t v c).1
        cc1 := some (plainShift t v c).2.1
        cc2 := (plainShift t v c).2.2
        cc4 := none
        rem := none } := by
  cases t with
  | searching => exact absurd rfl h
  | logical | circular | arithmetic => rfl

theorem shiftValue_plain (h : t ≠ 3) (c : BitVec 7) :
    shiftValue (shiftTypeOf t) v c =
      { value := shiftedBy t c.msb v c.toInt.natAbs
        cc1 := some (!c.msb && oddOnes (fun k => (shiftedBy t false v k).msb) c.toInt.natAbs)
        cc2 := !c.msb && signChanges (fun k => (shiftedBy t false v k).msb) c.toInt.natAbs
        cc4 := none
        rem := none } := by
  rw [shiftValue_of_ne_searching v (shiftTypeOf_ne_searching t h), plainShift_eq t v h]

end PlainShift

/-! ### Searching shifts (42 R320) -/

section SearchingShift

variable {w : Nat} (right : Bool)

theorem shiftedBy_circular_zero (v : BitVec w) : shiftedBy 1 right v 0 = v := by
  cases right
  · exact shiftedBy_left_zero 1 v
  · refine BitVec.eq_of_getLsbD_eq fun i hi => ?_
    rw [show shiftedBy 1 true v 0 = v.rotateRight 0 from rfl, getLsbD_rotateRight_mod _ _ hi, Nat.zero_add,
      Nat.mod_eq_of_lt hi]

/-- A rotation by one place more is one step and then the rotation. -/
theorem shiftedBy_circular_succ (v : BitVec w) (k : Nat) :
    shiftedBy 1 right v (k + 1) = shiftedBy 1 right (if right then v.rotateRight 1 else v.rotateLeft 1) k := by
  cases right
  · exact shiftedBy_left_succ 1 v k
  · simp [shiftedBy, rotateRight_rotateRight, Nat.add_comm]

/-- The search stops at the first place where bit 0 is 1, or when its places are used up. -/
theorem searchSteps_eq {n k : Nat} {v : BitVec w} (hk : k ≤ n)
    (hbefore : ∀ j, j < k → (shiftedBy 1 right v j).msb = false)
    (hstop : k = n ∨ (shiftedBy 1 right v k).msb = true) :
    searchSteps right n v = (shiftedBy 1 right v k, k) := by
  induction n generalizing k v with
  | zero =>
    obtain rfl : k = 0 := by omega
    rw [shiftedBy_circular_zero, searchSteps]
  | succ n ih =>
    cases k with
    | zero =>
      have hmsb : v.msb = true := by
        rw [shiftedBy_circular_zero] at hstop
        exact hstop.resolve_left (by omega)
      rw [shiftedBy_circular_zero, searchSteps, if_pos hmsb]
    | succ k =>
      have hmsb : v.msb = false := by
        have hfirst := hbefore 0 (by omega)
        rwa [shiftedBy_circular_zero] at hfirst
      have hrest := ih (k := k) (v := if right then v.rotateRight 1 else v.rotateLeft 1) (by omega)
        (fun j hj => by rw [← shiftedBy_circular_succ]; exact hbefore (j + 1) (by omega))
        (by rw [← shiftedBy_circular_succ]; exact hstop.imp_left (by omega))
      rw [searchSteps, hmsb, hrest, shiftedBy_circular_succ]
      rfl

/-- What remains of the count (R320, D36). -/
theorem remaining_eq (c : BitVec 7) (k : Nat) :
    (if c.msb then c + BitVec.ofNat 7 k else c - BitVec.ofNat 7 k) =
      BitVec.ofInt 7 (if c.msb then c.toInt + k else c.toInt - k) := by
  cases c.msb
  · simp [Int.sub_eq_add_neg, BitVec.ofInt_add, BitVec.sub_eq_add_neg, BitVec.ofInt_neg]
  · simp [BitVec.ofInt_add]

/-- A searching shift, in the vocabulary of the statements. -/
theorem shiftValue_searching {t : BitVec 2} (ht : t = 3) {k : Nat} {v : BitVec w} {c : BitVec 7}
    (hk : k ≤ c.toInt.natAbs)
    (hbefore : ∀ j, j < k → (shiftedBy 1 c.msb v j).msb = false)
    (hstop : k = c.toInt.natAbs ∨ (shiftedBy 1 c.msb v k).msb = true) :
    shiftValue (shiftTypeOf t) v c =
      { value := shiftedBy 1 c.msb v k
        cc1 := none
        cc2 := !v.msb && (shiftedBy 1 c.msb v k).msb
        cc4 := some (shiftedBy 1 c.msb v k).msb
        rem := some (BitVec.ofInt 7 (if c.msb then c.toInt + k else c.toInt - k)) } := by
  have hsearching : shiftTypeOf t = .searching := by rw [ht]; rfl
  rw [hsearching, shiftValue, ← count_natAbs, searchSteps_eq c.msb hk hbefore hstop, remaining_eq]

end SearchingShift

/-! ### S (42 R315-R323) -/

theorem shiftCount_eq (s : State) (m : MR) (d : BitVec 17) :
    shiftCount s m d = d.extractLsb' 0 7 + (if m.x = 0 then 0 else (getReg s (0#1 ++ m.x)).extractLsb' 0 7) := by
  unfold shiftCount
  split
  · simp
  · rw [BitVec.truncate_eq_setWidth, BitVec.setWidth_eq_extractLsb' (by omega)]

theorem setReg_comm {n k : BitVec 4} (h : n ≠ k) (v w : Word) (s : State) :
    setReg n v (setReg k w s) = setReg k w (setReg n v s) := by
  have hne : regIndex s.psd k ≠ regIndex s.psd n := fun e => h (regIndex_inj e).symm
  unfold setReg
  rw [Vector.set_comm _ _ hne]

theorem ru1_ne_of_even {r : BitVec 4} (h : oddR r = false) : ru1 r ≠ r := by
  unfold ru1 oddR at *
  revert r
  decide

/-- A double-register result changes registers only (R316, R323). -/
theorem putShifted_eq (r : BitVec 4) (d : Dword) (s : State) :
    putShifted r d s = { s with regs := doubleShiftRegs s r d } := by
  unfold putShifted doubleShiftRegs
  cases h : oddR r
  · simp only [Bool.false_eq_true, if_false, setReg_comm (ru1_ne_of_even h)]
    rfl
  · rfl

/-- The end of a shift: the registers with the result, the condition code, and register 1 if something is left over. -/
theorem advance_shiftResult {w : Nat} (x : ShiftResult w) (s : State) (regs : Vector Word 64) :
    advance (shiftRemainder x.rem (shiftCC x { s with regs := regs })) =
      finished s
        (match x.rem with
          | some c => oneReg { s with regs := regs } 1 (c.zeroExtend 32)
          | none => regs)
        (x.cc1.getD s.psd.cc1) x.cc2 s.psd.cc3 (x.cc4.getD s.psd.cc4) := by
  obtain ⟨value, cc1, cc2, cc4, rem⟩ := x
  cases cc1 <;> cases cc4 <;> cases rem <;> rfl

/-- The model's shift of one register or of two. -/
theorem exec_s {s : State} {m : MR} {d : BitVec 17} (hd : shiftControl s m = .ok d) :
    exec (.s m) s = .next (advance (Machine.shift m.r d (shiftCount s m d) s)) :=
  run_change_by hd (fun d s => Machine.shift m.r d (shiftCount s m d) s)

theorem shift_single {d : BitVec 17} (h : d.getLsbD 8 = false) {r : BitVec 4} {c : BitVec 7} {s : State}
    {x : ShiftResult 32} (hx : shiftValue (shiftTypeOf (d.extractLsb' 9 2)) (getReg s r) c = x) :
    Machine.shift r d c s = shiftRemainder x.rem (shiftCC x { s with regs := oneReg s r x.value }) := by
  subst hx
  rw [Machine.shift, h]
  rfl

theorem shift_double {d : BitVec 17} (h : d.getLsbD 8 = true) {r : BitVec 4} {c : BitVec 7} {s : State}
    {x : ShiftResult 64} (hx : shiftValue (shiftTypeOf (d.extractLsb' 9 2)) (getReg s r ++ getReg s (ru1 r)) c = x) :
    Machine.shift r d c s = shiftRemainder x.rem (shiftCC x { s with regs := doubleShiftRegs s r x.value }) := by
  subst hx
  rw [← putShifted_eq, Machine.shift, h]
  rfl

/-- Settles O36: `shiftValue` gives the result of either type, and `advance_shiftResult` puts it away. -/
theorem shift : Obligations.Shift := by
  intro s m d c t n hd hc ht hn
  subst ht hn
  rw [← shiftCount_eq] at hc
  subst hc
  rw [exec_s hd]
  refine ⟨fun hplain hone v f hv hf => ?single, fun hplain htwo v f hv hf => ?double,
    fun hsearch hone v k hv hk hbefore hstop => ?searchSingle,
    fun hsearch htwo v k hv hk hbefore hstop => ?searchDouble⟩
  case single =>
    subst hv hf
    rw [shift_single hone (shiftValue_plain _ _ hplain _), advance_shiftResult]
    rfl
  case double =>
    subst hv hf
    rw [shift_double htwo (shiftValue_plain _ _ hplain _), advance_shiftResult]
    rfl
  case searchSingle =>
    subst hv
    rw [shift_single hone (shiftValue_searching hsearch hk hbefore hstop), advance_shiftResult]
    rfl
  case searchDouble =>
    subst hv
    rw [shift_double htwo (shiftValue_searching hsearch hk hbefore hstop), advance_shiftResult]
    rfl

end Sys2Proof.Proofs

namespace Sys2Proof.Proofs

open Sys2Proof Sys2Proof.Machine Sys2Proof.Laws

/-! ### The steps of a floating shift (42 R325, R326) -/

section Steps

variable {f : Nat} (hf : 4 ≤ f)

include hf in
theorem two_pow_sub_four : 2 ^ f = 2 ^ (f - 4) * 16 := by
  rw [show (16 : Nat) = 2 ^ 4 from rfl, ← pow_add, Nat.sub_add_cancel hf]

include hf in
/-- A fraction is normalized if it has no zero digits in front (R325). -/
theorem normalizedFraction_eq (v : BitVec f) : normalizedFraction v = decide (2 ^ (f - 4) ≤ v.toNat) := by
  have hlt : v.toNat / 2 ^ (f - 4) < 16 := by
    rw [Nat.div_lt_iff_lt_mul (by positivity), Nat.mul_comm, ← two_pow_sub_four hf]
    exact v.isLt
  rw [normalizedFraction, bne_eq_decide, decide_eq_decide, ne_eq, ← BitVec.toNat_inj, BitVec.extractLsb'_toNat,
    Nat.shiftRight_eq_div_pow, Nat.mod_eq_of_lt hlt, show BitVec.toNat (0 : BitVec 4) = 0 from rfl, Nat.div_eq_zero_iff]
  have hpos : 2 ^ (f - 4) ≠ 0 := by positivity
  omega

include hf in
theorem toNat_shiftLeft_four {v : BitVec f} (h : v.toNat < 2 ^ (f - 4)) : (v <<< 4).toNat = v.toNat * 16 := by
  have hpow := two_pow_sub_four hf
  rw [BitVec.toNat_shiftLeft, Nat.shiftLeft_eq]
  exact Nat.mod_eq_of_lt (by omega)

theorem floatLeftSteps_under (n : Nat) (ch : BitVec 7) (v : BitVec f) :
    floatLeftSteps n (ch, v, true) = (ch, v, true) := by
  cases n
  · rfl
  · rw [floatLeftSteps, Bool.or_true, if_pos rfl]

theorem floatRightSteps_full (n : Nat) (ch : BitVec 7) (v : BitVec f) :
    floatRightSteps n (ch, v, true) = (ch, v, true) := by
  cases n
  · rfl
  · rw [floatRightSteps, if_pos rfl]

include hf in
/-- The left steps stop at the first place `k` where the count is used up, the fraction is normalized, or the
characteristic has passed below 0. -/
theorem floatLeftSteps_eq {n k : Nat} {ch : BitVec 7} {v : BitVec f} (hn : k ≤ n) (hch : k ≤ ch.toNat + 1)
    (hbefore : ∀ j, j < k → v.toNat * 16 ^ j < 2 ^ (f - 4) ∧ j ≤ ch.toNat)
    (hstop : k = n ∨ 2 ^ (f - 4) ≤ v.toNat * 16 ^ k ∨ k = ch.toNat + 1) :
    ∃ (ch' : BitVec 7) (v' : BitVec f),
      floatLeftSteps n (ch, v, false) = (ch', v', decide (k = ch.toNat + 1)) ∧
      ch'.toNat = (ch.toNat + 128 - k) % 128 ∧ v'.toNat = v.toNat * 16 ^ k := by
  have hlt := ch.isLt
  induction n generalizing k ch v with
  | zero =>
    obtain rfl : k = 0 := by omega
    exact ⟨ch, v, rfl, by omega, by simp⟩
  | succ n ih =>
    cases k with
    | zero =>
      have hnormal : normalizedFraction v = true := by
        rw [normalizedFraction_eq hf, decide_eq_true_eq]
        simpa using hstop
      exact ⟨ch, v, by rw [floatLeftSteps, hnormal]; rfl, by omega, by simp⟩
    | succ k =>
      have hsmall : v.toNat < 2 ^ (f - 4) := by simpa using (hbefore 0 (by omega)).1
      have hv := toNat_shiftLeft_four hf hsmall
      have hpow : ∀ j, (v <<< 4).toNat * 16 ^ j = v.toNat * 16 ^ (j + 1) := fun j => by rw [hv]; ring
      have hstep : floatLeftSteps (n + 1) (ch, v, false) = floatLeftSteps n (ch - 1#7, v <<< 4, ch == 0) := by
        rw [floatLeftSteps, normalizedFraction_eq hf, decide_eq_false (by omega)]
        rfl
      rw [hstep, ← hpow]
      by_cases hzero : ch = 0
      · subst hzero
        obtain rfl : k = 0 := by simpa using hch
        exact ⟨_, _, floatLeftSteps_under n _ _, rfl, by simp⟩
      · have hpred : (ch - 1#7).toNat + 1 = ch.toNat := by
          have hne : ch.toNat ≠ 0 := fun e => hzero (BitVec.eq_of_toNat_eq e)
          simp
          omega
        have hnz : (ch == 0) = false := by simpa using hzero
        obtain ⟨ch', v', hrun, hch', hv'⟩ := ih (k := k) (ch := ch - 1#7) (v := v <<< 4) (by omega) (by omega)
          (fun j hj => by
            obtain ⟨hfraction, hcharacteristic⟩ := hbefore (j + 1) (by omega)
            exact ⟨by rwa [hpow], by omega⟩)
          (by rw [hpow]; omega) (by omega)
        refine ⟨ch', v', ?_, by omega, hv'⟩
        rw [hnz, hrun, hpred, decide_eq_decide.2 (by omega : k = ch.toNat ↔ k + 1 = ch.toNat + 1)]

/-- The right steps stop when the count is used up or the characteristic has passed above 127. -/
theorem floatRightSteps_eq {n k : Nat} {ch : BitVec 7} (v : BitVec f) (hk : k = min n (128 - ch.toNat)) :
    ∃ (ch' : BitVec 7) (v' : BitVec f),
      floatRightSteps n (ch, v, false) = (ch', v', decide (k = 128 - ch.toNat)) ∧
      ch'.toNat = (ch.toNat + k) % 128 ∧ v'.toNat = v.toNat / 16 ^ k := by
  have hlt := ch.isLt
  induction n generalizing k ch v with
  | zero =>
    obtain rfl : k = 0 := by omega
    exact ⟨ch, v, by rw [floatRightSteps, decide_eq_false (by omega)], by omega, by simp⟩
  | succ n ih =>
    obtain ⟨k, rfl⟩ : ∃ j, k = j + 1 := ⟨k - 1, by omega⟩
    have hpow : (v >>> 4).toNat / 16 ^ k = v.toNat / 16 ^ (k + 1) := by
      rw [BitVec.toNat_ushiftRight, Nat.shiftRight_eq_div_pow, Nat.div_div_eq_div_mul, pow_succ' 16 k]
    have hstep : floatRightSteps (n + 1) (ch, v, false) = floatRightSteps n (ch + 1#7, v >>> 4, ch == 127#7) := rfl
    rw [hstep, ← hpow]
    by_cases hfull : ch = 127#7
    · subst hfull
      obtain rfl : k = 0 := by simp at hk; omega
      exact ⟨_, _, floatRightSteps_full n _ _, rfl, by simp⟩
    · have hsucc : (ch + 1#7).toNat = ch.toNat + 1 := by
        have hne : ch.toNat ≠ 127 := fun e => hfull (BitVec.eq_of_toNat_eq e)
        simp
        omega
      have hnf : (ch == 127#7) = false := by simpa using hfull
      obtain ⟨ch', v', hrun, hch', hv'⟩ := ih (k := k) (ch := ch + 1#7) (v >>> 4) (by omega) (by omega)
      refine ⟨ch', v', ?_, by omega, hv'⟩
      rw [hnf, hrun, hsucc, decide_eq_decide.2 (by omega : k = 128 - (ch.toNat + 1) ↔ k + 1 = 128 - ch.toNat)]

end Steps

/-! ### The number taken apart and put together (42 R324) -/

section Parts

variable {f : Nat}

/-- The number of a sign bit, a characteristic and a fraction. -/
theorem toNat_floatParts (sign : BitVec 1) (ch : BitVec 7) (fr : BitVec f) :
    (sign ++ ch ++ fr).toNat = sign.toNat * 2 ^ (f + 7) + ch.toNat * 2 ^ f + fr.toNat := by
  rw [BitVec.toNat_append, ← Nat.shiftLeft_add_eq_or_of_lt fr.isLt, BitVec.toNat_append,
    ← Nat.shiftLeft_add_eq_or_of_lt ch.isLt, Nat.shiftLeft_eq, Nat.shiftLeft_eq, pow_add]
  ring

theorem toNat_signBit (a : BitVec (1 + 7 + f)) : (a.extractLsb' (7 + f) 1).toNat = a.toNat / 2 ^ (f + 7) := by
  have hlt : a.toNat / 2 ^ (f + 7) < 2 := by
    rw [Nat.div_lt_iff_lt_mul (by positivity), ← pow_succ', show f + 7 + 1 = 1 + 7 + f by omega]
    exact a.isLt
  rw [BitVec.extractLsb'_toNat, Nat.shiftRight_eq_div_pow, Nat.add_comm 7 f, pow_one, Nat.mod_eq_of_lt hlt]

theorem toNat_characteristic (a : BitVec (1 + 7 + f)) : (a.extractLsb' f 7).toNat = a.toNat / 2 ^ f % 128 := by
  rw [BitVec.extractLsb'_toNat, Nat.shiftRight_eq_div_pow]

theorem toNat_fraction (a : BitVec (1 + 7 + f)) : (a.extractLsb' 0 f).toNat = a.toNat % 2 ^ f := by
  rw [BitVec.extractLsb'_toNat, Nat.shiftRight_zero]

/-- What SF puts together after its steps: a zero fraction gives zero. -/
def reassembled (a : BitVec (1 + 7 + f)) (ch : BitVec 7) (fr : BitVec f) : BitVec (1 + 7 + f) :=
  if fr = 0 then 0 else a.extractLsb' (7 + f) 1 ++ ch ++ fr

theorem toNat_reassembled (a : BitVec (1 + 7 + f)) (ch : BitVec 7) (fr : BitVec f) :
    (reassembled a ch fr).toNat =
      if fr.toNat = 0 then 0 else a.toNat / 2 ^ (f + 7) * 2 ^ (f + 7) + ch.toNat * 2 ^ f + fr.toNat := by
  have hzero : fr = 0 ↔ fr.toNat = 0 := BitVec.toNat_inj.symm
  unfold reassembled
  by_cases h : fr = 0
  · rw [if_pos h, if_pos (hzero.1 h)]
    rfl
  · rw [if_neg h, if_neg (mt hzero.2 h), toNat_floatParts, toNat_signBit]

/-- The sign restored: of a zero fraction it leaves zero. -/
theorem signed_reassembled (neg : Bool) (a : BitVec (1 + 7 + f)) (ch : BitVec 7) (fr : BitVec f) :
    (if fr = 0 then 0
      else if neg then -(a.extractLsb' (7 + f) 1 ++ ch ++ fr) else a.extractLsb' (7 + f) 1 ++ ch ++ fr) =
      if neg then -reassembled a ch fr else reassembled a ch fr := by
  unfold reassembled
  by_cases h : fr = 0
  · simp [h]
  · rw [if_neg h, if_neg h]

end Parts

/-! ### SF (42 R324-R327) -/

section FloatShift

variable {f : Nat} {v : BitVec (1 + 7 + f)} {c : BitVec 7}

theorem floatShift_left (hc : c.msb = false) (hfr : (absolute v).extractLsb' 0 f ≠ 0) {ch : BitVec 7} {fr : BitVec f}
    {under : Bool}
    (h : floatLeftSteps c.toNat ((absolute v).extractLsb' f 7, (absolute v).extractLsb' 0 f, false) =
      (ch, fr, under)) :
    floatShift v c = (if v.msb then -reassembled (absolute v) ch fr else reassembled (absolute v) ch fr,
      normalizedFraction fr, under) := by
  rw [← signed_reassembled]
  unfold absolute at *
  simp only [floatShift, hc, hfr, h, Bool.false_eq_true, if_false]

theorem floatShift_zero (hc : c.msb = false) (hfr : (absolute v).extractLsb' 0 f = 0) :
    floatShift v c = (0, true, false) := by
  unfold absolute at *
  simp only [floatShift, hc, hfr, Bool.false_eq_true, if_false, if_true]

theorem floatShift_right (hc : c.msb = true) {ch : BitVec 7} {fr : BitVec f} {full : Bool}
    (h : floatRightSteps (-c).toNat ((absolute v).extractLsb' f 7, (absolute v).extractLsb' 0 f, false) =
      (ch, fr, full)) :
    floatShift v c = (if v.msb then -reassembled (absolute v) ch fr else reassembled (absolute v) ch fr,
      false, full) := by
  rw [← signed_reassembled]
  unfold absolute at *
  simp only [floatShift, hc, h, if_true]

end FloatShift

/-- The condition code of SF beside the registers (R327). -/
theorem advance_floatShiftCC {w : Nat} (x : BitVec w) (c₁ c₂ : Bool) (s : State) (regs : Vector Word 64) :
    advance (floatShiftCC x c₁ c₂ { s with regs := regs }) =
      finished s regs c₁ c₂ (decide (0 < x.toInt)) (decide (x.toInt < 0)) := by
  rw [decide_pos, decide_neg]
  rfl

theorem exec_sf {s : State} {m : MR} {d : BitVec 17} (hd : shiftControl s m = .ok d) :
    exec (.sf m) s = .next (advance (floatingShift m.r d (shiftCount s m d) s)) :=
  run_change_by hd (fun d s => floatingShift m.r d (shiftCount s m d) s)

theorem floatingShift_short {d : BitVec 17} (h : d.getLsbD 8 = false) {r : BitVec 4} {c : BitVec 7} {s : State}
    {x : Word} {c₁ c₂ : Bool} (hx : floatShift (f := 24) (getReg s r) c = (x, c₁, c₂)) :
    floatingShift r d c s = floatShiftCC x c₁ c₂ { s with regs := oneReg s r x } := by
  simp only [floatingShift, h, hx, Bool.false_eq_true, if_false]
  rfl

theorem floatingShift_long {d : BitVec 17} (h : d.getLsbD 8 = true) {r : BitVec 4} {c : BitVec 7} {s : State}
    {x : Dword} {c₁ c₂ : Bool} (hx : floatShift (f := 56) (getReg s r ++ getReg s (ru1 r)) c = (x, c₁, c₂)) :
    floatingShift r d c s = floatShiftCC x c₁ c₂ { s with regs := doubleShiftRegs s r x } := by
  rw [← putShifted_eq]
  simp only [floatingShift, getRegPair, h, hx, if_true]

/-- Settles O37: the steps stop where the statement says, and the parts are put together again. -/
theorem floatingShift : Obligations.FloatingShift := by
  intro f hformat v c a ch fr n ha hch hfr hn
  have hf : 4 ≤ f := by omega
  change a = (absolute v).toNat at ha
  have hch' := toNat_characteristic (absolute v)
  have hfr' := toNat_fraction (absolute v)
  rw [← ha] at hch' hfr'
  rw [← hch] at hch'
  rw [← hfr] at hfr'
  have hzero : (absolute v).extractLsb' 0 f = 0 ↔ fr = 0 := by rw [← hfr', ← BitVec.toNat_inj]; rfl
  rw [count_natAbs] at hn
  refine ⟨fun k hc hne hk hkch hbefore hstop => ?left, fun hc hz => floatShift_zero hc (hzero.2 hz),
    fun k hc hk => ?right, fun s m d hd hcount => ?exec⟩
  case left =>
    rw [hc] at hn
    obtain ⟨chEnd, frEnd, hrun, hchEnd, hfrEnd⟩ := floatLeftSteps_eq (n := n) (k := k)
      (ch := (absolute v).extractLsb' f 7) (v := (absolute v).extractLsb' 0 f) hf hk (by rwa [hch'])
      (by rwa [hch', hfr']) (by rwa [hch', hfr'])
    rw [hch', hn] at hrun
    rw [hch'] at hchEnd
    rw [hfr'] at hfrEnd
    have hnonzero : fr * 16 ^ k ≠ 0 := Nat.mul_ne_zero hne (by positivity)
    refine ⟨reassembled (absolute v) chEnd frEnd, ?_, ?_⟩
    · rw [toNat_reassembled, hfrEnd, if_neg hnonzero, hchEnd, ha]
    · rw [floatShift_left hc (mt hzero.1 hne) hrun, normalizedFraction_eq hf, hfrEnd]
  case right =>
    rw [hc] at hn
    obtain ⟨chEnd, frEnd, hrun, hchEnd, hfrEnd⟩ := floatRightSteps_eq (n := n) (k := k)
      (ch := (absolute v).extractLsb' f 7) ((absolute v).extractLsb' 0 f) (by rwa [hch'])
    rw [hch', hn] at hrun
    rw [hch'] at hchEnd
    rw [hfr'] at hfrEnd
    refine ⟨reassembled (absolute v) chEnd frEnd, ?_, ?_⟩
    · rw [toNat_reassembled, hfrEnd, hchEnd, ha]
    · rw [floatShift_right hc hrun]
  case exec =>
    rw [← shiftCount_eq] at hcount
    subst hcount
    rw [exec_sf hd]
    refine ⟨fun hshort v x c₁ c₂ hv hx => ?_, fun hlong v x c₁ c₂ hv hx => ?_⟩
    · subst hv
      rw [floatingShift_short hshort hx, advance_floatShiftCC]
    · subst hv
      rw [floatingShift_long hlong hx, advance_floatShiftCC]

end Sys2Proof.Proofs

namespace Sys2Proof.Proofs

open Sys2Proof Sys2Proof.Machine Sys2Proof.Laws

/-! ### CVA (42 R330) -/

/-- A sum of table words as CVA keeps it: 32 bits, and whether it has exceeded them. -/
def sumWithFlag (n : Nat) : Word × Bool := (BitVec.ofNat 32 n, decide (2 ^ 32 ≤ n))

/-- One word more: a sum exceeds 32 bits if it did before or does now. -/
theorem sumWithFlag_add (n : Nat) (w : Word) :
    ((sumWithFlag n).1 + w, (sumWithFlag n).2 || decide (2 ^ 32 ≤ (sumWithFlag n).1.toNat + w.toNat)) =
      sumWithFlag (n + w.toNat) := by
  have hsum : BitVec.ofNat 32 n + w = BitVec.ofNat 32 (n + w.toNat) := by
    rw [BitVec.ofNat_add, BitVec.ofNat_toNat, BitVec.setWidth_eq]
  simp only [sumWithFlag, hsum, ← Bool.decide_or, BitVec.toNat_ofNat, Prod.mk.injEq, decide_eq_decide, true_and]
  omega

/-- The sum of those of the first `k` table words that the selector selects. -/
def selectedSum (sel : Word) (w : Nat → Word) (k : Nat) : Nat :=
  ((List.range k).map (fun k => if bitOf sel k then (w k).toNat else 0)).sum

theorem selectedSum_succ (sel : Word) (w : Nat → Word) (k : Nat) :
    selectedSum sel w (k + 1) = selectedSum sel w k + if bitOf sel k then (w k).toNat else 0 := by
  rw [selectedSum, List.range_succ, List.map_append, List.sum_append, List.map_singleton, List.sum_singleton]
  rfl

/-- CVA from table word `k` on, when those before it have been added. -/
theorem convertAdd_eq {s : State} {v : WordAddr} {sel : Word} {w : Nat → Word}
    (hread : ∀ k, k < 32 → bitOf sel k = true → readWord s (wordPlus s v k) = .ok (w k)) (n : Nat) :
    ∀ k, n + k = 32 →
      convertAdd s v sel n (sumWithFlag (selectedSum sel w k)) = .ok (sumWithFlag (selectedSum sel w 32)) := by
  induction n with
  | zero =>
    intro k hk
    rw [show k = 32 by omega, convertAdd]
  | succ n ih =>
    intro k hk
    have hindex : 31 - n = k := by omega
    have hbit : sel.getLsbD n = bitOf sel k := by rw [bitOf, show 32 - 1 - k = n by omega]
    have hstep := selectedSum_succ sel w k
    rw [← ih (k + 1) (by omega), ← Prod.mk.eta (p := sumWithFlag (selectedSum sel w k)), convertAdd, hindex, hbit]
    cases hsel : bitOf sel k
    · rw [hsel] at hstep
      simp [hstep]
    · rw [hsel, if_pos rfl] at hstep
      rw [hread k (by omega) hsel, hstep, ← sumWithFlag_add]
      rfl

/-- The sum put into R, CC1 that it exceeded 32 bits (R330). -/
theorem advance_setCC1_loadWord (c : Bool) (r : BitVec 4) (v : Word) (s : State) :
    advance (setCC1 c (loadWord r v s)) =
      finished s (oneReg s r v) c s.psd.cc2 (decide (0 < v.toInt)) (decide (v.toInt < 0)) := by
  simp only [decide_pos, decide_neg]; rfl

/-! ### CVS (42 R331) -/

/-- The converted quantity of CVS after the first `k` table words: bit `j` of these marks the words that fitted. -/
def MarkedTo (fits : Nat → Bool) (k : Nat) (b : Word) : Prop := ∀ j, j < 32 → bitOf b j = (decide (j < k) && fits j)

theorem markedTo_zero (fits : Nat → Bool) : MarkedTo fits 0 0 := by
  intro j _
  simp [bitOf]

theorem MarkedTo.skip {fits : Nat → Bool} {k : Nat} {b : Word} (h : MarkedTo fits k b) (hfits : fits k = false) :
    MarkedTo fits (k + 1) b := by
  intro j hj
  rw [h j hj]
  rcases eq_or_ne j k with rfl | hne
  · simp [hfits]
  · rw [decide_eq_decide.2 (by omega : j < k ↔ j < k + 1)]

theorem MarkedTo.mark {fits : Nat → Bool} {k n : Nat} {b : Word} (h : MarkedTo fits k b) (hfits : fits k = true)
    (hn : n + k = 31) : MarkedTo fits (k + 1) (b ||| 1#32 <<< n) := by
  intro j hj
  have hone : (1#32 <<< n).getLsbD (32 - 1 - j) = decide (j = k) := by
    rw [← BitVec.twoPow_eq, BitVec.getLsbD_twoPow, ← Bool.decide_and, decide_eq_decide]
    omega
  rw [bitOf, BitVec.getLsbD_or, hone, ← bitOf, h j hj]
  rcases eq_or_ne j k with rfl | hne
  · simp [hfits]
  · rw [decide_eq_false hne, Bool.or_false, decide_eq_decide.2 (by omega : j < k ↔ j < k + 1)]

/-- CVS from table word `k` on: what is left, and the words marked. -/
theorem convertSubtract_eq {s : State} {v : WordAddr} {w : Nat → Word} {left : Nat → Nat}
    (hread : ∀ k, k < 32 → readWord s (wordPlus s v k) = .ok (w k))
    (hleft : ∀ k, k < 32 → left (k + 1) = if (w k).toNat ≤ left k then left k - (w k).toNat else left k) (n : Nat) :
    ∀ (k : Nat) (a b : Word), n + k = 32 → a.toNat = left k →
      MarkedTo (fun j => decide ((w j).toNat ≤ left j)) k b →
      ∃ marks, convertSubtract s v n (a, b) = .ok (BitVec.ofNat 32 (left 32), marks) ∧
        MarkedTo (fun j => decide ((w j).toNat ≤ left j)) 32 marks := by
  induction n with
  | zero =>
    intro k a b hk ha hb
    obtain rfl : k = 32 := by omega
    exact ⟨b, by rw [convertSubtract, ← ha, BitVec.ofNat_toNat, BitVec.setWidth_eq], hb⟩
  | succ n ih =>
    intro k a b hk ha hb
    have hstep := hleft k (by omega)
    rw [convertSubtract, show 31 - n = k by omega, hread k (by omega)]
    by_cases hfits : (w k).toNat ≤ left k
    · have hule : (w k).ule a = true := by rw [BitVec.ule_eq_decide, ha, decide_eq_true hfits]
      rw [if_pos hfits] at hstep
      have hsub : (a - w k).toNat = left (k + 1) := by
        rw [BitVec.toNat_sub_of_le (by rw [BitVec.le_def, ha]; exact hfits), ha, hstep]
      simp only [hule, if_true]
      exact ih (k + 1) _ _ (by omega) hsub (hb.mark (decide_eq_true hfits) (by omega))
    · have hule : (w k).ule a = false := by rw [BitVec.ule_eq_decide, ha, decide_eq_false hfits]
      rw [if_neg hfits, ← ha] at hstep
      simp only [hule, Bool.false_eq_true, if_false]
      exact ih (k + 1) _ _ (by omega) hstep.symm (hb.skip (decide_eq_false hfits))

/-- Settles O38: `convertAdd_eq` and `convertSubtract_eq` over the whole table of 32 words. -/
theorem convert : Obligations.Convert := by
  refine ⟨?cva, ?cvs⟩
  case cva =>
    intro s m v sel w total hv hsel hread htotal
    have hsum : convertAdd s v sel 32 (0, false) = .ok (sumWithFlag total) := by
      have hempty : sumWithFlag (selectedSum sel w 0) = (0, false) := rfl
      rw [← hempty, convertAdd_eq hread 32 0 rfl, htotal, selectedSum]
    rw [hsel] at hsum
    rw [← advance_setCC1_loadWord]
    exact (run_need hv _).trans (run_change_by (f := fun s => convertAdd s v (getReg s (ru1 m.r)) 32 (0, false)) hsum
      (fun x s => setCC1 x.2 (loadWord m.r x.1 s)))
  case cvs =>
    intro s m v w left hv hread hzero hleft
    obtain ⟨marks, hrun, hmarks⟩ :=
      convertSubtract_eq hread hleft 32 0 (getReg s m.r) 0 rfl hzero.symm (markedTo_zero _)
    refine ⟨marks, fun k hk => by simpa [hk] using hmarks k hk, ?_⟩
    refine (run_need hv _).trans ((run_change_by (f := fun s => convertSubtract s v 32 (getReg s m.r, 0)) hrun
      (fun x s => loadWord (ru1 m.r) x.2 (setReg m.r x.1 s))).trans ?_)
    rw [advance_loadWord]
    rfl

end Sys2Proof.Proofs

namespace Sys2Proof.Proofs

open Sys2Proof Sys2Proof.Machine Sys2Proof.Laws

/-! ### Leading digits (43 R346-R348) -/

/-- A fraction of `digits` hexadecimal digits of which the first is not zero. -/
def Normalized (digits f : Nat) : Prop := 16 ^ (digits - 1) ≤ f ∧ f < 16 ^ digits

/-- The quotient of two fractions after `k` places of shift of the dividend and `j` of the divisor. -/
def shiftedQuotient (n m k j : Nat) : Nat := n * 16 ^ k / (m * 16 ^ j)

section Digits

variable {digits n m k j k' j' : Nat}

/-- A whole fraction, shifted left and then right. -/
theorem shiftedQuotient_whole (n k j : Nat) : shiftedQuotient n 1 k j = n * 16 ^ k / 16 ^ j := by
  rw [shiftedQuotient, one_mul]

theorem shiftedQuotient_left (n k : Nat) : shiftedQuotient n 1 k 0 = n * 16 ^ k := by
  rw [shiftedQuotient_whole, pow_zero, Nat.div_one]

theorem shiftedQuotient_right (n j : Nat) : shiftedQuotient n 1 0 j = n / 16 ^ j := by
  rw [shiftedQuotient_whole, pow_zero, mul_one]

/-- Only the difference of the two shifts counts. -/
theorem shiftedQuotient_congr (h : k + j' = k' + j) : shiftedQuotient n m k j = shiftedQuotient n m k' j' := by
  have hpow : 16 ^ k * 16 ^ j' = 16 ^ k' * 16 ^ j := by rw [← pow_add, h, pow_add]
  have hdividend : n * 16 ^ k * 16 ^ j' = n * 16 ^ k' * 16 ^ j := by rw [mul_assoc, hpow, mul_assoc]
  rw [shiftedQuotient, shiftedQuotient, ← Nat.mul_div_mul_right (n * 16 ^ k) _ (show 0 < 16 ^ j' by positivity),
    ← Nat.mul_div_mul_right (n * 16 ^ k') _ (show 0 < 16 ^ j by positivity), hdividend, mul_right_comm m]

/-- One place more gives one digit more. -/
theorem mul_shiftedQuotient_le (h : k + j' < k' + j) (hm : 0 < m) :
    16 * shiftedQuotient n m k j ≤ shiftedQuotient n m k' j' := by
  have hplace : shiftedQuotient n m k' j' = shiftedQuotient n m (k' + j) (j + j') := shiftedQuotient_congr (by omega)
  have hbase : shiftedQuotient n m k j = shiftedQuotient n m (k + j') (j + j') := shiftedQuotient_congr (by omega)
  rw [hplace, hbase, shiftedQuotient, shiftedQuotient, Nat.le_div_iff_mul_le (by positivity), mul_assoc]
  calc 16 * (n * 16 ^ (k + j') / (m * 16 ^ (j + j')) * (m * 16 ^ (j + j')))
      ≤ 16 * (n * 16 ^ (k + j')) := Nat.mul_le_mul_left _ (Nat.div_mul_le_self _ _)
    _ = n * 16 ^ (k + j' + 1) := by ring
    _ ≤ n * 16 ^ (k' + j) := Nat.mul_le_mul_left _ (Nat.pow_le_pow_right (by omega) h)

theorem Normalized.ne_zero {f : Nat} (h : Normalized digits f) : f ≠ 0 :=
  Nat.ne_of_gt (lt_of_lt_of_le (by positivity) h.1)

/-- A digit more than a normalized fraction does not fit. -/
theorem Normalized.not_digit_more {f f' : Nat} (h : Normalized digits f) (h' : Normalized digits f') :
    ¬ 16 * f ≤ f' := by
  obtain ⟨hlead, -⟩ := h
  obtain ⟨-, hfits⟩ := h'
  have hpow : 16 ^ digits ≤ 16 * 16 ^ (digits - 1) := by
    rw [← pow_succ']
    exact Nat.pow_le_pow_right (by omega) (by omega)
  omega

/-- The last `n` digits of a normalized fraction dropped. -/
theorem Normalized.div_pow {f : Nat} (hpos : 0 < digits) (h : Normalized (digits + n) f) :
    Normalized digits (f / 16 ^ n) := by
  obtain ⟨hlead, hfits⟩ := h
  have hplaces : digits + n - 1 = digits - 1 + n := by omega
  rw [hplaces, pow_add] at hlead
  rw [pow_add] at hfits
  exact ⟨(Nat.le_div_iff_mul_le (by positivity)).2 hlead, (Nat.div_lt_iff_lt_mul (by positivity)).2 hfits⟩

/-- The product of normalized fractions has at most one leading zero (R347). -/
theorem Normalized.mul {f f' : Nat} (hpos : 0 < digits) (h : Normalized digits f) (h' : Normalized digits f') :
    Normalized (digits + digits) (if f * f' < 16 ^ (2 * digits - 1) then f * f' * 16 else f * f') := by
  obtain ⟨hlead, hfits⟩ := h
  obtain ⟨hlead', hfits'⟩ := h'
  have hlow := Nat.mul_le_mul hlead hlead'
  have hhigh := Nat.mul_lt_mul'' hfits hfits'
  have hone : 16 ^ (2 * digits - 1) = 16 ^ (digits - 1) * 16 ^ (digits - 1) * 16 := by
    rw [← pow_add, ← pow_succ]; congr 1; omega
  have hall : 16 ^ digits * 16 ^ digits = 16 ^ (2 * digits - 1) * 16 := by
    rw [← pow_add, ← pow_succ]; congr 1; omega
  have hlast : digits + digits - 1 = 2 * digits - 1 := by omega
  rw [Normalized, hlast, pow_add]
  split <;> constructor <;> omega

/-- The quotient of normalized fractions, by one place fewer if the dividend is not the smaller (R348). -/
theorem Normalized.div {f f' : Nat} (hpos : 0 < digits) (h : Normalized digits f) (h' : Normalized digits f') :
    Normalized digits (if f' ≤ f then f * 16 ^ (digits - 1) / f' else f * 16 ^ digits / f') := by
  obtain ⟨hlead, hfits⟩ := h
  obtain ⟨hlead', hfits'⟩ := h'
  have hpow : 16 ^ digits = 16 ^ (digits - 1) * 16 := by rw [← pow_succ, Nat.sub_add_cancel hpos]
  have hf' : 0 < f' := lt_of_lt_of_le (by positivity) hlead'
  split
  · next hle =>
    refine ⟨(Nat.le_div_iff_mul_le hf').2 ?_, (Nat.div_lt_iff_lt_mul hf').2 ?_⟩
    · rw [mul_comm]
      exact Nat.mul_le_mul_right _ hle
    · calc f * 16 ^ (digits - 1) < 16 ^ digits * 16 ^ (digits - 1) := Nat.mul_lt_mul_of_pos_right hfits (by positivity)
        _ ≤ 16 ^ digits * f' := Nat.mul_le_mul_left _ hlead'
  · next hlt =>
    refine ⟨(Nat.le_div_iff_mul_le hf').2 ?_, (Nat.div_lt_iff_lt_mul hf').2 ?_⟩
    · calc 16 ^ (digits - 1) * f' ≤ 16 ^ (digits - 1) * 16 ^ digits := Nat.mul_le_mul_left _ hfits'.le
        _ ≤ f * 16 ^ digits := Nat.mul_le_mul_right _ hlead
    · rw [mul_comm]
      exact Nat.mul_lt_mul_of_pos_left (not_le.1 hlt) (by positivity)

/-- The shift that normalizes is unique. -/
theorem shift_unique (hm : 0 < m) (h : Normalized digits (shiftedQuotient n m k j))
    (h' : Normalized digits (shiftedQuotient n m k' j')) : k + j' = k' + j := by
  rcases Nat.lt_trichotomy (k + j') (k' + j) with hlt | heq | hgt
  · exact absurd (mul_shiftedQuotient_le hlt hm) (h.not_digit_more h')
  · exact heq
  · exact absurd (mul_shiftedQuotient_le hgt hm) (h'.not_digit_more h)

end Digits

/-- The left shifts stop at a normalized fraction if there are enough of them (R346, R347). -/
theorem normalizeSteps_eq {digits : Nat} (hpos : 0 < digits) (n : Nat) : ∀ (x : FloatNum) (i : Nat),
    16 ^ (digits - 1) ≤ x.fr * 16 ^ n → x.fr < 16 ^ digits → ∃ k, Normalized digits (x.fr * 16 ^ k) ∧
      normalizeSteps digits n (x, i) = ({ neg := x.neg, ch := x.ch - k, fr := x.fr * 16 ^ k }, i + k) := by
  induction n with
  | zero =>
    intro x i hlead hfits
    exact ⟨0, ⟨hlead, by simpa using hfits⟩, by simp [normalizeSteps]⟩
  | succ n ih =>
    intro x i hlead hfits
    by_cases hsmall : x.fr < 16 ^ (digits - 1)
    · have hpow : 16 ^ digits = 16 ^ (digits - 1) * 16 := by rw [← pow_succ, Nat.sub_add_cancel hpos]
      have hplace (k : Nat) : x.fr * 16 * 16 ^ k = x.fr * 16 ^ (k + 1) := by ring
      obtain ⟨k, hnorm, hrun⟩ := ih { x with fr := x.fr * 16, ch := x.ch - 1 } (i + 1) (by simpa only [hplace])
        (by simp only [hpow]; omega)
      refine ⟨k + 1, by simpa only [hplace] using hnorm, ?_⟩
      rw [normalizeSteps, if_pos hsmall, hrun, hplace]
      simp only [Prod.mk.injEq, FloatNum.mk.injEq, true_and, and_true]
      omega
    · exact ⟨0, by simpa [Normalized] using ⟨not_lt.1 hsmall, hfits⟩, by simp [normalizeSteps, hsmall]⟩

/-- A nonzero fraction is normalized by as many steps as it has digits. -/
theorem normalizeSteps_of_ne_zero {digits : Nat} (hpos : 0 < digits) {x : FloatNum} (hne : x.fr ≠ 0)
    (hfits : x.fr < 16 ^ digits) : ∃ k, Normalized digits (x.fr * 16 ^ k) ∧
      normalizeSteps digits digits (x, 0) = ({ neg := x.neg, ch := x.ch - k, fr := x.fr * 16 ^ k }, k) := by
  have hlead : 16 ^ (digits - 1) ≤ x.fr * 16 ^ digits :=
    (Nat.pow_le_pow_right (by omega) (Nat.sub_le _ _)).trans (Nat.le_mul_of_pos_left _ (Nat.pos_of_ne_zero hne))
  simpa using normalizeSteps_eq hpos digits x 0 hlead hfits

/-! ### Numbers taken apart and put together (43 R344) -/

theorem natAbs_toInt {w : Nat} (v : BitVec w) : v.toInt.natAbs = (absolute v).toNat := by
  cases hv : v.msb
  · simp [absolute, hv, BitVec.toInt_eq_toNat_of_msb hv]
  · rw [BitVec.toInt_eq_neg_toNat_neg_of_msb_true hv, Int.natAbs_neg, Int.natAbs_natCast, absolute, if_pos hv]

theorem unpack_eq {w : Nat} (d : Nat) (v : BitVec w) :
    unpack d v = { neg := decide (v.toInt < 0), ch := characteristicOf d v, fr := fractionOf d v } := by
  rw [characteristicOf, fractionOf, natAbs_toInt, decide_neg]
  rfl

theorem pack_eq {w d : Nat} {neg : Bool} {c : Int} {f : Nat} (hc : 0 ≤ c) :
    pack w d { neg := neg, ch := c, fr := f } = floatOf w d neg c f := by
  obtain ⟨n, rfl⟩ := Int.eq_ofNat_of_zero_le hc
  have hmagnitude : (n : Int) * 16 ^ d + f = ((n * 16 ^ d + f : Nat) : Int) := by push_cast; rfl
  cases neg <;> simp [pack, floatOf, hmagnitude, BitVec.ofInt_neg, -Nat.cast_add, -Int.natCast_add]

theorem fractionOf_lt {w : Nat} (d : Nat) (v : BitVec w) : fractionOf d v < 16 ^ d := Nat.mod_lt _ (by positivity)

/-! ### How a floating-point instruction ends (43 R343, R349; 60 R658) -/

/-- The outcome `o` is the end `e` of the model's computation: a value put away, or the fault. -/
def EndsAs {w : Nat} (s : State) (o : Result) (put : BitVec w → Vector Word 64) : FloatEnd w → Prop
  | .value v cc => FloatCompletes s o put v cc
  | .trap cc => FloatFaults s o cc

theorem endsAs_floatFinish {w : Nat} {s : State} {put : BitVec w → State → State}
    {regs : BitVec w → Vector Word 64}
    (hput : ∀ v, put v s = { s with regs := regs v }) (e : FloatEnd w) :
    EndsAs s (run (floatFinish put e) s) regs e := by
  cases e with
  | value v cc =>
    have hrun : run (floatFinish put (.value v cc)) s = .next (advance (setCC cc (put v s))) := rfl
    rw [hrun, hput]
    rfl
  | trap cc => rfl

theorem endsAs_word (s : State) (r : BitVec 4) (e : FloatEnd 32) :
    EndsAs s (run (floatFinish (setReg r) e) s) (oneReg s r) e := endsAs_floatFinish (fun _ => rfl) e

theorem endsAs_pair (s : State) (r : BitVec 4) (e : FloatEnd 64) :
    EndsAs s (run (floatFinish (setRegPair r) e) s) (fun v => pairRegs s r (hiWord v) (loWord v)) e :=
  endsAs_floatFinish (fun _ => rfl) e

section Ends

variable {w d : Nat} {s : State} {o : Result} {put : BitVec w → Vector Word 64}

/-! ### Sums (43 R345, R346) -/

section Finish

variable {g m k : Nat} {p : Psd} {neg : Bool} {c : Int}

theorem floatAddFinish_overflow (hc : 127 < c) :
    floatAddFinish w d g p { neg := neg, ch := c, fr := m } = .trap (signedCC false true neg) := if_pos hc

/-- With FN = 1 the guard digit is dropped. -/
theorem floatAddFinish_unnormalized (hc : 0 ≤ c) (hc' : c ≤ 127) (hfn : p.fn = true) :
    floatAddFinish w d g p { neg := neg, ch := c, fr := m } =
      if m / 16 ^ g = 0 then .value 0 0b0000#4
      else .value (floatOf w d neg c (m / 16 ^ g)) (signedCC false false neg) := by
  rw [floatAddFinish, if_neg (not_lt.2 hc'), if_pos hfn, ← pack_eq hc]
  rfl

theorem floatAddFinish_zero (hc : c ≤ 127) (hfn : p.fn = false) :
    floatAddFinish w d g p { neg := neg, ch := c, fr := 0 } = if p.fs then .trap 0b1000#4 else .value 0 0b1000#4 := by
  rw [floatAddFinish, if_neg (not_lt.2 hc), hfn]
  rfl

/-- With FN = 0 a nonzero sum that `k` shifts have normalized. -/
theorem floatAddFinish_normalized (hpos : 0 < d + g) (hc : c ≤ 127) (hfn : p.fn = false)
    (hnorm : Normalized (d + g) (m * 16 ^ k)) :
    floatAddFinish w d g p { neg := neg, ch := c, fr := m } =
      if c < k ∧ p.fz = true then .trap (signedCC true true neg)
      else if 2 < k ∧ p.fs = true then .trap (signedCC true false neg)
      else if c < k then .value 0 0b1100#4
      else .value (floatOf w d neg (c - k) (m * 16 ^ k / 16 ^ g)) (signedCC (decide (2 < k)) false neg) := by
  have hne : m ≠ 0 := left_ne_zero_of_mul hnorm.ne_zero
  have hfits : m < 16 ^ (d + g) := (Nat.le_mul_of_pos_right m (by positivity)).trans_lt hnorm.2
  obtain ⟨k', hnorm', hrun⟩ := normalizeSteps_of_ne_zero (x := ⟨neg, c, m⟩) hpos hne hfits
  obtain rfl : k' = k := by
    rw [← shiftedQuotient_left] at hnorm hnorm'
    exact shift_unique Nat.one_pos hnorm' hnorm
  have hunder : c - k' < 0 ↔ c < k' := by omega
  simp only [floatAddFinish, if_neg (not_lt.2 hc), hfn, Bool.false_eq_true, if_false, if_neg hne, hrun, hunder,
    Bool.and_eq_true, decide_eq_true_eq]
  by_cases hlt : c < k'
  · simp only [if_pos hlt]
    rfl
  · simp only [if_neg hlt, pack_eq (not_lt.1 (mt hunder.1 hlt))]
    rfl

end Finish

theorem sumEnds_of_finish {g c m : Nat} {neg : Bool} (hpos : 0 < d + g)
    (h : EndsAs s o put (floatAddFinish w d g s.psd { neg := neg, ch := c, fr := m })) :
    SumEnds d g s o put neg c m := by
  refine ⟨fun hc => ?overflow, fun hc hfn => ?unnormalized, fun hc hfn hm => ?zero,
    fun hc hfn k hlead hfits => ?normalized⟩
  case overflow => rwa [floatAddFinish_overflow (by omega)] at h
  case unnormalized =>
    rw [floatAddFinish_unnormalized (by omega) (by omega) hfn] at h
    exact ⟨fun hzero => by rwa [if_pos hzero] at h, fun hne => by rwa [if_neg hne] at h⟩
  case zero =>
    subst hm
    rw [floatAddFinish_zero (by omega) hfn] at h
    exact ⟨fun hfs => by rwa [if_pos hfs] at h, fun hfs => by rwa [hfs] at h⟩
  case normalized =>
    rw [floatAddFinish_normalized hpos (by omega) hfn ⟨hlead, hfits⟩] at h
    simp only [Nat.cast_lt] at h
    refine ⟨fun hunder hfz => ?_, fun hsignif hfs hfz => ?_, fun hunder hfz hfs => ?_, fun hk hfs => ?_⟩
    · rwa [if_pos ⟨hunder, hfz⟩] at h
    · rwa [if_neg (by simpa using hfz), if_pos ⟨hsignif, hfs⟩] at h
    · rwa [if_neg (by simp [hfz]), if_neg (by simpa using hfs), if_pos hunder] at h
    · rwa [if_neg (by simp [not_lt.2 hk]), if_neg (by simpa using hfs), if_neg (not_lt.2 hk)] at h

/-- The sum of two aligned fractions, shifted right on a carry (R345). -/
def carried (d g c : Nat) (sum : Int) : FloatNum :=
  if 16 ^ (d + g) ≤ sum.natAbs then { neg := decide (sum < 0), ch := (c : Int) + 1, fr := sum.natAbs / 16 }
  else { neg := decide (sum < 0), ch := c, fr := sum.natAbs }

/-- Of two numbers that of the smaller characteristic loses the digits by which the characteristics differ (R345). -/
theorem floatSum_eq {g ca cb fa fb c x y : Nat} {na nb : Bool} (hc : c = max ca cb)
    (hx : x = fa * 16 ^ g / 16 ^ (c - ca)) (hy : y = fb * 16 ^ g / 16 ^ (c - cb)) :
    floatSum d g { neg := na, ch := ca, fr := fa } { neg := nb, ch := cb, fr := fb } =
      carried d g c ((if na then -(x : Int) else x) + (if nb then -(y : Int) else y)) := by
  have haligned (f : Nat) : f / 16 ^ (0 : Nat) = f := by simp
  by_cases h : cb ≤ ca
  · obtain rfl : c = ca := by omega
    rw [Nat.sub_self, haligned] at hx
    simp only [floatSum, Nat.cast_le, h, if_true, Int.toNat_sub, ← hx, ← hy]
    rfl
  · obtain rfl : c = cb := by omega
    rw [Nat.sub_self, haligned] at hy
    simp only [floatSum, Nat.cast_le, h, if_false, Int.toNat_sub, ← hx, ← hy]
    rfl

theorem additionEnds_of_floatAdd {g : Nat} {a b : BitVec w} (hpos : 0 < d + g)
    (h : EndsAs s o put (floatAdd d g s.psd a b)) : AdditionEnds d g s o put a b := by
  intro c x y sum hc hx hy hsum
  rw [floatAdd, unpack_eq, unpack_eq, floatSum_eq hc hx hy] at h
  simp only [decide_eq_true_eq, ← hsum] at h
  refine ⟨fun hfits => sumEnds_of_finish hpos ?_, fun hcarry => sumEnds_of_finish hpos ?_⟩
  · rwa [carried, if_neg (not_le.2 hfits)] at h
  · rwa [carried, if_pos hcarry] at h

/-! ### Products and quotients (43 R347-R349) -/

theorem scaledEnds_of_finish {neg : Bool} {c : Int} {f : Nat}
    (h : EndsAs s o put (floatMulDivFinish w d s.psd { neg := neg, ch := c, fr := f })) :
    ScaledEnds d s o put neg c f := by
  unfold floatMulDivFinish at h
  refine ⟨fun hover => ?_, fun hunder hfz => ?_, fun hunder hfz => ?_, fun hlow hhigh => ?_⟩
  · rwa [if_pos hover] at h
  · rwa [if_neg (by simp; omega), if_pos hunder, if_pos hfz] at h
  · rwa [if_neg (by simp; omega), if_pos hunder, hfz] at h
  · rwa [if_neg (not_lt.2 hhigh), if_neg (not_lt.2 hlow), pack_eq hlow] at h

/-- A nonzero fraction prenormalized (R347). -/
theorem prenormalize_unpack (hpos : 0 < d) {v : BitVec w} (hne : fractionOf d v ≠ 0) :
    ∃ k : Nat, Normalized d (fractionOf d v * 16 ^ k) ∧ prenormalize d (unpack d v) =
      { neg := decide (v.toInt < 0), ch := characteristicOf d v - k, fr := fractionOf d v * 16 ^ k } := by
  rw [unpack_eq]
  obtain ⟨k, hnorm, hrun⟩ := normalizeSteps_of_ne_zero hpos
    (x := { neg := decide (v.toInt < 0), ch := characteristicOf d v, fr := _ }) hne (fractionOf_lt d v)
  exact ⟨k, hnorm, congrArg Prod.fst hrun⟩

theorem fr_unpack (v : BitVec w) : (unpack d v).fr = fractionOf d v := by rw [unpack_eq]

/-- The model's product: its digits are the leading ones of the product of the fractions. -/
theorem floatMul_eq (hpos : 0 < d) {p : Psd} {a b : BitVec w} (ha : fractionOf d a ≠ 0) (hb : fractionOf d b ≠ 0) :
    ∃ k : Nat, Normalized d (shiftedQuotient (fractionOf d a * fractionOf d b) 1 k d) ∧
      floatMul d p a b = floatMulDivFinish w d p
        { neg := decide (a.toInt < 0) != decide (b.toInt < 0)
          ch := characteristicOf d a + characteristicOf d b - 64 - k
          fr := shiftedQuotient (fractionOf d a * fractionOf d b) 1 k d } := by
  obtain ⟨i, hi, hra⟩ := prenormalize_unpack hpos ha
  obtain ⟨j, hj, hrb⟩ := prenormalize_unpack hpos hb
  have hproduct : fractionOf d a * 16 ^ i * (fractionOf d b * 16 ^ j) =
      fractionOf d a * fractionOf d b * 16 ^ (i + j) := by ring
  have hdigits := (hi.mul hpos hj).div_pow hpos
  simp only [floatMul, fr_unpack, ha, hb, or_self, if_false, hra, hrb]
  split at hdigits
  · next hsmall =>
    refine ⟨i + j + 1, ?_, ?_⟩
    · rwa [hproduct, mul_assoc, ← pow_succ, ← shiftedQuotient_whole] at hdigits
    · rw [if_pos hsmall, hproduct, mul_assoc _ _ 16, ← pow_succ, ← shiftedQuotient_whole]
      congr 2
      push_cast
      ring
  · next hlarge =>
    refine ⟨i + j, ?_, ?_⟩
    · rwa [hproduct, ← shiftedQuotient_whole] at hdigits
    · rw [if_neg hlarge, hproduct, ← shiftedQuotient_whole]
      congr 2
      push_cast
      ring

/-- The model's quotient: its digits are the leading ones of the quotient of the fractions. -/
theorem floatDiv_eq (hpos : 0 < d) {p : Psd} {a b : BitVec w} (ha : fractionOf d a ≠ 0) (hb : fractionOf d b ≠ 0) :
    ∃ k j : Nat, Normalized d (shiftedQuotient (fractionOf d a) (fractionOf d b) k j) ∧
      floatDiv d p a b = floatMulDivFinish w d p
        { neg := decide (a.toInt < 0) != decide (b.toInt < 0)
          ch := characteristicOf d a - characteristicOf d b + 64 + d - k + j
          fr := shiftedQuotient (fractionOf d a) (fractionOf d b) k j } := by
  obtain ⟨i, hi, hra⟩ := prenormalize_unpack hpos ha
  obtain ⟨j, hj, hrb⟩ := prenormalize_unpack hpos hb
  have hquotient (n : Nat) : fractionOf d a * 16 ^ i * 16 ^ n / (fractionOf d b * 16 ^ j) =
      shiftedQuotient (fractionOf d a) (fractionOf d b) (i + n) j := by
    rw [shiftedQuotient, pow_add, mul_assoc]
  have hdigits := hi.div hpos hj
  simp only [floatDiv, fr_unpack, ha, hb, if_false, hra, hrb, hquotient] at hdigits ⊢
  split at hdigits
  · next hcarry =>
    refine ⟨i + (d - 1), j, hdigits, ?_⟩
    rw [if_pos hcarry]
    congr 2
    omega
  · next hsmaller =>
    refine ⟨i + d, j, hdigits, ?_⟩
    rw [if_neg hsmaller]
    congr 2
    omega

theorem floatMul_zero {p : Psd} {a b : BitVec w} (h : fractionOf d a = 0 ∨ fractionOf d b = 0) :
    floatMul d p a b = .value 0 0b0000#4 := by
  rw [floatMul, unpack_eq, unpack_eq]
  exact if_pos h

theorem floatDiv_zero_divisor {p : Psd} {a b : BitVec w} (h : fractionOf d b = 0) :
    floatDiv d p a b = .trap 0b0100#4 := by
  rw [floatDiv, unpack_eq, unpack_eq]
  exact if_pos h

theorem floatDiv_zero_dividend {p : Psd} {a b : BitVec w} (hb : fractionOf d b ≠ 0) (ha : fractionOf d a = 0) :
    floatDiv d p a b = .value 0 0b0000#4 := by
  rw [floatDiv, unpack_eq, unpack_eq]
  exact (if_neg hb).trans (if_pos ha)

theorem productEnds_of_floatMul (hpos : 0 < d) {a b : BitVec w} (h : EndsAs s o put (floatMul d s.psd a b)) :
    ProductEnds d s o put a b := by
  refine ⟨fun hzero => by rwa [floatMul_zero hzero] at h, ?_⟩
  rintro p e left f rfl hf hlead hfits
  have hnormal : Normalized d f := ⟨hlead, hfits⟩
  obtain ⟨ha, hb⟩ : fractionOf d a ≠ 0 ∧ fractionOf d b ≠ 0 :=
    not_or.1 fun hzero => hnormal.ne_zero (by rw [hf, mul_eq_zero.2 hzero]; simp)
  obtain ⟨i, j, hdigits, hplaces⟩ : ∃ i j : Nat, f = shiftedQuotient (fractionOf d a * fractionOf d b) 1 i j ∧
      (if left then -(e : Int) else e) = j - i := by
    cases left
    · exact ⟨0, e, by rw [hf, shiftedQuotient_right]; rfl, by simp⟩
    · exact ⟨e, 0, by rw [hf, shiftedQuotient_left]; rfl, by simp⟩
  obtain ⟨k, hnorm, hrun⟩ := floatMul_eq (p := s.psd) hpos ha hb
  have hshift : k + j = i + d := shift_unique Nat.one_pos hnorm (hdigits ▸ hnormal)
  rw [hrun, shiftedQuotient_congr hshift, ← hdigits] at h
  apply scaledEnds_of_finish
  rw [hplaces]
  convert h using 3
  omega

theorem quotientEnds_of_floatDiv (hpos : 0 < d) {a b : BitVec w} (h : EndsAs s o put (floatDiv d s.psd a b)) :
    QuotientEnds d s o put a b := by
  refine ⟨fun hb => by rwa [floatDiv_zero_divisor hb] at h,
    fun hb ha => by rwa [floatDiv_zero_dividend hb ha] at h, fun k f hb hf hlead hfits => ?_⟩
  have hnormal : Normalized d f := ⟨hlead, hfits⟩
  have ha : fractionOf d a ≠ 0 := fun hzero => hnormal.ne_zero (by simp [hf, hzero])
  have hdigits : f = shiftedQuotient (fractionOf d a) (fractionOf d b) k 0 := by
    rw [hf, shiftedQuotient, pow_zero, mul_one]
  obtain ⟨k', j, hnorm, hrun⟩ := floatDiv_eq (p := s.psd) hpos ha hb
  have hshift : k' + 0 = k + j := shift_unique (Nat.pos_of_ne_zero hb) hnorm (hdigits ▸ hnormal)
  rw [hrun, shiftedQuotient_congr hshift, ← hdigits] at h
  apply scaledEnds_of_finish
  convert h using 3
  omega

end Ends

/-! ### The eight instructions (43 R350-R357) -/

section Instructions

variable {s : State} {m : MR} {b : Word} {y : Dword}

/-- A short operation on register R and the memory operand. -/
theorem endsAs_short (hop : operandWord s m = .ok b) (f : State → Word → FloatEnd 32) :
    EndsAs s (run (do
      let w ← need (operandWord · m)
      let e ← look (fun s => f s w)
      floatFinish (setReg m.r) e) s) (oneReg s m.r) (f s b) := by
  rw [run_need hop]
  exact endsAs_word s m.r (f s b)

/-- A long operation on registers R and Ru1 and the memory operand. -/
theorem endsAs_long (heven : oddR m.r = false) (hop : operandDword s m = .ok y) (f : State → Dword → FloatEnd 64) :
    EndsAs s (run (do
      requireEven m.r
      let d ← need (operandDword · m)
      let e ← look (fun s => f s d)
      floatFinish (setRegPair m.r) e) s) (fun v => pairRegs s m.r (hiWord v) (loWord v)) (f s y) := by
  rw [run_requireEven heven, run_need hop]
  exact endsAs_pair s m.r (f s y)

end Instructions

/-- Settles O39: each instruction ends as the model's sum, product or quotient of its operands. -/
theorem floatingArithmetic : Obligations.FloatingArithmetic := by
  refine ⟨?short, ?long, fun s m hodd => ?odd⟩
  case short =>
    rintro s m a b hop rfl
    exact ⟨additionEnds_of_floatAdd (by omega) (endsAs_short hop fun s w => floatAdd 6 1 s.psd (getReg s m.r) w),
      additionEnds_of_floatAdd (by omega) (endsAs_short hop fun s w => floatAdd 6 1 s.psd (getReg s m.r) (-w)),
      productEnds_of_floatMul (by omega) (endsAs_short hop fun s w => floatMul 6 s.psd (getReg s m.r) w),
      quotientEnds_of_floatDiv (by omega) (endsAs_short hop fun s w => floatDiv 6 s.psd (getReg s m.r) w)⟩
  case long =>
    rintro s m a b put heven hop rfl rfl
    rw [← getRegPair_even heven]
    exact ⟨additionEnds_of_floatAdd (by omega)
        (endsAs_long heven hop fun s d => floatAdd 14 0 s.psd (getRegPair s m.r) d),
      additionEnds_of_floatAdd (by omega)
        (endsAs_long heven hop fun s d => floatAdd 14 0 s.psd (getRegPair s m.r) (-d)),
      productEnds_of_floatMul (by omega) (endsAs_long heven hop fun s d => floatMul 14 s.psd (getRegPair s m.r) d),
      quotientEnds_of_floatDiv (by omega) (endsAs_long heven hop fun s d => floatDiv 14 s.psd (getRegPair s m.r) d)⟩
  case odd =>
    simp only [List.forall_mem_cons, List.not_mem_nil, false_implies, implies_true, and_true]
    exact ⟨run_requireEven_odd hodd _ s, run_requireEven_odd hodd _ s, run_requireEven_odd hodd _ s,
      run_requireEven_odd hodd _ s⟩

end Sys2Proof.Proofs

namespace Sys2Proof.Proofs

open Sys2Proof Sys2Proof.Machine Sys2Proof.Laws

/-! ### Decimal digits as nibbles (44_decimal R386, R389) -/

theorem toDigits_lt (n m : Nat) : toDigits n m < 16 ^ n := by
  induction n generalizing m with
  | zero => exact Nat.one_pos
  | succ n ih =>
    have hrest := ih (m / 10)
    rw [toDigits, pow_succ]
    omega

theorem allDigits_toDigits (n m : Nat) : allDigits n (toDigits n m) = true := by
  induction n generalizing m with
  | zero => rfl
  | succ n ih =>
    have hlow : toDigits (n + 1) m % 16 < 10 := by rw [toDigits]; omega
    have hrest : toDigits (n + 1) m / 16 = toDigits n (m / 10) := by rw [toDigits]; omega
    rw [allDigits, hrest, ih, decide_eq_true hlow, Bool.and_true]

theorem digitValue_toDigits (n m : Nat) : digitValue n (toDigits n m) = m % 10 ^ n := by
  induction n generalizing m with
  | zero => exact (Nat.mod_one m).symm
  | succ n ih =>
    have hlow : toDigits (n + 1) m % 16 = m % 10 := by rw [toDigits]; omega
    have hrest : toDigits (n + 1) m / 16 = toDigits n (m / 10) := by rw [toDigits]; omega
    rw [digitValue, hlow, hrest, ih, pow_succ', Nat.mod_mul]

theorem toDigits_zero (n : Nat) : toDigits n 0 = 0 := by
  induction n with
  | zero => rfl
  | succ n ih => rw [toDigits, Nat.zero_div, ih]

/-- The low digits of a number are all its digits when the others are taken away. -/
theorem toDigits_mod {k n : Nat} (h : k ≤ n) (m : Nat) : toDigits n (m % 10 ^ k) = toDigits k m := by
  induction k generalizing n m with
  | zero => rw [pow_zero, Nat.mod_one, toDigits_zero, toDigits]
  | succ k ih =>
    obtain ⟨n, rfl⟩ : ∃ i, n = i + 1 := ⟨n - 1, by omega⟩
    rw [toDigits, toDigits, Nat.mod_mod_of_dvd _ (dvd_pow_self 10 k.succ_ne_zero), pow_succ',
      Nat.mod_mul_right_div_self, ih (by omega)]

/-- A number of `k` digit codes is below `10 ^ k`, however many nibbles are looked at. -/
theorem digitValue_lt {k n v : Nat} (h : allDigits n v = true) (hv : v < 16 ^ k) : digitValue n v < 10 ^ k := by
  induction n generalizing k v with
  | zero => exact Nat.pow_pos (by omega)
  | succ n ih =>
    obtain ⟨hlow, hrest⟩ : v % 16 < 10 ∧ allDigits n (v / 16) = true := by simpa [allDigits] using h
    rw [digitValue]
    cases k with
    | zero =>
      have hzero : v / 16 < 16 ^ 0 := by omega
      have := ih hrest hzero
      omega
    | succ k =>
      rw [pow_succ] at hv ⊢
      have := ih hrest (by omega : v / 16 < 16 ^ k)
      omega

theorem digitValue_lt_pow {n v : Nat} (h : allDigits n v = true) : digitValue n v < 10 ^ n := by
  induction n generalizing v with
  | zero => exact Nat.one_pos
  | succ n ih =>
    obtain ⟨hlow, hrest⟩ : v % 16 < 10 ∧ allDigits n (v / 16) = true := by simpa [allDigits] using h
    have := ih hrest
    rw [digitValue, pow_succ]
    omega

/-! ### Packed numbers taken apart and put together (44_decimal R383, R386, R389) -/

theorem legalPacked_iff {v : Nat} : legalPacked v = true ↔ 10 ≤ v % 16 ∧ allDigits 31 (v / 16) = true := by
  simp [legalPacked]

/-- A legal number has a sign code (R386). -/
theorem anySign_of_legalPacked {v : Nat} (h : legalPacked v = true) : anySign 32 v = true := by
  rw [anySign, decide_eq_true (legalPacked_iff.1 h).1, Bool.true_or]

/-- `n` bytes are a sign and `2 n - 1` digits. -/
theorem bytes_eq_nibbles {n : Nat} (hn : 1 ≤ n) : 256 ^ n = 16 * 16 ^ (2 * n - 1) := by
  rw [← pow_succ', show (256 : Nat) = 16 ^ 2 from rfl, ← pow_mul]
  congr 1
  omega

/-- A legal number of `n` bytes has `2 n - 1` digits. -/
theorem packedMag_lt {v n : Nat} (h : legalPacked v = true) (hn : 1 ≤ n) (hv : v < 256 ^ n) :
    packedMag v < 10 ^ (2 * n - 1) := by
  refine digitValue_lt (legalPacked_iff.1 h).2 ?_
  have hpow := bytes_eq_nibbles hn
  omega

theorem packedMag_lt_pow {v : Nat} (h : legalPacked v = true) : packedMag v < 10 ^ 31 :=
  digitValue_lt_pow (legalPacked_iff.1 h).2

theorem signCode_bounds (ansi neg : Bool) : 10 ≤ signCode ansi neg ∧ signCode ansi neg < 16 := by
  cases ansi <;> cases neg <;> decide

theorem makeDec_mod (ansi neg : Bool) (mag n : Nat) : makeDec ansi neg mag n % 16 = signCode ansi neg := by
  have := signCode_bounds ansi neg
  unfold makeDec
  omega

theorem makeDec_div (ansi neg : Bool) (mag n : Nat) : makeDec ansi neg mag n / 16 = toDigits (2 * n - 1) mag := by
  have := signCode_bounds ansi neg
  unfold makeDec
  omega

theorem makeDec_lt (ansi neg : Bool) (mag : Nat) {n : Nat} (hn : 1 ≤ n) : makeDec ansi neg mag n < 256 ^ n := by
  have hdigits := toDigits_lt (2 * n - 1) mag
  have hsign := signCode_bounds ansi neg
  have hpow := bytes_eq_nibbles hn
  unfold makeDec
  omega

/-- `MakeDec` of `n` bytes is the legal number of the sign and the low `2 n - 1` digits (R389). -/
theorem isDecimal_makeDec (s : State) (neg : Bool) (mag : Nat) {n : Nat} (hn : n ≤ 16) :
    IsDecimal s (makeDec s.psd.ansi neg mag n) neg (mag % 10 ^ (2 * n - 1)) := by
  have hdigits : makeDec s.psd.ansi neg mag n / 16 = toDigits 31 (mag % 10 ^ (2 * n - 1)) := by
    rw [makeDec_div, toDigits_mod (by omega)]
  have hle : 10 ^ (2 * n - 1) ≤ 10 ^ 31 := Nat.pow_le_pow_right (by omega) (by omega)
  have hmod : mag % 10 ^ (2 * n - 1) < 10 ^ (2 * n - 1) := Nat.mod_lt _ (by positivity)
  refine ⟨legalPacked_iff.2 ⟨?_, ?_⟩, ?_, makeDec_mod _ _ _ _⟩
  · rw [makeDec_mod]
    exact (signCode_bounds _ _).1
  · rw [hdigits, allDigits_toDigits]
  · rw [packedMag, hdigits, digitValue_toDigits, Nat.mod_eq_of_lt (hmod.trans_le hle)]

/-- The same of a number that fits. -/
theorem isDecimal_makeDec_of_lt (s : State) (neg : Bool) {mag n : Nat} (hn : n ≤ 16) (h : mag < 10 ^ (2 * n - 1)) :
    IsDecimal s (makeDec s.psd.ansi neg mag n) neg mag := by
  have := isDecimal_makeDec s neg mag hn
  rwa [Nat.mod_eq_of_lt h] at this

/-! ### Signs of decimal numbers (44_decimal R388, R389) -/

/-- The number of a sign and a magnitude. -/
def signedInt (neg : Bool) (mag : Nat) : Int := if neg then -(mag : Int) else mag

theorem packedInt_eq (v : Nat) : packedInt v = signedInt (packedNeg v) (packedMag v) := rfl

@[simp] theorem natAbs_signedInt (neg : Bool) (mag : Nat) : (signedInt neg mag).natAbs = mag := by
  cases neg <;> simp [signedInt]

theorem decide_signedInt_neg (neg : Bool) (mag : Nat) :
    decide (signedInt neg mag < 0) = decide (mag ≠ 0 ∧ neg = true) := by
  rw [decide_eq_decide]
  cases neg <;> simp [signedInt]
  omega

theorem decide_signedInt_pos (neg : Bool) (mag : Nat) :
    decide (0 < signedInt neg mag) = decide (mag ≠ 0 ∧ neg = false) := by
  rw [decide_eq_decide]
  cases neg <;> simp [signedInt]
  omega

theorem decide_signedInt_neg_eq_and (neg : Bool) (mag : Nat) : decide (signedInt neg mag < 0) = (neg && mag != 0) := by
  rw [decide_signedInt_neg, Bool.eq_iff_iff]
  simp [and_comm]

theorem decide_signedInt_pos_eq_and (neg : Bool) (mag : Nat) : decide (0 < signedInt neg mag) = (!neg && mag != 0) := by
  rw [decide_signedInt_pos, Bool.eq_iff_iff]
  simp [and_comm]

theorem signedInt_sign_natAbs (r : Int) : signedInt (decide (r < 0)) r.natAbs = r := by
  by_cases h : r < 0
  · rw [signedInt, decide_eq_true h, if_pos rfl]
    omega
  · rw [signedInt, decide_eq_false h, if_neg Bool.false_ne_true]
    omega

theorem signedInt_mul (p q : Bool) (a b : Nat) : signedInt p a * signedInt q b = signedInt (p != q) (a * b) := by
  cases p <;> cases q <;> simp [signedInt]

theorem signedInt_tdiv (p q : Bool) (a b : Nat) :
    (signedInt p a).tdiv (signedInt q b) = signedInt (p != q) (a / b) := by
  cases p <;> cases q <;> simp [signedInt]

/-- The condition code of a decimal result (R388). -/
theorem finishedCC_decimalCC (s : State) (regs : Vector Word 64) (c1 c2 neg : Bool) (mag : Nat) :
    finishedCC s regs (decimalCC c1 c2 neg mag) =
      finished s regs c1 c2 (decide (0 < signedInt neg mag)) (decide (signedInt neg mag < 0)) := by
  rw [decide_signedInt_neg_eq_and, decide_signedInt_pos_eq_and]
  unfold finishedCC decimalCC
  generalize (!neg && mag != 0) = c3
  generalize (neg && mag != 0) = c4
  cases c1 <;> cases c2 <;> cases c3 <;> cases c4 <;> rfl

end Sys2Proof.Proofs

namespace Sys2Proof.Proofs

open Sys2Proof Sys2Proof.Machine Sys2Proof.Laws

/-! ### Byte addresses within the addressing type (20_memory R104, D8) -/

theorem byteSpace_eq (s : State) : (if realExtended s then 2 ^ 24 else 2 ^ 19) = 4 * addressSpace s := by
  unfold addressSpace
  split <;> rfl

theorem bytePlus_toNat (s : State) (b : ByteAddr) (k : Nat) :
    (bytePlus s b k).toNat = (b.toNat + k) % (4 * addressSpace s) := by
  have hk : (b + BitVec.ofNat 24 k).toNat = (b.toNat + k) % (4 * 2 ^ 22) := by simp
  rw [bytePlus, wrapByte_toNat, byteSpace_eq, hk, Nat.mod_mod_of_dvd _ (mul_dvd_mul_left 4 (addressSpace_dvd s))]

/-- Successive bytes are counted from any of them. -/
theorem bytePlus_bytePlus (s : State) (b : ByteAddr) (j k : Nat) :
    bytePlus s (bytePlus s b j) k = bytePlus s b (j + k) := by
  apply BitVec.eq_of_toNat_eq
  simp only [bytePlus_toNat, Nat.mod_add_mod, Nat.add_assoc]

theorem bytePlus_congr {s t : State} (h : t.psd = s.psd) : bytePlus t = bytePlus s := by
  unfold bytePlus wrapByte realExtended
  rw [h]

theorem bytePlus_zero {s : State} {b : ByteAddr} (h : b.toNat < 4 * addressSpace s) : bytePlus s b 0 = b :=
  BitVec.eq_of_toNat_eq (by rw [bytePlus_toNat, Nat.add_zero, Nat.mod_eq_of_lt h])

theorem bytePlus_lt (s : State) (b : ByteAddr) (k : Nat) : (bytePlus s b k).toNat < 4 * addressSpace s := by
  rw [bytePlus_toNat]
  refine Nat.mod_lt _ ?_
  unfold addressSpace
  split <;> decide

theorem effAddr_lt {s : State} {m : MR} {align : Nat} {b : ByteAddr} (h : effAddr s m align = .ok b) :
    b.toNat < 4 * addressSpace s := by
  obtain ⟨ref, hlt, rfl⟩ := effAddr_cases h
  rw [indexed_toNat]
  exact (Nat.div_mul_le_self _ _).trans_lt (indexSum_lt m align hlt)

/-! ### Bytes read as a number (44_decimal R385, R400) -/

theorem locate_of_readByte {s : State} {b : ByteAddr} {x : Byte} (h : readByte s b = .ok x) :
    ∃ l, locate s (wordOf b) .read = .ok l := by
  unfold readByte at h
  split at h
  · rename_i w hw
    exact locate_of_readWord hw
  · cases h

/-- The first byte of a number is its most significant. -/
theorem numberOf_succ_first (x : Nat → Byte) (n : Nat) :
    numberOf x (n + 1) = (x 0).toNat * 256 ^ n + numberOf (fun k => x (k + 1)) n := by
  induction n with
  | zero => simp [numberOf]
  | succ n ih => rw [numberOf, ih, numberOf, pow_succ]; ring

theorem numberOf_lt (x : Nat → Byte) (n : Nat) : numberOf x n < 256 ^ n := by
  induction n with
  | zero => exact Nat.one_pos
  | succ n ih =>
    have hbyte := (x n).isLt
    rw [numberOf, pow_succ]
    omega

theorem readBytes_eq_ok {s : State} {b : ByteAddr} {n acc : Nat} {x : Nat → Byte} (hb : b.toNat < 4 * addressSpace s)
    (h : ∀ k, k < n → readByte s (bytePlus s b k) = .ok (x k)) :
    readBytes s b n acc = .ok (acc * 256 ^ n + numberOf x n) := by
  induction n generalizing b acc x with
  | zero => rw [readBytes, pow_zero, Nat.mul_one, numberOf, Nat.add_zero]
  | succ n ih =>
    have hfirst : readByte s b = .ok (x 0) := by
      rw [← h 0 (by omega), bytePlus_zero hb]
    have hrest := ih (acc := acc * 256 + (x 0).toNat) (x := fun k => x (k + 1)) (bytePlus_lt s b 1) fun k hk => by
      rw [bytePlus_bytePlus, Nat.add_comm 1 k]
      exact h (k + 1) (by omega)
    rw [readBytes, hfirst]
    refine hrest.trans (congrArg Except.ok ?_)
    rw [numberOf_succ_first, pow_succ]
    ring

/-- The low nibbles of zoned bytes (R400). -/
theorem packDigits_numberOf (x : Nat → Byte) (n : Nat) : packDigits n (numberOf x n) = lowNibbles x n := by
  induction n with
  | zero => rfl
  | succ n ih =>
    have hbyte := (x n).isLt
    have hlow : numberOf x (n + 1) % 16 = (x n).toNat % 16 := by rw [numberOf]; omega
    have hrest : numberOf x (n + 1) / 256 = numberOf x n := by rw [numberOf]; omega
    rw [packDigits, hlow, hrest, ih, lowNibbles, Nat.add_comm]

/-- The sign of a zoned number is the zone of its last byte (R400). -/
theorem packZoned_numberOf (x : Nat → Byte) {n : Nat} (hn : 1 ≤ n) :
    packZoned n (numberOf x n) = 16 * lowNibbles x n + (x (n - 1)).toNat / 16 := by
  obtain ⟨k, rfl⟩ : ∃ k, n = k + 1 := ⟨n - 1, by omega⟩
  have hbyte := (x k).isLt
  have hzone : numberOf x (k + 1) / 16 % 16 = (x k).toNat / 16 := by rw [numberOf]; omega
  rw [packZoned, packDigits_numberOf, hzone, Nat.add_sub_cancel]

/-! ### The operand of a decimal instruction (44_decimal R385, R389) -/

theorem decimalLength_pos (m : MR) : 1 ≤ decimalLength m := by
  unfold decimalLength
  split
  · omega
  · rename_i h
    exact Nat.pos_of_ne_zero fun e => h (BitVec.eq_of_toNat_eq e)

theorem decimalLength_le (m : MR) : decimalLength m ≤ 16 := by
  have := m.r.isLt
  unfold decimalLength
  split <;> omega

theorem decimalOperand_eq_ok {s : State} {m : MR} {n : Nat} {k : Access} {b : ByteAddr} {l0 l1 : Loc}
    (hd : HasDecimal s) (hb : effAddr s m alignByte = .ok b) (h0 : locate s (wordOf b) k = .ok l0)
    (h1 : locate s (wordOf (bytePlus s b (n - 1))) k = .ok l1) : decimalOperand m n k s = .ok b s := by
  obtain ⟨hmodel, hunit⟩ := hd
  have htest : testByteEnds b n k s = .ok () s :=
    (bind_ok (need_ok (testAccess_eq_ok h0)) _).trans (need_ok (testAccess_eq_ok h1))
  exact (bind_ok (requireDecimal_ok hmodel hunit) _).trans ((bind_ok (need_ok hb) _).trans (bind_ok htest _))

/-- An operand whose bytes can be read is the number of those bytes. -/
theorem operand_of_bytesRead {s : State} {m : MR} {n : Nat} {x : Nat → Byte} (hd : HasDecimal s)
    (h : BytesRead s m n x) (hn : 1 ≤ n) :
    ∃ b, decimalOperand m n .read s = .ok b s ∧ readBytes s b n 0 = .ok (numberOf x n) := by
  obtain ⟨b, hb, hread⟩ := h
  have hlt := effAddr_lt hb
  obtain ⟨l0, h0⟩ := locate_of_readByte (hread 0 hn)
  obtain ⟨l1, h1⟩ := locate_of_readByte (hread (n - 1) (by omega))
  rw [bytePlus_zero hlt] at h0
  have hnumber := readBytes_eq_ok (acc := 0) hlt hread
  rw [Nat.zero_mul, Nat.zero_add] at hnumber
  exact ⟨b, decimalOperand_eq_ok hd hb h0 h1, hnumber⟩

/-! ### How a decimal instruction ends (44_decimal R387-R389) -/

theorem decimalFaultTaken (s : State) (illegal : Bool) :
    DecimalFaultTaken s (run (decimalFault illegal) s) illegal := by
  have hrun : run (decimalFault illegal) s =
      run (if s.psd.dm then raise { loc := 0x45#8 } else done) (setCC12 illegal (!illegal) s) := rfl
  rw [hrun]
  constructor <;> intro h <;> rw [h] <;> rfl

/-- The accumulator and CC3 CC4 hold free values, CC1 and CC2 are reset (R394, R395, log 14). -/
def LeftOpen (s : State) (o : Result) : Prop :=
  ∃ d c3 c4, o = .next { finished s (decaRegs s d) false false c3 c4 with free := s.free + 2 }

/-- The outcome `o` is the end `e` of the model's computation. -/
def DecimalEndsAs (s : State) (o : Result) : DecimalEnd → Prop
  | .value d cc => o = .next (finishedCC s (decaRegs s d) cc)
  | .illegal => DecimalFaultTaken s o true
  | .overflow => DecimalFaultTaken s o false
  | .indeterminate => LeftOpen s o

theorem decimalEndsAs_finish (s : State) (e : DecimalEnd) : DecimalEndsAs s (run (decimalFinish e) s) e := by
  cases e with
  | value d cc => rfl
  | illegal => exact decimalFaultTaken s true
  | overflow => exact decimalFaultTaken s false
  | indeterminate =>
    have hrun : run (decimalFinish .indeterminate) s =
        .next { finishedCC s (setDeca (Config.freeValue 128 s.free) s).regs
          (0#2 ++ Config.freeValue 2 (s.free + 1)) with free := s.free + 2 } := rfl
    have hdeca : (setDeca (Config.freeValue 128 s.free) s).regs = decaRegs s (Config.freeValue 128 s.free).toNat := by
      rw [decaRegs, BitVec.ofNat_toNat, BitVec.setWidth_eq]
    have hcc : ∀ c : BitVec 2, (0#2 ++ c).getLsbD 3 = false ∧ (0#2 ++ c).getLsbD 2 = false := by decide
    obtain ⟨h1, h2⟩ := hcc (Config.freeValue 2 (s.free + 1))
    rw [hrun, hdeca, finishedCC, h1, h2]
    exact ⟨_, _, _, rfl⟩

section Operand

variable {s : State} {m : MR} {x : Nat → Byte}

theorem readDecimal_eq_ok (hd : HasDecimal s) (h : BytesRead s m (decimalLength m) x) :
    readDecimal m s = .ok (numberOf x (decimalLength m)) s := by
  obtain ⟨b, hb, hv⟩ := operand_of_bytesRead hd h (decimalLength_pos m)
  exact (bind_ok hb _).trans (need_ok hv)

theorem decimalEndsAs_on (hd : HasDecimal s) (h : BytesRead s m (decimalLength m) x)
    (f : Bool → Nat → Nat → DecimalEnd) :
    DecimalEndsAs s (run (decimalOn m f) s)
      (f s.psd.ansi (getDeca s).toNat (numberOf x (decimalLength m))) := by
  rw [decimalOn, run_bind (readDecimal_eq_ok hd h)]
  exact decimalEndsAs_finish s _

/-- DM and DD take operands of 1 to 8 bytes (R394, R395). -/
theorem shortLength_eq (m : MR) : shortLength m = decide (decimalLength m ≤ 8) := by
  unfold shortLength decimalLength
  split
  · rename_i h
    rw [h]
    rfl
  · rename_i h
    have hpos : 1 ≤ m.r.toNat := Nat.pos_of_ne_zero fun e => h (BitVec.eq_of_toNat_eq e)
    rw [decide_eq_true hpos, Bool.true_and]

theorem decimalEndsAs_onShort (hd : HasDecimal s) (h : BytesRead s m (decimalLength m) x) (hn : decimalLength m ≤ 8)
    (f : Bool → Nat → Nat → DecimalEnd) :
    DecimalEndsAs s (run (decimalOnShort m f) s)
      (f s.psd.ansi (getDeca s).toNat (numberOf x (decimalLength m))) := by
  obtain ⟨b, hb, hv⟩ := operand_of_bytesRead hd h (decimalLength_pos m)
  rw [decimalOnShort, run_bind hb, if_pos (by rw [shortLength_eq, decide_eq_true hn]), run_need hv]
  exact decimalEndsAs_finish s _

/-- A longer operand is not read (R389, R394, R395). -/
theorem faultTaken_onShort {b : ByteAddr} (hb : decimalOperand m (decimalLength m) .read s = .ok b s)
    (hn : 8 < decimalLength m) (f : Bool → Nat → Nat → DecimalEnd) :
    DecimalFaultTaken s (run (decimalOnShort m f) s) true := by
  rw [decimalOnShort, run_bind hb, if_neg (by rw [shortLength_eq, decide_eq_true_iff]; omega)]
  exact decimalFaultTaken s true

theorem decimalEndsAs_pack (hd : HasDecimal s) (h : BytesRead s m (2 * decimalLength m - 1) x) :
    DecimalEndsAs s (exec (.pack m) s) (decimalLoad s.psd.ansi
      (16 * lowNibbles x (2 * decimalLength m - 1) + (x (2 * decimalLength m - 1 - 1)).toNat / 16)) := by
  have hpos : 1 ≤ 2 * decimalLength m - 1 := by
    have := decimalLength_pos m
    omega
  obtain ⟨b, hb, hv⟩ := operand_of_bytesRead hd h hpos
  have hrun : exec (.pack m) s = run (decimalFinish (decimalLoad s.psd.ansi
      (packZoned (2 * decimalLength m - 1) (numberOf x (2 * decimalLength m - 1))))) s :=
    (run_bind hb _).trans (run_need hv _)
  rw [hrun, packZoned_numberOf x hpos]
  exact decimalEndsAs_finish s _

end Operand

end Sys2Proof.Proofs

namespace Sys2Proof.Proofs

open Sys2Proof Sys2Proof.Machine Sys2Proof.Laws

/-! ### The results of decimal computations (44_decimal R388-R397) -/

section Ends

variable {s : State} {o : Result} {r : Int}

/-- A number put into the accumulator with its condition code (R388, R389). -/
theorem accumulator_of_value {neg c2 : Bool} {mag : Nat}
    (h : DecimalEndsAs s o (.value (makeDec s.psd.ansi neg mag 16) (decimalCC false c2 neg mag)))
    (hmag : mag < 10 ^ 31) (hr : r = signedInt neg mag) :
    ∃ d, IsDecimal s d neg mag ∧
      o = .next (finished s (decaRegs s d) false c2 (decide (0 < r)) (decide (r < 0))) := by
  refine ⟨_, isDecimal_makeDec_of_lt s neg (n := 16) (by omega) hmag, ?_⟩
  rw [hr, ← finishedCC_decimalCC]
  exact h

theorem decimalSum_of_lt (ansi : Bool) (h : r.natAbs < 10 ^ 31) : decimalSum ansi r =
    .value (makeDec ansi (decide (r < 0)) r.natAbs 16) (decimalCC false false (decide (r < 0)) r.natAbs) :=
  if_neg (by omega)

/-- A number put into the accumulator, if its digits fit (R392, R393). -/
theorem ends_of_decimalSum (h : DecimalEndsAs s o (decimalSum s.psd.ansi r)) :
    (r.natAbs < 10 ^ 31 → ∃ d, IsDecimal s d (decide (r < 0)) r.natAbs ∧
      o = .next (finished s (decaRegs s d) false false (decide (0 < r)) (decide (r < 0)))) ∧
    (10 ^ 31 ≤ r.natAbs → DecimalFaultTaken s o false) := by
  constructor
  · intro hlt
    rw [decimalSum_of_lt _ hlt] at h
    exact accumulator_of_value h hlt (signedInt_sign_natAbs r).symm
  · intro hge
    rw [decimalSum, if_pos hge] at h
    exact h

end Ends

section Computations

variable {ansi : Bool} {a b : Nat}

theorem decimalLoad_legal (h : legalPacked b = true) : decimalLoad ansi b =
    .value (makeDec ansi (packedNeg b) (packedMag b) 16) (decimalCC false false (packedNeg b) (packedMag b)) :=
  if_pos h

theorem decimalLoad_illegal (h : legalPacked b = false) : decimalLoad ansi b = .illegal := by
  simp [decimalLoad, h]

theorem decimalAdd_legal (ha : legalPacked a = true) (hb : legalPacked b = true) :
    decimalAdd ansi a b = decimalSum ansi (packedInt a + packedInt b) := by
  simp [decimalAdd, ha, hb]

theorem decimalAdd_illegal (h : legalPacked b = false ∨ legalPacked a = false) : decimalAdd ansi a b = .illegal := by
  rcases h with h | h <;> simp [decimalAdd, h]

theorem decimalSubtract_legal (ha : legalPacked a = true) (hb : legalPacked b = true) :
    decimalSubtract ansi a b = decimalSum ansi (packedInt a - packedInt b) := by
  simp [decimalSubtract, ha, hb]

theorem decimalSubtract_illegal (h : legalPacked b = false ∨ legalPacked a = false) :
    decimalSubtract ansi a b = .illegal := by
  rcases h with h | h <;> simp [decimalSubtract, h]

/-- A product of two numbers of 15 digits fits the accumulator (R394). -/
theorem natAbs_product_lt (ha : legalPacked a = true) (ha64 : a < 2 ^ 64) (hb : legalPacked b = true)
    (hb64 : b < 2 ^ 64) : (packedInt a * packedInt b).natAbs < 10 ^ 31 := by
  have hlt : packedMag a * packedMag b < 10 ^ 15 * 10 ^ 15 :=
    Nat.mul_lt_mul'' (packedMag_lt (n := 8) ha (by omega) ha64) (packedMag_lt (n := 8) hb (by omega) hb64)
  rw [packedInt_eq, packedInt_eq, signedInt_mul, natAbs_signedInt]
  omega

theorem decimalMultiply_legal (ha : legalPacked a = true) (ha64 : a < 2 ^ 64) (hb : legalPacked b = true)
    (hb64 : b < 2 ^ 64) : decimalMultiply ansi a b = decimalSum ansi (packedInt a * packedInt b) := by
  have hlt := natAbs_product_lt ha ha64 hb hb64
  rw [decimalSum_of_lt _ hlt, packedInt_eq, packedInt_eq, signedInt_mul, natAbs_signedInt,
    decide_signedInt_neg_eq_and, decimalMultiply, hb, anySign_of_legalPacked ha, ha, decide_eq_true ha64]
  rfl

theorem decimalMultiply_open (hb : legalPacked b = true) (ha : anySign 32 a = true)
    (h : ¬ (legalPacked a = true ∧ a < 2 ^ 64)) : decimalMultiply ansi a b = .indeterminate := by
  rw [decimalMultiply, hb, ha, if_pos (by rfl), if_neg (by simpa using h)]

theorem decimalMultiply_illegal (h : legalPacked b = false ∨ anySign 32 a = false) :
    decimalMultiply ansi a b = .illegal := by
  rcases h with h | h <;> simp [decimalMultiply, h]

/-- The quotient has more than 15 digits exactly when the divisor is at most the leading part of the dividend (R395). -/
theorem le_div_pow_iff {x y : Nat} (hy : y ≠ 0) : y ≤ x / 10 ^ 15 ↔ 10 ^ 15 ≤ x / y := by
  rw [Nat.le_div_iff_mul_le (by omega), Nat.le_div_iff_mul_le (Nat.pos_of_ne_zero hy), Nat.mul_comm]

theorem decimalDivide_overflow (ha : legalPacked a = true) (hb : legalPacked b = true)
    (h : packedMag b = 0 ∨ 10 ^ 15 ≤ packedMag a / packedMag b) : decimalDivide ansi a b = .overflow := by
  have hover : packedMag b = 0 ∨ packedMag b ≤ packedMag a / 10 ^ 15 := by
    by_cases hz : packedMag b = 0
    · exact .inl hz
    · exact .inr ((le_div_pow_iff hz).2 (h.resolve_left hz))
  rw [decimalDivide, hb, anySign_of_legalPacked ha, if_pos (by rfl), if_pos ha, if_pos hover]

theorem decimalDivide_quotient {q : Int} (ha : legalPacked a = true) (hb : legalPacked b = true)
    (hq : q = (packedInt a).tdiv (packedInt b)) (hne : packedMag b ≠ 0) (hlt : q.natAbs < 10 ^ 15) :
    decimalDivide ansi a b = .value
      (2 ^ 64 * makeDec ansi (packedNeg a) (packedMag a % packedMag b) 8 + makeDec ansi (decide (q < 0)) q.natAbs 8)
      (decimalCC false false (decide (q < 0)) q.natAbs) := by
  rw [packedInt_eq, packedInt_eq, signedInt_tdiv] at hq
  subst hq
  rw [natAbs_signedInt] at hlt
  have hfits : ¬ (packedMag b = 0 ∨ packedMag b ≤ packedMag a / 10 ^ 15) := by
    rw [le_div_pow_iff hne]
    omega
  rw [natAbs_signedInt, decide_signedInt_neg_eq_and, decimalDivide, hb, anySign_of_legalPacked ha,
    if_pos (by rfl), if_pos ha, if_neg hfits]

theorem decimalDivide_open (hb : legalPacked b = true) (ha : anySign 32 a = true) (h : legalPacked a = false) :
    decimalDivide ansi a b = .indeterminate := by
  simp [decimalDivide, hb, ha, h]

theorem decimalDivide_illegal (h : legalPacked b = false ∨ anySign 32 a = false) :
    decimalDivide ansi a b = .illegal := by
  rcases h with h | h <;> simp [decimalDivide, h]

end Computations

/-! ### DL, PACK, DA, DS, DM, DD, DC -/

/-- Settles O40: the operand is legal, so `decimalLoad` gives its own number. -/
theorem decimalLoad : Obligations.DecimalLoad := by
  intro s m n v x hd hx hv
  constructor
  · intro hn hnum
    obtain rfl : n = decimalLength m := hn
    subst hnum
    have hend := decimalEndsAs_on hd hx fun ansi _ b => Machine.decimalLoad ansi b
    rw [decimalLoad_legal hv] at hend
    exact accumulator_of_value hend (packedMag_lt_pow hv) (packedInt_eq _)
  · intro hn hnum
    obtain rfl : n = 2 * decimalLength m - 1 := hn
    subst hnum
    have hend := decimalEndsAs_pack hd hx
    rw [decimalLoad_legal hv] at hend
    exact accumulator_of_value hend (packedMag_lt_pow hv) (packedInt_eq _)

/-- An operand of up to 8 bytes is below `2 ^ 64`. -/
theorem numberOf_lt_short (x : Nat → Byte) {n : Nat} (h : n ≤ 8) : numberOf x n < 2 ^ 64 :=
  (numberOf_lt x n).trans_le (Nat.pow_le_pow_right (by omega) h)

/-- Settles O41: the three end as the sum, the difference or the product is put away. -/
theorem decimalArithmetic : Obligations.DecimalArithmetic := by
  intro s m n a v x r hd hx hn hnum hacc hv
  obtain rfl : n = decimalLength m := hn
  subst hnum hacc
  refine ⟨fun ha => ⟨?sum, fun _ hle ha64 hr => ?product⟩, fun _ hle hsign hbad => ?openEnd⟩
  case sum =>
    rintro i (⟨rfl, rfl⟩ | ⟨rfl, rfl⟩)
    · have hend := decimalEndsAs_on hd hx decimalAdd
      rw [decimalAdd_legal ha hv] at hend
      exact ends_of_decimalSum hend
    · have hend := decimalEndsAs_on hd hx decimalSubtract
      rw [decimalSubtract_legal ha hv] at hend
      exact ends_of_decimalSum hend
  case product =>
    have hend := decimalEndsAs_onShort hd hx hle decimalMultiply
    have hv64 := numberOf_lt_short x hle
    rw [decimalMultiply_legal ha ha64 hv hv64, ← hr] at hend
    exact (ends_of_decimalSum hend).1 (hr ▸ natAbs_product_lt ha ha64 hv hv64)
  case openEnd =>
    have hend := decimalEndsAs_onShort hd hx hle decimalMultiply
    rw [decimalMultiply_open hv hsign hbad] at hend
    exact hend

/-- DC compares legal numbers and changes nothing but the condition code (R396). -/
theorem exec_dc {s : State} {m : MR} {x : Nat → Byte} (hd : HasDecimal s) (hx : BytesRead s m (decimalLength m) x) :
    exec (.dc m) s = if legalPacked (numberOf x (decimalLength m)) && legalPacked (getDeca s).toNat then
      .next (finished s s.regs false false
        (decide (packedInt (numberOf x (decimalLength m)) < packedInt (getDeca s).toNat))
        (decide (packedInt (getDeca s).toNat < packedInt (numberOf x (decimalLength m)))))
      else run (decimalFault true) s := by
  refine (run_bind (readDecimal_eq_ok hd hx) _).trans ((run_look _ _ s).trans ?_)
  split <;> rfl

/-- Settles O42: the quotient and remainder of the magnitudes with their signs, or one of the ends without them. -/
theorem decimalDivideCompare : Obligations.DecimalDivideCompare := by
  intro s m n a v x hd hx hn hnum hacc hv
  obtain rfl : n = decimalLength m := hn
  subst hnum hacc
  refine ⟨fun ha _ hle q hq => ⟨fun hne hlt => ?quotient, fun hover => ?overflow⟩, fun _ hle hsign ha => ?openEnd,
    fun ha => ?compare⟩
  case quotient =>
    have hend := decimalEndsAs_onShort hd hx hle decimalDivide
    rw [decimalDivide_quotient ha hv hq hne hlt] at hend
    have hrem : packedMag (getDeca s).toNat % packedMag (numberOf x (decimalLength m)) < 10 ^ 15 :=
      (Nat.mod_lt _ (Nat.pos_of_ne_zero hne)).trans (packedMag_lt (n := 8) hv (by omega) (numberOf_lt_short x hle))
    refine ⟨_, _, isDecimal_makeDec_of_lt s _ (n := 8) (by omega) hrem,
      isDecimal_makeDec_of_lt s _ (n := 8) (by omega) hlt, makeDec_lt _ _ _ (n := 8) (by omega),
      makeDec_lt _ _ _ (n := 8) (by omega), ?_⟩
    exact Eq.trans hend (by rw [finishedCC_decimalCC, signedInt_sign_natAbs])
  case overflow =>
    have hend := decimalEndsAs_onShort hd hx hle decimalDivide
    rw [hq, packedInt_eq, packedInt_eq, signedInt_tdiv, natAbs_signedInt] at hover
    rw [decimalDivide_overflow ha hv hover] at hend
    exact hend
  case openEnd =>
    have hend := decimalEndsAs_onShort hd hx hle decimalDivide
    rw [decimalDivide_open hv hsign ha] at hend
    exact hend
  case compare =>
    rw [exec_dc hd hx, hv, ha]
    rfl

/-! ### DSA (44_decimal R397) -/

theorem shiftField_eq_ok {s : State} {m : MR} {d : Half} (hdir : m.ind = false → d = m.addr.extractLsb' 0 16)
    (hind : m.ind = true → ∃ w, readWord s (directRef s m) = .ok w ∧ d = field w 16 31) :
    shiftField s m = .ok d := by
  unfold shiftField
  split
  · rename_i h
    obtain ⟨w, hw, rfl⟩ := hind h
    rw [hw]
    rfl
  · rename_i h
    rw [hdir (by simpa using h)]

/-- The index of a shift count is bits 14-29 of the index register (R397). -/
theorem indexedCount_eq (s : State) (m : MR) (d : Half) :
    (d + if m.x = 0 then 0 else field (getReg s (0#1 ++ m.x)) 14 29) =
      if m.x = 0 then d else d + (getReg s (0#1 ++ m.x)).extractLsb' 2 16 := by
  split
  · exact BitVec.add_zero d
  · rfl

theorem decimalEndsAs_dsa {s : State} {m : MR} {d : Half} {c : Int} (hd : HasDecimal s) (h : shiftField s m = .ok d)
    (hc : c = max (-31) (min 31 (d + if m.x = 0 then 0 else field (getReg s (0#1 ++ m.x)) 14 29).toInt)) :
    DecimalEndsAs s (exec (.dsa m) s) (Machine.decimalShift s.psd.ansi c (getDeca s).toNat) := by
  obtain ⟨hmodel, hunit⟩ := hd
  have hindex := indexedCount_eq s m d
  have hrun : exec (.dsa m) s = run (decimalFinish (Machine.decimalShift s.psd.ansi (decimalShiftCount
      (if m.x = 0 then d else d + (getReg s (0#1 ++ m.x)).extractLsb' 2 16)) (getDeca s).toNat)) s :=
    (run_bind (requireDecimal_ok hmodel hunit) _).trans
      ((run_need (f := (shiftField · m)) h _).trans (run_look _ _ s))
  rw [hrun, ← hindex, decimalShiftCount, ← hc]
  exact decimalEndsAs_finish s _

theorem decimalShift_legal {ansi : Bool} {c : Int} {a : Nat} (h : legalPacked a = true) {t : Nat}
    (ht : t = if 0 ≤ c then packedMag a * 10 ^ c.natAbs else packedMag a / 10 ^ c.natAbs) :
    Machine.decimalShift ansi c a = .value (makeDec ansi (packedNeg a) (t % 10 ^ 31) 16)
      (decimalCC false (decide (10 ^ 31 ≤ t)) (packedNeg a) (t % 10 ^ 31)) := by
  have hcount : (if 0 ≤ c then packedMag a * 10 ^ c.toNat else packedMag a / 10 ^ (-c).toNat) = t := by
    rw [ht]
    split
    · rw [show c.toNat = c.natAbs by omega]
    · rw [show (-c).toNat = c.natAbs by omega]
  rw [Machine.decimalShift, if_pos h, hcount]

theorem decimalShift_illegal {ansi : Bool} {c : Int} {a : Nat} (h : legalPacked a = false) :
    Machine.decimalShift ansi c a = .illegal := by
  simp [Machine.decimalShift, h]

/-- Settles O44: the shifted magnitude keeps its low 31 digits and its sign. -/
theorem decimalShift : Obligations.DecimalShift := by
  rintro s m d c a t hd rfl hdir hind hc ht
  have hend := decimalEndsAs_dsa hd (shiftField_eq_ok hdir hind) hc
  constructor
  · intro ha
    have hmod : t % 10 ^ 31 < 10 ^ 31 := Nat.mod_lt _ (by omega)
    rw [decimalShift_legal ha ht] at hend
    rw [← decide_signedInt_pos, ← decide_signedInt_neg]
    exact accumulator_of_value hend hmod rfl
  · intro ha
    rw [decimalShift_illegal ha] at hend
    exact hend

end Sys2Proof.Proofs

namespace Sys2Proof.Proofs

open Sys2Proof Sys2Proof.Machine Sys2Proof.Laws

/-! ### One byte of a place (20_memory R101) -/

/-- A word of memory is made of its four bytes. -/
theorem byteOf_readWordAt (m : Memory) (a : WordAddr) (k : BitVec 2) :
    byteOf (readWordAt m a) k = readCell m (4 * a.toNat + k.toNat) := by
  have hcases : ∀ j : BitVec 2, j = 0 ∨ j = 1 ∨ j = 2 ∨ j = 3 := by decide
  unfold readWordAt
  rcases hcases k with rfl | rfl | rfl | rfl
  · show BitVec.extractLsb' 24 8 _ = _
    rw [BitVec.extractLsb'_append_eq_of_le (by decide), BitVec.extractLsb'_append_eq_of_le (by decide)]
    exact BitVec.extractLsb'_append_eq_left
  · show BitVec.extractLsb' 16 8 _ = _
    rw [BitVec.extractLsb'_append_eq_of_le (by decide), BitVec.extractLsb'_append_eq_of_le (by decide)]
    exact BitVec.extractLsb'_append_eq_right
  · show BitVec.extractLsb' 8 8 _ = _
    rw [BitVec.extractLsb'_append_eq_of_le (by decide)]
    exact BitVec.extractLsb'_append_eq_right
  · exact BitVec.extractLsb'_append_eq_right

theorem byteAt_mem (s : State) (a : WordAddr) (k : BitVec 2) :
    byteAt s (.mem a) k = readCell s.mem (4 * a.toNat + k.toNat) :=
  byteOf_readWordAt s.mem a k

/-- Parity bad nowhere is made bad by a store (R132). -/
theorem sound_writeLoc {s : State} {l' : Loc} (h : Sound s l') (l : Loc) (w : Word) : Sound (writeLoc l w s) l' := by
  cases l' with
  | reg n => trivial
  | mem a =>
    cases l with
    | reg n => exact h
    | mem b =>
      have h' : a.toNat ∉ s.badParity := by simpa [Sound, parityBad] using h
      simp [Sound, parityBad, writeLoc, h']

/-- The state with byte `k` of a place replaced. -/
def writeLocByte (l : Loc) (k : BitVec 2) (x : Byte) (s : State) : State :=
  writeLoc l (withByte (wordAt s l) k x) s

section Frames

variable {s t u : State} {p p' : Loc → BitVec 2 → Prop} {q : BitVec 4 → Prop}

theorem bytesKeptBut_refl (s : State) (p : Loc → BitVec 2 → Prop) (q : BitVec 4 → Prop) : BytesKeptBut s s p q :=
  ⟨fun _ _ => rfl, fun _ _ _ _ => rfl, fun _ _ _ => rfl⟩

theorem bytesKeptBut_trans (h : BytesKeptBut s t p q) (k : BytesKeptBut t u p q) (hrp : t.psd.rp = s.psd.rp) :
    BytesKeptBut s u p q := by
  obtain ⟨hm, hr, hb⟩ := h
  obtain ⟨km, kr, kb⟩ := k
  exact ⟨fun x hx => (km x hx).trans (hm x hx), fun n j hn ha => (kr n j hn ha).trans (hr n j hn ha),
    otherBlocksKept_trans hb kb hrp⟩

theorem bytesKeptBut_mono (h : BytesKeptBut s t p q) (hp : ∀ l j, p l j → p' l j) : BytesKeptBut s t p' q := by
  obtain ⟨hm, hr, hb⟩ := h
  exact ⟨fun x hx => hm x fun a k hk => hx a k (hp _ _ hk), fun n j hn ha => hr n j (fun e => hn (hp _ _ e)) ha, hb⟩

/-- A change of the program status that keeps the register pointer. -/
theorem bytesKeptBut_withPsd {x : Psd} (h : x.rp = s.psd.rp) (p : Loc → BitVec 2 → Prop) (q : BitVec 4 → Prop) :
    BytesKeptBut s { s with psd := x } p q :=
  ⟨fun _ _ => rfl, fun n _ _ _ => by rw [getReg_withPsd h n], fun _ _ _ => rfl⟩

/-- A byte that is none of those stored into holds what it held. -/
theorem byteAt_of_bytesKeptBut (h : BytesKeptBut s t p fun _ => False) {l : Loc} {k : BitVec 2} (hl : ¬ p l k) :
    byteAt t l k = byteAt s l k := by
  obtain ⟨hm, hr, -⟩ := h
  cases l with
  | reg n => exact hr n k hl id
  | mem a =>
    rw [byteAt_mem, byteAt_mem]
    refine hm _ fun b j hj e => hl ?_
    have hk := k.isLt
    have hj' := j.isLt
    rwa [BitVec.eq_of_toNat_eq (by omega : a.toNat = b.toNat), BitVec.eq_of_toNat_eq (by omega : k.toNat = j.toNat)]

theorem byteAt_writeLocByte (hs : MemCanonical s) (l : Loc) (k : BitVec 2) (x : Byte) :
    byteAt (writeLocByte l k x s) l k = x := by
  rw [byteAt, writeLocByte, wordAt_writeLoc hs, byteOf_withByte_same]

theorem bytesKeptBut_writeLocByte (hs : MemCanonical s) {l : Loc} {k : BitVec 2} (hp : p l k) (x : Byte)
    (q : BitVec 4 → Prop) : BytesKeptBut s (writeLocByte l k x s) p q := by
  obtain ⟨hcells, hregs, hblocks⟩ := writeLoc_keptBut l (withByte (wordAt s l) k x) s
  have hbeside : ∀ j, j ≠ k → byteAt (writeLocByte l k x s) l j = byteAt s l j := fun j hj => by
    rw [byteAt, writeLocByte, wordAt_writeLoc hs, byteOf_withByte_ne hj, byteAt]
  refine ⟨fun y hy => ?memory, fun n j hn _ => ?register, hblocks⟩
  case memory =>
    by_cases hout : Outside l y
    · exact hcells y fun l' hl' => hl' ▸ hout
    · obtain ⟨a, rfl, hlow, hhigh⟩ : ∃ a, l = .mem a ∧ 4 * a.toNat ≤ y ∧ y ≤ 4 * a.toNat + 3 := by
        simpa [Outside] using hout
      obtain ⟨j, hj⟩ : ∃ j : BitVec 2, j.toNat = y - 4 * a.toNat :=
        ⟨BitVec.ofNat 2 (y - 4 * a.toNat), by simp; omega⟩
      obtain rfl : y = 4 * a.toNat + j.toNat := by omega
      have hne : j ≠ k := by
        rintro rfl
        exact hy a j hp rfl
      have hbyte := hbeside j hne
      rwa [byteAt_mem, byteAt_mem] at hbyte
  case register =>
    by_cases hl : l = .reg n
    · subst hl
      exact hbeside j (by rintro rfl; exact hn hp)
    · rw [writeLocByte, hregs n (fun e => hl e.symm) id]

end Frames

/-! ### Runs of bytes stored (44_decimal R389) -/

/-- `t` is `s` with the bytes `x` stored at the `n` byte addresses `b`, whose places are `l`. -/
structure BytesWritten (s t : State) (b : Nat → ByteAddr) (n : Nat) (l : Nat → Loc) (x : Nat → Byte) : Prop where
  bytes : ∀ k, k < n → byteAt t (l k) ((b k).extractLsb' 0 2) = x k
  kept : BytesKeptBut s t (fun p j => ∃ k, k < n ∧ p = l k ∧ j = (b k).extractLsb' 0 2) fun _ => False
  data : OnlyData s t
  psd : t.psd = s.psd

/-- A byte stored at the first of distinct bytes and then the rest. -/
theorem BytesWritten.cons {s t : State} {b : Nat → ByteAddr} {n : Nat} {l : Nat → Loc} {x : Nat → Byte}
    (hs : MemCanonical s)
    (hne : ∀ k, k < n → ¬ (l 0 = l (k + 1) ∧ (b 0).extractLsb' 0 2 = (b (k + 1)).extractLsb' 0 2))
    (h : BytesWritten (writeLocByte (l 0) ((b 0).extractLsb' 0 2) (x 0) s) t (fun k => b (k + 1)) n
      (fun k => l (k + 1)) fun k => x (k + 1)) :
    BytesWritten s t b (n + 1) l x where
  bytes := by
    rintro (_ | k) hk
    · exact (byteAt_of_bytesKeptBut h.kept fun ⟨k, hk, hl, hj⟩ => hne k hk ⟨hl, hj⟩).trans
        (byteAt_writeLocByte hs _ _ _)
    · exact h.bytes k (by omega)
  kept := bytesKeptBut_trans (bytesKeptBut_writeLocByte hs ⟨0, by omega, rfl, rfl⟩ _ _)
    (bytesKeptBut_mono h.kept fun _ _ ⟨k, hk, hl, hj⟩ => ⟨k + 1, by omega, hl, hj⟩)
    (by rw [writeLocByte, writeLoc_psd])
  data := onlyData_trans (writeLoc_onlyData _ _ _) h.data
  psd := h.psd.trans (writeLoc_psd _ _ _)

/-- Bytes that can still be written after one of them has been. -/
theorem bytesWritable_tail {s : State} {b : Nat → ByteAddr} {n : Nat} {l : Nat → Loc}
    (h : BytesWritable s b (n + 1) l) (k : Loc) (w : Word) :
    BytesWritable (writeLoc k w s) (fun j => b (j + 1)) n fun j => l (j + 1) := by
  obtain ⟨hplace, hdistinct⟩ := h
  refine ⟨fun j hj => ?_, fun i j hi hj => hdistinct (i + 1) (j + 1) (by omega) (by omega)⟩
  obtain ⟨hl, hsound⟩ := hplace (j + 1) (by omega)
  exact ⟨(locate_writeLoc k w s _ _).trans hl, sound_writeLoc hsound k w⟩

/-- The bytes of a number are stored, the most significant first. -/
theorem storeBytes_ok (altered : Bool) {s : State} {b : ByteAddr} {n v : Nat} {l : Nat → Loc} (hs : MemCanonical s)
    (hb : b.toNat < 4 * addressSpace s) (hw : BytesWritable s (bytePlus s b) n l) :
    ∃ t, storeBytes altered b (bytesOf n v) s = .ok () t ∧
      BytesWritten s t (bytePlus s b) n l fun k => BitVec.ofNat 8 (v / 256 ^ (n - 1 - k)) := by
  induction n generalizing altered b s l with
  | zero => exact ⟨s, rfl, fun k hk => absurd hk (by omega), bytesKeptBut_refl s _ _, rfl, rfl⟩
  | succ n ih =>
    obtain ⟨hplace, hsound⟩ := hw.1 0 (by omega)
    rw [bytePlus_zero hb] at hplace
    have hfirst := writeByte_eq_ok hplace hsound (BitVec.ofNat 8 (v / 256 ^ n))
    have hpsd := writeLoc_psd (l 0) (withByte (wordAt s (l 0)) (b.extractLsb' 0 2) (BitVec.ofNat 8 (v / 256 ^ n))) s
    have hplus := bytePlus_congr hpsd
    have hnext : bytePlus s (bytePlus s b 1) = fun k => bytePlus s b (k + 1) :=
      funext fun k => by rw [bytePlus_bytePlus, Nat.add_comm]
    obtain ⟨t, ht, hwritten⟩ := ih (altered := true) (b := bytePlus s b 1) (memCanonical_writeLoc hs _ _)
      (by rw [addressSpace_congr hpsd]; exact bytePlus_lt s b 1)
      (by rw [hplus, hnext]; exact bytesWritable_tail hw _ _)
    rw [hplus, hnext] at hwritten
    have hshift : (fun k => BitVec.ofNat 8 (v / 256 ^ (n - 1 - k))) =
        fun k => BitVec.ofNat 8 (v / 256 ^ (n + 1 - 1 - (k + 1))) :=
      funext fun k => by rw [show n - 1 - k = n + 1 - 1 - (k + 1) by omega]
    rw [hshift] at hwritten
    refine ⟨t, ?_, BytesWritten.cons hs (fun k hk => hw.2 0 (k + 1) (by omega) (by omega)) ?_⟩
    · rw [bytesOf, storeBytes, bind_ok (onceAltered_ok altered (commit_ok hfirst)), bind_look, hplus]
      exact ht
    · rw [bytePlus_zero hb]
      exact hwritten

/-! ### DST and UNPK (44_decimal R391, R401) -/

/-- The run stands when CC1 and CC2 have been set and the instruction goes on. -/
theorem bytesStored_advance {s u : State} {b : Nat → ByteAddr} {n : Nat} {l : Nat → Loc} {x : Nat → Byte}
    (c1 c2 : Bool) (h : BytesWritten s u b n l x) :
    BytesStored s (advance (setCC12 c1 c2 u)) b n l x (fun _ => False) c1 c2 s.psd.cc3 s.psd.cc4 := by
  have hia : nextIa u = nextIa s := by
    have hinst : u.inst = s.inst := by rw [h.data]
    unfold nextIa incrementedIa realExtended
    rw [hinst, h.psd]
  have hadv : advance (setCC12 c1 c2 u) = { u with psd := (finished s s.regs c1 c2 s.psd.cc3 s.psd.cc4).psd } := by
    have hunfold : advance (setCC12 c1 c2 u) =
        { u with psd := { u.psd with cc1 := c1, cc2 := c2, ia := nextIa u } } := rfl
    rw [hunfold, hia, h.psd]
    rfl
  have hrp : (finished s s.regs c1 c2 s.psd.cc3 s.psd.cc4).psd.rp = u.psd.rp := by
    rw [h.psd]
    rfl
  rw [hadv]
  refine ⟨fun k hk => ?_, bytesKeptBut_trans h.kept (bytesKeptBut_withPsd hrp _ _) (by rw [h.psd]),
    onlyData_trans h.data rfl, rfl⟩
  rw [← h.bytes k hk]
  exact congrArg (byteOf · _) (wordAt_withPsd hrp (l k))

/-- The accumulator's number stored, when it is legal (R391, R401). -/
theorem run_decimalStore {s : State} {m : MR} {b : ByteAddr} {n digits : Nat} {l : Nat → Loc}
    {f : Bool → Bool → Nat → Nat} (hs : MemCanonical s) (hd : HasDecimal s) (hb : effAddr s m alignByte = .ok b)
    (hn : 1 ≤ n) (ha : legalPacked (getDeca s).toNat = true) (hw : BytesWritable s (bytePlus s b) n l) :
    ∃ t, run (decimalStore m n digits f) s = .next t ∧
      BytesStored s t (bytePlus s b) n l (fun k => BitVec.ofNat 8
          (f s.psd.ansi (packedNeg (getDeca s).toNat) (packedMag (getDeca s).toNat) / 256 ^ (n - 1 - k)))
        (fun _ => False) false (decide (10 ^ digits ≤ packedMag (getDeca s).toNat)) s.psd.cc3 s.psd.cc4 := by
  have hlt := effAddr_lt hb
  obtain ⟨hfirst, -⟩ := hw.1 0 hn
  obtain ⟨hlast, -⟩ := hw.1 (n - 1) (by omega)
  rw [bytePlus_zero hlt] at hfirst
  obtain ⟨t, ht, hwritten⟩ := storeBytes_ok false hs hlt hw
  refine ⟨_, ?_, bytesStored_advance _ _ hwritten⟩
  rw [decimalStore, run_bind (decimalOperand_eq_ok hd hb hfirst hlast), run_look, run_look, if_pos ha, run_bind ht]
  rfl

/-- A digit of a zoned number under the zone (R401). -/
theorem zonedDigits_div {zone n j : Nat} (hz : zone < 16) (hj : j < n) (mag : Nat) :
    zonedDigits zone n mag / 256 ^ j % 256 = mag / 10 ^ j % 10 + 16 * zone := by
  induction n generalizing j mag with
  | zero => omega
  | succ n ih =>
    cases j with
    | zero =>
      rw [zonedDigits, pow_zero, pow_zero, Nat.div_one, Nat.div_one]
      omega
    | succ j =>
      have hrest : zonedDigits zone (n + 1) mag / 256 = zonedDigits zone n (mag / 10) := by
        rw [zonedDigits]
        omega
      rw [pow_succ', pow_succ', ← Nat.div_div_eq_div_mul, ← Nat.div_div_eq_div_mul, hrest]
      exact ih (by omega) (mag / 10)

/-- The bytes of a zoned number: a digit in each, the sign in the zone of the last (R401). -/
theorem zonedNumber_byte (ansi neg : Bool) (mag : Nat) {n k : Nat} (hk : k < n) :
    BitVec.ofNat 8 (zonedNumber ansi neg mag n / 256 ^ (n - 1 - k)) =
      BitVec.ofNat 8 (mag / 10 ^ (n - 1 - k) % 10 + 16 *
        (if k = n - 1 then signCode ansi neg else if ansi then 3 else 15)) := by
  have hsign := signCode_bounds ansi neg
  have hzone : zoneCode ansi < 16 := by cases ansi <;> decide
  refine BitVec.eq_of_toNat_eq ?_
  rw [BitVec.toNat_ofNat, BitVec.toNat_ofNat, show 2 ^ 8 = 256 from rfl]
  split
  · rename_i hlast
    rw [show n - 1 - k = 0 by omega, pow_zero, pow_zero, Nat.div_one, Nat.div_one, zonedNumber]
    omega
  · obtain ⟨j, hj⟩ : ∃ j, n - 1 - k = j + 1 := ⟨n - 1 - k - 1, by omega⟩
    have hrest : zonedNumber ansi neg mag n / 256 = zonedDigits (zoneCode ansi) (n - 1) (mag / 10) := by
      rw [zonedNumber]
      omega
    rw [hj, pow_succ', pow_succ', ← Nat.div_div_eq_div_mul, ← Nat.div_div_eq_div_mul, hrest,
      zonedDigits_div hzone (by omega)]
    unfold zoneCode at hzone ⊢
    omega

/-- Settles O43: `storeBytes_ok` with the bytes of the packed or of the zoned number. -/
theorem decimalStore : Obligations.DecimalStore := by
  rintro s m b p len n a l hs hd hb rfl hlen rfl ha hw
  obtain rfl : len = decimalLength m := hlen
  have hpos := decimalLength_pos m
  constructor
  · rintro rfl
    obtain ⟨t, ht, hstored⟩ := run_decimalStore (digits := 2 * decimalLength m - 1)
      (f := fun ansi neg mag => makeDec ansi neg mag (decimalLength m)) hs hd hb hpos ha hw
    exact ⟨t, _, isDecimal_makeDec s _ _ (decimalLength_le m), makeDec_lt _ _ _ hpos, ht, hstored⟩
  · rintro rfl
    obtain ⟨t, ht, hbytes, hframe⟩ := run_decimalStore (digits := 2 * decimalLength m - 1)
      (f := fun ansi neg mag => zonedNumber ansi neg mag (2 * decimalLength m - 1)) hs hd hb (by omega) ha hw
    exact ⟨t, ht, fun k hk => (hbytes k hk).trans (zonedNumber_byte _ _ _ hk), hframe⟩

end Sys2Proof.Proofs

namespace Sys2Proof.Proofs

open Sys2Proof Sys2Proof.Machine Sys2Proof.Laws

/-! ### What stops a decimal or byte-string instruction (44_decimal R386, R387; 60_exceptions R650, R654; D2) -/

/-- The model has no decimal instructions (D2). -/
theorem requireDecimal_model3 {s : State} (h : s.inst.model = .model3) :
    requireDecimal s = .error (.trap nonexistentTrap) s := by
  simp [requireDecimal, h]

/-- The decimal unit is absent or overridden (R654). -/
theorem requireDecimal_absent {s : State} (hm : s.inst.model ≠ .model3) (hd : s.inst.decimalUnit ≠ .present) :
    requireDecimal s = .error (.trap { loc := 0x41#8 }) s := by
  simp [requireDecimal, hm, hd]

/-- The byte-string instructions are nonexistent too on Model 3 (D2). -/
theorem requireByteString_model3 {s : State} (h : s.inst.model = .model3) :
    requireByteString s = .error (.trap nonexistentTrap) s := by
  simp [requireByteString, h]

section Unit

variable {s : State} {t : Trap} (h : requireDecimal s = .error (.trap t) s)

include h in
theorem decimalOperand_stops (m : MR) (n : Nat) (k : Access) : decimalOperand m n k s = .error (.trap t) s :=
  bind_error h _

include h in
theorem readDecimal_stops (m : MR) : readDecimal m s = .error (.trap t) s :=
  bind_error (decimalOperand_stops h m _ _) _

include h in
theorem decimalOn_stops (m : MR) (f : Bool → Nat → Nat → DecimalEnd) :
    run (decimalOn m f) s = .next (enterTrap t s) :=
  run_trap (bind_error (readDecimal_stops h m) _)

include h in
theorem decimalOnShort_stops (m : MR) (f : Bool → Nat → Nat → DecimalEnd) :
    run (decimalOnShort m f) s = .next (enterTrap t s) :=
  run_trap (bind_error (decimalOperand_stops h m _ _) _)

include h in
theorem decimalStore_stops (m : MR) (n digits : Nat) (f : Bool → Bool → Nat → Nat) :
    run (Machine.decimalStore m n digits f) s = .next (enterTrap t s) :=
  run_trap (bind_error (decimalOperand_stops h m _ _) _)

include h in
/-- Each of the eleven asks for the decimal unit before anything else. -/
theorem decimal_stops (m : MR) (b : Bs) :
    ∀ i ∈ [Instr.dl m, .da m, .ds m, .dm m, .dd m, .dc m, .dst m, .dsa m, .pack m, .unpk m, .ebs b],
      exec i s = .next (enterTrap t s) := by
  simp only [List.forall_mem_cons, List.not_mem_nil, false_implies, implies_true, and_true]
  exact ⟨decimalOn_stops h m _, decimalOn_stops h m _, decimalOn_stops h m _, decimalOnShort_stops h m _,
    decimalOnShort_stops h m _, run_trap (bind_error (readDecimal_stops h m) _), decimalStore_stops h m _ _ _,
    run_trap (bind_error h _), run_trap (bind_error (decimalOperand_stops h m _ _) _), decimalStore_stops h m _ _ _,
    run_trap (bind_error h _)⟩

end Unit

/-- An illegal accumulator is not stored (R391, R401). -/
theorem faultTaken_decimalStore {s : State} {m : MR} {b : ByteAddr} {n digits : Nat} {l0 l1 : Loc}
    {f : Bool → Bool → Nat → Nat} (hd : HasDecimal s) (hb : effAddr s m alignByte = .ok b)
    (ha : legalPacked (getDeca s).toNat = false) (h0 : locate s (wordOf b) .write = .ok l0)
    (h1 : locate s (wordOf (bytePlus s b (n - 1))) .write = .ok l1) :
    DecimalFaultTaken s (run (Machine.decimalStore m n digits f) s) true := by
  rw [Machine.decimalStore, run_bind (decimalOperand_eq_ok hd hb h0 h1), run_look, run_look,
    if_neg (by rw [ha]; exact Bool.false_ne_true)]
  exact decimalFaultTaken s true

/-- DM and DD find no number or no sign, or an operand too long to be read (R386, R394, R395). -/
theorem faultTaken_onShort_of_illegal {s : State} {m : MR} {x : Nat → Byte} {f : Bool → Nat → Nat → DecimalEnd}
    (hd : HasDecimal s) (hx : BytesRead s m (decimalLength m) x)
    (hf : f s.psd.ansi (getDeca s).toNat (numberOf x (decimalLength m)) = .illegal) :
    DecimalFaultTaken s (run (decimalOnShort m f) s) true := by
  rcases Nat.lt_or_ge 8 (decimalLength m) with hlong | hshort
  · obtain ⟨b, hb, -⟩ := operand_of_bytesRead hd hx (decimalLength_pos m)
    exact faultTaken_onShort hb hlong f
  · have hend := decimalEndsAs_onShort hd hx hshort f
    rwa [hf] at hend

/-- Settles O45: each fault is the computation's end `illegal`, or comes before the operand is read. -/
theorem decimalTraps : Obligations.DecimalTraps := by
  refine ⟨?operand, ?zoned, ?store, ?length, ?unit, ?strings⟩
  case operand =>
    intro s m n a v x hd hx hn hnum hacc
    obtain rfl : n = decimalLength m := hn
    subst hnum hacc
    simp only [List.forall_mem_cons, List.not_mem_nil, false_implies, implies_true, and_true]
    refine ⟨fun hv => ?dl, fun h => ⟨?da, ?ds, ?dc⟩, fun h => ⟨?dm, ?dd⟩⟩
    case dl =>
      have hend := decimalEndsAs_on hd hx fun ansi _ b => Machine.decimalLoad ansi b
      rwa [decimalLoad_illegal hv] at hend
    case da =>
      have hend := decimalEndsAs_on hd hx decimalAdd
      rwa [decimalAdd_illegal h] at hend
    case ds =>
      have hend := decimalEndsAs_on hd hx decimalSubtract
      rwa [decimalSubtract_illegal h] at hend
    case dc =>
      rw [exec_dc hd hx, if_neg (by rcases h with h | h <;> simp [h])]
      exact decimalFaultTaken s true
    case dm => exact faultTaken_onShort_of_illegal hd hx (decimalMultiply_illegal h)
    case dd => exact faultTaken_onShort_of_illegal hd hx (decimalDivide_illegal h)
  case zoned =>
    intro s m n x hd hx hn hv
    obtain rfl : n = 2 * decimalLength m - 1 := hn
    have hend := decimalEndsAs_pack hd hx
    rwa [decimalLoad_illegal hv] at hend
  case store =>
    intro s m b len n l0 l1 hd hb hlen ha h0 h1
    obtain rfl : len = decimalLength m := hlen
    constructor <;> rintro rfl <;> exact faultTaken_decimalStore hd hb ha h0 h1
  case length =>
    intro s m b n l0 l1 hd hb hn hlong h0 h1
    obtain rfl : n = decimalLength m := hn
    simp only [List.forall_mem_cons, List.not_mem_nil, false_implies, implies_true, and_true]
    have hoperand := decimalOperand_eq_ok hd hb h0 h1
    exact ⟨faultTaken_onShort hoperand hlong _, faultTaken_onShort hoperand hlong _⟩
  case unit =>
    exact fun s m b i hi => ⟨fun hm hd => decimal_stops (requireDecimal_absent hm hd) m b i hi,
      fun hm => decimal_stops (requireDecimal_model3 hm) m b i hi⟩
  case strings =>
    intro s b hm
    have hstop := requireByteString_model3 hm
    simp only [List.forall_mem_cons, List.not_mem_nil, false_implies, implies_true, and_true]
    exact ⟨run_trap (bind_error hstop _), run_trap (bind_error hstop _), run_trap (bind_error hstop _),
      run_trap (bind_error hstop _)⟩

end Sys2Proof.Proofs

namespace Sys2Proof.Proofs

open Sys2Proof Sys2Proof.Machine Sys2Proof.Laws

/-! ### Control words of byte strings (45_byte_string R421) -/

/-- How many bits the address field of a control word has. -/
def addressWidth (s : State) : Nat := if realExtended s then 24 else 19

theorem addressWidth_le (s : State) : addressWidth s ≤ 24 := by
  unfold addressWidth
  split <;> omega

theorem two_pow_addressWidth (s : State) : 2 ^ addressWidth s = 4 * addressSpace s := by
  unfold addressWidth addressSpace
  split <;> rfl

theorem addressField_toNat (s : State) (w : Word) : (addressField s w).toNat = w.toNat % 2 ^ addressWidth s := by
  have hlow : (w.truncate 24).toNat = w.toNat % 2 ^ 24 := BitVec.toNat_setWidth 24 w
  rw [addressField, wrapByte_toNat, byteSpace_eq, ← two_pow_addressWidth, hlow,
    Nat.mod_mod_of_dvd _ (pow_dvd_pow 2 (addressWidth_le s))]

theorem addressField_lt (s : State) (w : Word) : (addressField s w).toNat < 4 * addressSpace s := by
  rw [addressField_toNat, ← two_pow_addressWidth]
  exact Nat.mod_lt _ (Nat.two_pow_pos _)

theorem getLsbD_addressField (s : State) (w : Word) (i : Nat) :
    (addressField s w).getLsbD i = (decide (i < addressWidth s) && w.getLsbD i) := by
  rw [← BitVec.testBit_toNat, addressField_toNat, Nat.testBit_mod_two_pow, BitVec.testBit_toNat]

theorem getLsbD_withAddress (s : State) (w : Word) (a : ByteAddr) {i : Nat} (hi : i < 32) :
    (withAddress s w a).getLsbD i = if i < addressWidth s then a.getLsbD i else w.getLsbD i := by
  unfold withAddress addressWidth
  split <;> rw [BitVec.getLsbD_append]
  · split
    · rfl
    · simp [show i - 24 < 8 by omega, show 24 + (i - 24) = i by omega]
  · split
    · simp_all
    · simp [show i - 19 < 13 by omega, show 19 + (i - 19) = i by omega]

theorem getLsbD_withCount (w : Word) (c : Byte) (i : Nat) :
    (withCount w c).getLsbD i = if i < 24 then w.getLsbD i else c.getLsbD (i - 24) := by
  rw [withCount, BitVec.getLsbD_append]
  split <;> simp_all

theorem withCount_field (w : Word) : withCount w (field w 0 7) = w := by
  refine BitVec.eq_of_getLsbD_eq fun i hi => ?_
  rw [getLsbD_withCount]
  split
  · rfl
  · simp [field, show i - 24 < 8 by omega, show 24 + (i - 24) = i by omega]

theorem field_withCount (w : Word) (c : Byte) : field (withCount w c) 0 7 = c :=
  BitVec.extractLsb'_append_eq_left

theorem addressField_withCount (s : State) (w : Word) (c : Byte) :
    addressField s (withCount w c) = addressField s w := by
  refine BitVec.eq_of_getLsbD_eq fun i hi => ?_
  rw [getLsbD_addressField, getLsbD_addressField, getLsbD_withCount, if_pos hi]

theorem addressField_withAddress {s : State} {a : ByteAddr} (h : a.toNat < 4 * addressSpace s) (w : Word) :
    addressField s (withAddress s w a) = a := by
  rw [← two_pow_addressWidth] at h
  refine BitVec.eq_of_getLsbD_eq fun i hi => ?_
  rw [getLsbD_addressField, getLsbD_withAddress s w a (by omega)]
  by_cases hin : i < addressWidth s
  · simp [hin]
  · have hzero : a.getLsbD i = false :=
      Nat.testBit_lt_two_pow (h.trans_le (Nat.pow_le_pow_right (by omega) (by omega)))
    simp [hin, hzero]

/-- The address field put back where it was. -/
theorem withAddress_addressField (s : State) (w : Word) : withAddress s w (addressField s w) = w := by
  refine BitVec.eq_of_getLsbD_eq fun i hi => ?_
  rw [getLsbD_withAddress s w _ hi, getLsbD_addressField]
  split <;> simp_all

theorem withAddress_withAddress (s : State) (w : Word) (a a' : ByteAddr) :
    withAddress s (withAddress s w a) a' = withAddress s w a' := by
  refine BitVec.eq_of_getLsbD_eq fun i hi => ?_
  simp only [getLsbD_withAddress _ _ _ hi]
  by_cases hin : i < addressWidth s <;> simp [hin]

/-- Of a control word replaced twice the last address and count remain. -/
theorem withCount_withAddress_withCount (s : State) (w : Word) (a : ByteAddr) (c c' : Byte) :
    withCount (withAddress s (withCount w c) a) c' = withCount (withAddress s w a) c' := by
  refine BitVec.eq_of_getLsbD_eq fun i hi => ?_
  simp only [getLsbD_withCount, getLsbD_withAddress _ _ _ hi]
  by_cases hin : i < 24 <;> simp [hin]

end Sys2Proof.Proofs

namespace Sys2Proof.Proofs

open Sys2Proof Sys2Proof.Machine Sys2Proof.Laws

theorem wrapByte_lt (s : State) (a : ByteAddr) : (wrapByte s a).toNat < 4 * addressSpace s := by
  rw [wrapByte_toNat, byteSpace_eq, ← two_pow_addressWidth]
  exact Nat.mod_lt _ (Nat.two_pow_pos _)

/-! ### The bytes of a string (45_byte_string R421, R422) -/

/-- The source address field of byte `k`, before the displacement is added (R421, R422). -/
def sourceAt (s : State) (b : Bs) (k : Nat) : ByteAddr :=
  if b.r = 0 then 0 else bytePlus s (addressField s (getReg s b.r)) k

theorem sourceByte_eq (s : State) (b : Bs) (k : Nat) : sourceByte s b k = withDisplacement s b (sourceAt s b k) := rfl

theorem sourceAt_zero (s : State) (b : Bs) : sourceAt s b 0 = sourceField s b := by
  unfold sourceAt sourceField
  rw [bytePlus_zero (addressField_lt _ _)]

theorem sourceAt_succ (s : State) (b : Bs) (k : Nat) :
    bytePlus s (sourceAt s b k) (sourceStep b) = sourceAt s b (k + 1) := by
  unfold sourceAt sourceStep
  split
  · refine bytePlus_zero ?_
    rw [← two_pow_addressWidth]
    exact Nat.two_pow_pos _
  · exact bytePlus_bytePlus _ _ _ _

theorem destByte_zero (s : State) (b : Bs) : destByte s b 0 = destination s b := bytePlus_zero (addressField_lt _ _)

theorem destByte_succ (s : State) (b : Bs) (k : Nat) : bytePlus s (destByte s b k) 1 = destByte s b (k + 1) :=
  bytePlus_bytePlus _ _ _ _

theorem destByte_lt (s : State) (b : Bs) (k : Nat) : (destByte s b k).toNat < 4 * addressSpace s := bytePlus_lt _ _ _

theorem sourceByte_lt (s : State) (b : Bs) (k : Nat) : (sourceByte s b k).toNat < 4 * addressSpace s :=
  wrapByte_lt _ _

/-- The bytes of the source string follow its first one. -/
theorem bytePlus_sourceByte {b : Bs} (hr : b.r ≠ 0) (s : State) (k : Nat) :
    bytePlus s (sourceByte s b 0) k = sourceByte s b k := by
  have hdvd : 4 * addressSpace s ∣ 2 ^ 24 := mul_dvd_mul_left 4 (addressSpace_dvd s)
  have hbyte : ∀ j, (sourceByte s b j).toNat =
      ((addressField s (getReg s b.r)).toNat + j + (b.disp.signExtend 24).toNat) % (4 * addressSpace s) := fun j => by
    rw [sourceByte, if_neg hr, withDisplacement, wrapByte_toNat, byteSpace_eq, BitVec.toNat_add,
      Nat.mod_mod_of_dvd _ hdvd, bytePlus_toNat, Nat.mod_add_mod]
  apply BitVec.eq_of_toNat_eq
  rw [bytePlus_toNat, hbyte, hbyte, Nat.mod_add_mod]
  congr 1
  omega

theorem withDisplacement_congr {s t : State} (h : t.psd = s.psd) : withDisplacement t = withDisplacement s := by
  unfold withDisplacement wrapByte realExtended
  rw [h]

theorem addressField_congr {s t : State} (h : t.psd = s.psd) : addressField t = addressField s := by
  unfold addressField wrapByte realExtended
  rw [h]

theorem withAddress_congr {s t : State} (h : t.psd = s.psd) : withAddress t = withAddress s := by
  unfold withAddress realExtended
  rw [h]

/-! ### Registers written besides -/

/-- `t` is `s` but for the registers of `q`. -/
structure RegsWritten (q : BitVec 4 → Prop) (s t : State) : Prop where
  frame : t = { s with regs := t.regs }
  kept : ∀ r, ¬ q r → getReg t r = getReg s r
  blocks : OtherBlocksKept s t

namespace RegsWritten

variable {q : BitVec 4 → Prop} {s t u : State}

theorem psd (h : RegsWritten q s t) : t.psd = s.psd := by
  rw [h.frame]

theorem refl (q : BitVec 4 → Prop) (s : State) : RegsWritten q s s := ⟨rfl, fun _ _ => rfl, fun _ _ _ => rfl⟩

theorem setReg (h : RegsWritten q s t) {n : BitVec 4} (hn : q n) (w : Word) : RegsWritten q s (setReg n w t) where
  frame := by rw [h.frame]; rfl
  kept r hr := (getReg_setReg_ne (by rintro rfl; exact hr hn) w t).trans (h.kept r hr)
  blocks := otherBlocksKept_writeLoc h.blocks (by rw [h.psd]) (.reg n) w

theorem trans (h : RegsWritten q s t) (k : RegsWritten q t u) : RegsWritten q s u where
  frame := k.frame.trans (by rw [h.frame])
  kept r hr := (k.kept r hr).trans (h.kept r hr)
  blocks := otherBlocksKept_trans h.blocks k.blocks (by rw [h.psd])

theorem mono {q' : BitVec 4 → Prop} (h : RegsWritten q s t) (hq : ∀ r, q r → q' r) : RegsWritten q' s t :=
  ⟨h.frame, fun r hr => h.kept r fun e => hr (hq r e), h.blocks⟩

/-- The registers of `q` are all that two such states can differ in. -/
theorem ext (h : RegsWritten q s t) (k : RegsWritten q s u) (hq : ∀ r, q r → getReg t r = getReg u r) : t = u := by
  have hregs : t.regs = u.regs := Vector.ext fun i hi => by
    obtain ⟨b, n, rfl⟩ : ∃ (b : BitVec 2) (n : BitVec 4), i = (b ++ n : BitVec 6).toNat :=
      ⟨BitVec.ofNat 2 (i / 16), BitVec.ofNat 4 i, by
        rw [BitVec.toNat_append, ← Nat.shiftLeft_add_eq_or_of_lt (by simp; omega), Nat.shiftLeft_eq]
        simp
        omega⟩
    by_cases hb : b = s.psd.rp.extractLsb' 0 2
    · have hreg : getReg t n = getReg u n := by
        by_cases hn : q n
        · exact hq n hn
        · rw [h.kept n hn, k.kept n hn]
      subst hb
      have ht : regIndex t.psd n = (s.psd.rp.extractLsb' 0 2 ++ n : BitVec 6).toNat := by rw [h.psd]; rfl
      have hu : regIndex u.psd n = (s.psd.rp.extractLsb' 0 2 ++ n : BitVec 6).toNat := by rw [k.psd]; rfl
      simpa only [getReg, ht, hu] using hreg
    · rw [h.blocks b n hb, k.blocks b n hb]
  rw [h.frame, k.frame, hregs]

/-- What is read at an address that is none of these registers'. -/
theorem readByte_eq (h : RegsWritten q s t) {x : ByteAddr} (hx : ∀ r, q r → wordOf x ≠ r.zeroExtend 22) :
    readByte t x = readByte s x := by
  have hlocate : locate t (wordOf x) .read = locate s (wordOf x) .read := by rw [h.frame]; rfl
  have hword : readWord t (wordOf x) = readWord s (wordOf x) := by
    unfold readWord
    rw [hlocate]
    split
    · rename_i l hl
      cases l with
      | reg n =>
        have hn : ¬ q n := fun hq => ne_reg_of_locate hl (hx n hq) rfl
        exact congrArg Except.ok (h.kept n hn)
      | mem a => rw [h.frame]; rfl
    · rfl
  unfold readByte
  rw [hword]

end RegsWritten

/-! ### Progress of a byte string (R424, R426, R428) -/

theorem ru1_of_odd {r : BitVec 4} (h : oddR r = true) : ru1 r = r := by
  unfold ru1 oddR at *
  revert r
  decide

/-- The registers in which a byte-string instruction keeps its progress: Ru1, and with `both` also a nonzero R. -/
def Control (b : Bs) (both : Bool) (r : BitVec 4) : Prop := (both = true ∧ r = b.r ∧ r ≠ 0) ∨ r = ru1 b.r

theorem control_ru1 (b : Bs) (both : Bool) : Control b both (ru1 b.r) := .inr rfl

theorem control_both (b : Bs) : Control b true = fun r => r = b.r ∧ r ≠ 0 ∨ r = ru1 b.r := by
  funext r
  simp [Control]

theorem control_ru1_only (b : Bs) : Control b false = fun r => r = ru1 b.r := by
  funext r
  simp [Control]

theorem ne_control_of_apart {b : Bs} {x : ByteAddr} {both : Bool} (h : Apart b x both) {r : BitVec 4}
    (hr : Control b both r) : wordOf x ≠ r.zeroExtend 22 := by
  obtain ⟨hru1, hr'⟩ := h
  rcases hr with ⟨hboth, rfl, hne⟩ | rfl
  · exact hr' hboth hne
  · exact hru1

/-- The place of a byte apart from the control registers is none of them. -/
theorem place_ne_control {b : Bs} {x : ByteAddr} {both : Bool} (h : Apart b x both) {s : State} {k : Access} {l : Loc}
    (hl : locate s (wordOf x) k = .ok l) {r : BitVec 4} (hr : Control b both r) : l ≠ .reg r :=
  ne_reg_of_locate hl (ne_control_of_apart h hr)

theorem regsWritten_putDestination (b : Bs) (both : Bool) (da : ByteAddr) (c : Byte) (s : State) :
    RegsWritten (Control b both) s (putDestination b da c s) :=
  (RegsWritten.refl _ s).setReg (control_ru1 b both) _

/-- In case I, R holds the source address. -/
theorem putProgress_eq (b : Bs) (sa da : ByteAddr) (c : Byte) (s : State) : putProgress b sa da c s =
    if b.r = 0 ∨ oddR b.r = true then putDestination b da c s
    else setReg b.r (withAddress s (getReg (putDestination b da c s) b.r) sa) (putDestination b da c s) := rfl

theorem regsWritten_putProgress (b : Bs) (sa da : ByteAddr) (c : Byte) (s : State) :
    RegsWritten (Control b true) s (putProgress b sa da c s) := by
  have hdest := regsWritten_putDestination b true da c s
  rw [putProgress_eq]
  split
  · exact hdest
  · rename_i hr
    exact hdest.setReg (.inl ⟨rfl, rfl, fun e => hr (.inl e)⟩) _

section Advanced

variable {s t u : State} {b : Bs} {n j : Nat} {both : Bool}

/-- No byte has been done yet. -/
theorem advanced_start (h : countIs s b n) : Advanced s s b n 0 both := by
  have hcount : BitVec.ofNat 8 (n - 0) = field (getReg s (ru1 b.r)) 0 7 := by
    rw [← h, Nat.sub_zero]
    exact BitVec.ofNat_toNat _ _ |>.trans (BitVec.setWidth_eq _)
  refine ⟨?_, fun _ _ _ => ?_⟩
  · rw [hcount, destByte_zero, destination, withAddress_addressField, withCount_field]
  · rw [bytePlus_zero (addressField_lt _ _), withAddress_addressField]

theorem advanced_congr (h : Advanced s t b n j both) (hr : ∀ r, Control b both r → getReg u r = getReg t r) :
    Advanced s u b n j both := by
  obtain ⟨hru1, hsource⟩ := h
  exact ⟨(hr _ (control_ru1 b both)).trans hru1,
    fun hb h0 he => (hr _ (.inl ⟨hb, rfl, h0⟩)).trans (hsource hb h0 he)⟩

/-- The progress determines the control registers. -/
theorem getReg_eq_of_advanced (h : Advanced s t b n j both) (k : Advanced s u b n j both) {r : BitVec 4}
    (hr : Control b both r) : getReg t r = getReg u r := by
  obtain ⟨ht, ht'⟩ := h
  obtain ⟨hu, hu'⟩ := k
  rcases hr with ⟨hb, rfl, h0⟩ | rfl
  · cases hodd : oddR b.r with
    | false => rw [ht' hb h0 hodd, hu' hb h0 hodd]
    | true => rw [← ru1_of_odd hodd, ht, hu]
  · rw [ht, hu]

/-- Ru1 written back after one more byte. -/
theorem getReg_putDestination (h : Advanced s t b n j both) (hp : t.psd = s.psd) :
    getReg (putDestination b (destByte s b (j + 1)) (BitVec.ofNat 8 (n - (j + 1))) t) (ru1 b.r) =
      withCount (withAddress s (getReg s (ru1 b.r)) (destByte s b (j + 1))) (BitVec.ofNat 8 (n - (j + 1))) := by
  rw [putDestination, getReg_setReg_same, h.1, withAddress_congr hp, withCount_withAddress_withCount,
    withAddress_withAddress]

theorem advanced_putDestination (h : Advanced s t b n j false) (hp : t.psd = s.psd) :
    Advanced s (putDestination b (destByte s b (j + 1)) (BitVec.ofNat 8 (n - (j + 1))) t) b n (j + 1) false :=
  ⟨getReg_putDestination h hp, fun e => absurd e (by decide)⟩

theorem advanced_putProgress (h : Advanced s t b n j true) (hp : t.psd = s.psd) :
    Advanced s (putProgress b (sourceAt s b (j + 1)) (destByte s b (j + 1)) (BitVec.ofNat 8 (n - (j + 1))) t)
      b n (j + 1) true := by
  have hdest := getReg_putDestination h hp
  rw [putProgress_eq]
  split
  · rename_i hr
    exact ⟨hdest, fun _ h0 he => absurd hr (not_or.2 ⟨h0, by simp [he]⟩)⟩
  · rename_i hr
    rw [not_or, Bool.not_eq_true] at hr
    obtain ⟨h0, he⟩ := hr
    have hne := ru1_ne_of_even he
    refine ⟨(getReg_setReg_ne hne _ _).trans hdest, fun _ _ _ => ?_⟩
    rw [getReg_setReg_same, putDestination, getReg_setReg_ne hne.symm, h.2 rfl h0 he, withAddress_congr hp,
      withAddress_withAddress, sourceAt, if_neg h0]

/-! The string that is left after `j` bytes. -/

theorem countIs_of_advanced (h : Advanced s t b n j both) (hn : n < 256) : countIs t b (n - j) := by
  rw [countIs, h.1, field_withCount, BitVec.toNat_ofNat, Nat.mod_eq_of_lt (by omega)]

theorem addressField_of_advanced (h : Advanced s t b n j both) (hp : t.psd = s.psd) :
    addressField t (getReg t (ru1 b.r)) = destByte s b j := by
  rw [addressField_congr hp, h.1, addressField_withCount, addressField_withAddress (destByte_lt s b j)]

theorem destByte_of_advanced (h : Advanced s t b n j both) (hp : t.psd = s.psd) (k : Nat) :
    destByte t b k = destByte s b (j + k) := by
  rw [destByte, addressField_of_advanced h hp, bytePlus_congr hp]
  exact bytePlus_bytePlus _ _ _ _

theorem sourceAt_of_advanced (h : Advanced s t b n j true) (hp : t.psd = s.psd) (k : Nat) :
    sourceAt t b k = sourceAt s b (j + k) := by
  unfold sourceAt
  split
  · rfl
  · rename_i h0
    have hfield : addressField t (getReg t b.r) = bytePlus s (addressField s (getReg s b.r)) j := by
      cases hodd : oddR b.r with
      | false => rw [h.2 rfl h0 hodd, addressField_congr hp, addressField_withAddress (bytePlus_lt _ _ _)]
      | true =>
        have hself : ru1 b.r = b.r := ru1_of_odd hodd
        have hru1 := addressField_of_advanced h hp
        rwa [hself, destByte, hself] at hru1
    rw [hfield, bytePlus_congr hp, bytePlus_bytePlus]

theorem sourceByte_of_advanced (h : Advanced s t b n j true) (hp : t.psd = s.psd) (k : Nat) :
    sourceByte t b k = sourceByte s b (j + k) := by
  rw [sourceByte_eq, sourceByte_eq, sourceAt_of_advanced h hp, withDisplacement_congr hp]

end Advanced

end Sys2Proof.Proofs

namespace Sys2Proof.Proofs

open Sys2Proof Sys2Proof.Machine Sys2Proof.Laws

/-! ### Bytes read and stored along a string -/

/-- Write access to a page carries read access with it (20_memory R128, R130). -/
theorem locate_read_of_write {s : State} {v : WordAddr} {l : Loc} (h : locate s v .write = .ok l) :
    locate s v .read = .ok l := by
  rcases locate_cases h with ⟨hv, rfl⟩ | ⟨hv, rfl, hmem, hprot, -⟩
  · exact locate_register hv .read
  · have hread : ∀ code : BitVec 2, allowed code .write = true → allowed code .read = true := by decide
    have hviolation : (protectionOn s && !allowed (accOf s (pageOf v)) .read) = false := by
      cases hp : protectionOn s with
      | false => rfl
      | true => rw [hread _ (hprot hp)]; rfl
    have hkey : (Access.read == Access.write) = false := rfl
    unfold locate locateMemory
    rw [if_neg (by omega)]
    dsimp only
    rw [hviolation, hmem, hkey]
    rfl

theorem readByte_eq_ok {s : State} {x : ByteAddr} {l : Loc} (h : locate s (wordOf x) .read = .ok l)
    (hl : Sound s l) : readByte s x = .ok (byteAt s l (x.extractLsb' 0 2)) := by
  have hread : readLoc s l = .ok (wordAt s l) := readLocNoting_sound hl swReadParity
  simp [readByte, readWord, h, hread, byteAt]

/-- What the access path consults is outside the data. -/
theorem locate_of_onlyData {s t : State} (hd : OnlyData s t) (hp : t.psd = s.psd) (v : WordAddr) (k : Access) :
    locate t v k = locate s v k := by
  rw [hd, hp]
  rfl

/-- A byte that is none of those stored into, of no register written besides, holds what it held. -/
theorem byteAt_of_bytesKeptBut_apart {s t : State} {p : Loc → BitVec 2 → Prop} {q : BitVec 4 → Prop}
    (h : BytesKeptBut s t p q) {l : Loc} {k : BitVec 2} (hl : ¬ p l k) (hq : ∀ n, q n → l ≠ .reg n) :
    byteAt t l k = byteAt s l k := by
  obtain ⟨hm, hr, -⟩ := h
  cases l with
  | reg n => exact hr n k hl fun hn => hq n hn rfl
  | mem a =>
    rw [byteAt_mem, byteAt_mem]
    refine hm _ fun b j hj e => hl ?_
    have hk := k.isLt
    have hj' := j.isLt
    rwa [BitVec.eq_of_toNat_eq (by omega : a.toNat = b.toNat), BitVec.eq_of_toNat_eq (by omega : k.toNat = j.toNat)]

theorem bytesKeptBut_of_regsWritten {q : BitVec 4 → Prop} {s t : State} (h : RegsWritten q s t)
    (p : Loc → BitVec 2 → Prop) : BytesKeptBut s t p q :=
  ⟨fun x _ => by rw [h.frame], fun n k _ hn => by rw [h.kept n hn], h.blocks⟩

/-- `t` is `s` with the bytes `x` stored at the first `j` of the byte addresses `p`, whose places are `l`, and with
registers of `q` written besides. -/
structure StringStored (q : BitVec 4 → Prop) (s t : State) (p : Nat → ByteAddr) (j : Nat) (l : Nat → Loc)
    (x : Nat → Byte) : Prop where
  bytes : ∀ k, k < j → byteAt t (l k) ((p k).extractLsb' 0 2) = x k
  kept : BytesKeptBut s t (fun a i => ∃ k, k < j ∧ a = l k ∧ i = (p k).extractLsb' 0 2) q
  data : OnlyData s t
  psd : t.psd = s.psd
  canonical : MemCanonical t
  sound : ∀ a, Sound s a → Sound t a

namespace StringStored

variable {q : BitVec 4 → Prop} {s t u : State} {p : Nat → ByteAddr} {j : Nat} {l : Nat → Loc} {x : Nat → Byte}

theorem start (hs : MemCanonical s) : StringStored q s s p 0 l x :=
  ⟨fun _ hk => absurd hk (by omega), bytesKeptBut_refl s _ _, rfl, rfl, hs, fun _ h => h⟩

theorem inst (h : StringStored q s t p j l x) : t.inst = s.inst := by
  rw [h.data]

theorem locate (h : StringStored q s t p j l x) (v : WordAddr) (k : Access) :
    Machine.locate t v k = Machine.locate s v k :=
  locate_of_onlyData h.data h.psd v k

/-- The next byte stored, at none of the places before. -/
theorem store (h : StringStored q s t p j l x)
    (hne : ∀ k, k < j → ¬ (l k = l j ∧ (p k).extractLsb' 0 2 = (p j).extractLsb' 0 2)) :
    StringStored q s (writeLocByte (l j) ((p j).extractLsb' 0 2) (x j) t) p (j + 1) l x where
  bytes k hk := by
    rcases Nat.lt_succ_iff_lt_or_eq.1 hk with hlt | rfl
    · rw [← h.bytes k hlt]
      exact byteAt_of_bytesKeptBut (bytesKeptBut_writeLocByte (p := fun a i => a = l j ∧ i = (p j).extractLsb' 0 2)
        h.canonical ⟨rfl, rfl⟩ _ _) (hne k hlt)
    · exact byteAt_writeLocByte h.canonical _ _ _
  kept := bytesKeptBut_trans (bytesKeptBut_mono h.kept fun _ _ ⟨k, hk, e⟩ => ⟨k, by omega, e⟩)
    (bytesKeptBut_writeLocByte h.canonical ⟨j, by omega, rfl, rfl⟩ _ _) (by rw [h.psd])
  data := onlyData_trans h.data (writeLoc_onlyData _ _ _)
  psd := (writeLoc_psd _ _ _).trans h.psd
  canonical := memCanonical_writeLoc h.canonical _ _
  sound a ha := sound_writeLoc (h.sound a ha) _ _

/-- Registers written that are none of the places. -/
theorem regs (h : StringStored q s t p j l x) (hr : RegsWritten q t u) (hl : ∀ k, k < j → ∀ n, q n → l k ≠ .reg n) :
    StringStored q s u p j l x where
  bytes k hk := by
    rw [← h.bytes k hk]
    exact byteAt_of_bytesKeptBut_apart (bytesKeptBut_of_regsWritten hr fun _ _ => False) id (hl k hk)
  kept := bytesKeptBut_trans h.kept (bytesKeptBut_of_regsWritten hr _) (by rw [h.psd])
  data := onlyData_trans h.data (by rw [hr.frame]; rfl)
  psd := hr.psd.trans h.psd
  canonical := by rw [hr.frame]; exact h.canonical
  sound a ha := by
    have hsound := h.sound a ha
    rw [hr.frame]
    cases a <;> exact hsound

/-- A readable byte that is none of those stored into. -/
theorem readByte_apart (h : StringStored q s t p j l x) {y : ByteAddr} {a : Loc}
    (ha : Machine.locate s (wordOf y) .read = .ok a) (hs : Sound s a)
    (hne : ∀ k, k < j → ¬ (a = l k ∧ y.extractLsb' 0 2 = (p k).extractLsb' 0 2)) (hq : ∀ n, q n → a ≠ .reg n) :
    readByte t y = .ok (byteAt s a (y.extractLsb' 0 2)) := by
  rw [readByte_eq_ok ((h.locate _ _).trans ha) (h.sound a hs)]
  congr 1
  exact byteAt_of_bytesKeptBut_apart h.kept (fun ⟨k, hk, e⟩ => hne k hk e) hq

/-- A writable byte. -/
theorem writeByte_ok (h : StringStored q s t p j l x) {y : ByteAddr} {a : Loc}
    (ha : Machine.locate s (wordOf y) .write = .ok a) (hs : Sound s a) (v : Byte) :
    writeByte t y v = .ok (writeLocByte a (y.extractLsb' 0 2) v t) :=
  writeByte_eq_ok ((h.locate _ _).trans ha) (h.sound a hs) v

/-- The string stands when the instruction goes on. -/
theorem advance {n : Nat} (h : StringStored q s t p n l x) :
    BytesStored s (advance t) p n l x q s.psd.cc1 s.psd.cc2 s.psd.cc3 s.psd.cc4 := by
  have hia : nextIa t = nextIa s := by
    unfold nextIa incrementedIa realExtended
    rw [h.inst, h.psd]
  have hadv : Machine.advance t = { t with psd := { s.psd with ia := nextIa s } } := by
    rw [← hia, ← h.psd]
    rfl
  have hrp : ({ s.psd with ia := nextIa s } : Psd).rp = t.psd.rp := by rw [h.psd]
  rw [hadv]
  exact ⟨fun k hk => (congrArg (byteOf · _) (wordAt_withPsd hrp (l k))).trans (h.bytes k hk),
    bytesKeptBut_trans h.kept (bytesKeptBut_withPsd hrp _ _) (by rw [h.psd]), onlyData_trans h.data rfl, rfl⟩

end StringStored

/-! ### The start of a byte-string instruction (R422, R423) -/

theorem testByteEnds_ok {s : State} {b : ByteAddr} {n : Nat} {k : Access} {l0 l1 : Loc}
    (h0 : locate s (wordOf b) k = .ok l0) (h1 : locate s (wordOf (bytePlus s b (n - 1))) k = .ok l1) :
    testByteEnds b n k s = .ok () s :=
  (bind_ok (need_ok (testAccess_eq_ok h0)) _).trans
    (need_ok (f := fun s => testAccess s (wordOf (bytePlus s b (n - 1))) k) (testAccess_eq_ok h1))

section Start

variable {s : State} {b : Bs} {n : Nat}

theorem countOf_toNat (hn : countIs s b n) : (countOf s b).toNat = n := hn

theorem count_lt (hn : countIs s b n) : n < 256 := hn ▸ BitVec.isLt _

theorem testDestination_ok {k : Access} (hn : countIs s b n)
    (hdest : ∀ i, i < n → ∃ l, locate s (wordOf (destByte s b i)) k = .ok l) :
    testDestination b k s = .ok () s := by
  unfold testDestination
  rw [bind_look, countOf_toNat hn]
  split
  · rfl
  · obtain ⟨l0, h0⟩ := hdest 0 (by omega)
    obtain ⟨l1, h1⟩ := hdest (n - 1) (by omega)
    rw [destByte_zero] at h0
    exact testByteEnds_ok h0 h1

theorem testStrings_ok {k : Access} (hn : countIs s b n)
    (hsource : ∀ i, i < n → ∃ l, locate s (wordOf (sourceByte s b i)) .read = .ok l)
    (hdest : ∀ i, i < n → ∃ l, locate s (wordOf (destByte s b i)) k = .ok l) : testStrings b k s = .ok () s := by
  have htest := testDestination_ok hn hdest
  unfold testDestination at htest
  unfold testStrings
  rw [bind_look, countOf_toNat hn] at htest ⊢
  split
  · rfl
  · rename_i hpos
    rw [if_neg hpos] at htest
    obtain ⟨l0, h0⟩ := hsource 0 (by omega)
    have hlast : ∃ l,
        locate s (wordOf (bytePlus s (sourceByte s b 0) ((if b.r = 0 then 1 else n) - 1))) .read = .ok l := by
      split
      · rw [Nat.sub_self, bytePlus_zero (sourceByte_lt s b 0)]
        exact ⟨l0, h0⟩
      · rename_i h0
        rw [bytePlus_sourceByte h0]
        exact hsource (n - 1) (by omega)
    obtain ⟨l1, h1⟩ := hlast
    rw [bind_look, bind_look, ← sourceAt_zero, ← sourceByte_eq, bind_ok (testByteEnds_ok h0 h1)]
    exact htest

theorem exec_mbs (hm : s.inst.model ≠ .model3) (hn : countIs s b n) (htest : testStrings b .write s = .ok () s) :
    exec (.mbs b) s = run (do
      moveBytes false b (sourceAt s b 0) (destByte s b 0) n
      done) s := by
  have hexec : exec (.mbs b) s = execMbs b s := rfl
  rw [hexec, execMbs, run_bind (requireByteString_ok hm), run_bind htest, run_look, run_look,
    run_look, countOf_toNat hn, sourceAt_zero, destByte_zero]

theorem exec_cbs (hm : s.inst.model ≠ .model3) (hn : countIs s b n) (htest : testStrings b .read s = .ok () s) :
    exec (.cbs b) s = run (do
      compareBytes false b (sourceAt s b 0) (destByte s b 0) n
      done) s := by
  have hexec : exec (.cbs b) s = execCbs b s := rfl
  rw [hexec, execCbs, run_bind (requireByteString_ok hm), run_bind htest, run_look, run_look,
    run_look, countOf_toNat hn, sourceAt_zero, destByte_zero]

theorem exec_tbs (hm : s.inst.model ≠ .model3) (he : oddR b.r = false) (hn : countIs s b n)
    (htest : testDestination b .write s = .ok () s) :
    exec (.tbs b) s = run (do
      translateBytes false b (sourceAt s b 0) (destByte s b 0) n
      done) s := by
  have hexec : exec (.tbs b) s = execTbs b s := rfl
  rw [hexec, execTbs, run_bind (requireByteString_ok hm), run_requireEven he, run_bind htest, run_look, run_look,
    run_look, countOf_toNat hn, sourceAt_zero, destByte_zero]

theorem exec_ttbs {mask : Byte} (hm : s.inst.model ≠ .model3) (he : oddR b.r = false) (hn : countIs s b n)
    (hmask : mask = if b.r = 0 then 0xFF#8 else field (getReg s b.r) 0 7)
    (htest : testDestination b .read s = .ok () s) :
    exec (.ttbs b) s = run (do
      translateTest false b mask (sourceAt s b 0) (destByte s b 0) n
      done) s := by
  have hexec : exec (.ttbs b) s = execTtbs b s := rfl
  have hmask' : (if b.r = 0 then 0xFF#8 else (getReg s b.r).extractLsb' 24 8) = mask := hmask.symm
  rw [hexec, execTtbs, run_bind (requireByteString_ok hm), run_requireEven he, run_bind htest, run_look, hmask',
    run_look, run_look, run_look, countOf_toNat hn, sourceAt_zero, destByte_zero]

end Start

/-! ### One byte of each loop (R424, R426, R428, R430) -/

section Steps

variable {t t' : State} {b : Bs} {sa da : ByteAddr} {n : Nat} (altered : Bool)

theorem moveBytes_succ {x : Byte} (hread : readByte t (withDisplacement t b sa) = .ok x)
    (hwrite : writeByte t da x = .ok t') : moveBytes altered b sa da (n + 1) t =
      moveBytes true b (bytePlus t' sa (sourceStep b)) (bytePlus t' da 1) n
        (putProgress b (bytePlus t' sa (sourceStep b)) (bytePlus t' da 1) (BitVec.ofNat 8 n) t') := by
  have hact : (do
      let x ← need (fun s => readByte s (withDisplacement s b sa))
      commit (fun s => writeByte s da x) : Act Unit) t = .ok () t' :=
    (bind_ok (need_ok hread) _).trans (commit_ok hwrite)
  rw [moveBytes, bind_ok (onceAltered_ok altered hact), bind_look, bind_look, bind_change]

theorem compareBytes_read {x y : Byte} (hx : readByte t (withDisplacement t b sa) = .ok x)
    (hy : readByte t da = .ok y) : (do
      let x ← need (fun s => readByte s (withDisplacement s b sa))
      let y ← need (fun s => readByte s da)
      pure (x, y) : Act (Byte × Byte)) t = .ok (x, y) t :=
  (bind_ok (need_ok hx) _).trans ((bind_ok (need_ok (f := (readByte · da)) hy) _).trans rfl)

theorem compareBytes_succ_eq {x : Byte} (hx : readByte t (withDisplacement t b sa) = .ok x)
    (hy : readByte t da = .ok x) : compareBytes altered b sa da (n + 1) t =
      compareBytes true b (bytePlus t sa (sourceStep b)) (bytePlus t da 1) n
        (putProgress b (bytePlus t sa (sourceStep b)) (bytePlus t da 1) (BitVec.ofNat 8 n) t) := by
  rw [compareBytes, bind_ok (onceAltered_ok altered (compareBytes_read hx hy))]
  exact congrFun (if_pos rfl) t

theorem compareBytes_succ_ne {x y : Byte} (hx : readByte t (withDisplacement t b sa) = .ok x)
    (hy : readByte t da = .ok y) (hne : x ≠ y) : compareBytes altered b sa da (n + 1) t =
      .ok () (orderCC34 (decide (x.toNat < y.toNat)) (decide (y.toNat < x.toNat)) t) := by
  rw [compareBytes, bind_ok (onceAltered_ok altered (compareBytes_read hx hy))]
  exact congrFun (if_neg hne) t

theorem translateBytes_succ {y z : Byte} (hy : readByte t da = .ok y) (hz : translate t b sa y = .ok z)
    (hwrite : writeByte t da z = .ok t') : translateBytes altered b sa da (n + 1) t =
      translateBytes true b sa (bytePlus t' da 1) n
        (putDestination b (bytePlus t' da 1) (BitVec.ofNat 8 n) t') := by
  have hact : (do
      let d ← need (fun s => readByte s da)
      let t ← need (fun s => translate s b sa d)
      commit (fun s => writeByte s da t) : Act Unit) t = .ok () t' :=
    (bind_ok (need_ok hy) _).trans ((bind_ok (need_ok (f := (translate · b sa y)) hz) _).trans (commit_ok hwrite))
  rw [translateBytes, bind_ok (onceAltered_ok altered hact), bind_look, bind_change]

theorem translateTest_read {y z : Byte} (hy : readByte t da = .ok y) (hz : translate t b sa y = .ok z) : (do
      let d ← need (fun s => readByte s da)
      need (fun s => translate s b sa d) : Act Byte) t = .ok z t :=
  (bind_ok (need_ok hy) _).trans (need_ok (f := (translate · b sa y)) hz)

theorem translateTest_succ_zero {mask y z : Byte} (hy : readByte t da = .ok y) (hz : translate t b sa y = .ok z)
    (hmask : z &&& mask = 0) : translateTest altered b mask sa da (n + 1) t =
      translateTest true b mask sa (bytePlus t da 1) n
        (putDestination b (bytePlus t da 1) (BitVec.ofNat 8 n) t) := by
  rw [translateTest, bind_ok (onceAltered_ok altered (translateTest_read hy hz))]
  exact congrFun (if_pos hmask) t

theorem translateTest_succ_ne {mask y z : Byte} (hy : readByte t da = .ok y) (hz : translate t b sa y = .ok z)
    (hmask : z &&& mask ≠ 0) : translateTest altered b mask sa da (n + 1) t =
      .ok () (setCC4 true (if b.r = 0 then t else setReg b.r (withCount (getReg t b.r) (z &&& mask)) t)) := by
  rw [translateTest, bind_ok (onceAltered_ok altered (translateTest_read hy hz))]
  exact congrFun (if_neg hmask) t

end Steps

end Sys2Proof.Proofs

namespace Sys2Proof.Proofs

open Sys2Proof Sys2Proof.Machine Sys2Proof.Laws

/-- Two parts that do the same go on alike. -/
theorem run_bind_congr {a a' : Act Unit} {s s' : State} (h : a s = a' s') (k : Unit → Act Unit) :
    run (a >>= k) s = run (a' >>= k) s' := by
  unfold run
  rw [bind_apply, bind_apply, h]

/-! ### MBS (45_byte_string R424) -/

/-- Going on leaves the control registers as they are. -/
theorem advanced_advance {s t : State} {b : Bs} {n j : Nat} {both : Bool} (h : Advanced s t b n j both) :
    Advanced s (advance t) b n j both :=
  advanced_congr h fun _ _ => rfl

/-- A byte stored apart from the control registers leaves the progress as it was. -/
theorem advanced_writeLocByte {s t : State} {b : Bs} {n j : Nat} {both : Bool} (h : Advanced s t b n j both) {l : Loc}
    (hl : ∀ r, Control b both r → l ≠ .reg r) (k : BitVec 2) (x : Byte) :
    Advanced s (writeLocByte l k x t) b n j both :=
  advanced_congr h fun _ hr => getReg_writeLoc_ne (hl _ hr) _ _

/-- The first byte of a string stored, and no progress noted yet. -/
theorem first_stored {s s1 : State} {b : Bs} {n : Nat} {both : Bool} {dst : Nat → Loc} {x : Byte} (hs : MemCanonical s)
    (hn : countIs s b n) (hloc : locate s (wordOf (destByte s b 0)) .write = .ok (dst 0)) (hsound : Sound s (dst 0))
    (hdst : ∀ r, Control b both r → dst 0 ≠ .reg r) (hwrite : writeByte s (destByte s b 0) x = .ok s1) :
    StringStored (Control b both) s s1 (destByte s b) 1 dst (fun _ => x) ∧ Advanced s s1 b n 0 both := by
  have hs1 : s1 = writeLocByte (dst 0) ((destByte s b 0).extractLsb' 0 2) x s :=
    Except.ok.inj (hwrite.symm.trans (writeByte_eq_ok hloc hsound x))
  have hstart : StringStored (Control b both) s s (destByte s b) 0 dst fun _ => x := StringStored.start hs
  have hfirst := hstart.store fun k hk => absurd hk (by omega)
  have hadv : Advanced s s b n 0 both := advanced_start hn
  rw [hs1]
  exact ⟨hfirst, advanced_writeLocByte hadv hdst _ _⟩

/-- The bytes that are left of a destination can be written as before. -/
theorem rest_of_destination {q : BitVec 4 → Prop} {s t : State} {b : Bs} {n i j k : Nat} {both : Bool}
    {l : Nat → Loc} {x : Nat → Byte} {a : Loc} {c : Access} (hstored : StringStored q s t (destByte s b) i l x)
    (hadv : Advanced s t b n j both)
    (h : locate s (wordOf (destByte s b (j + k))) c = .ok a ∧ Sound s a) :
    locate t (wordOf (destByte t b k)) c = .ok a ∧ Sound t a := by
  rw [destByte_of_advanced hadv hstored.psd, hstored.locate]
  exact ⟨h.1, hstored.sound _ h.2⟩

/-- The bytes that are left of a source can be read as before. -/
theorem rest_of_source {q : BitVec 4 → Prop} {s t : State} {b : Bs} {n i j k : Nat} {p : Nat → ByteAddr}
    {l : Nat → Loc} {x : Nat → Byte} {a : Loc} (hstored : StringStored q s t p i l x) (hadv : Advanced s t b n j true)
    (h : locate s (wordOf (sourceByte s b (j + k))) .read = .ok a ∧ Sound s a) :
    locate t (wordOf (sourceByte t b k)) .read = .ok a ∧ Sound t a := by
  rw [sourceByte_of_advanced hadv hstored.psd, hstored.locate]
  exact ⟨h.1, hstored.sound _ h.2⟩

section Move

variable {s t : State} {b : Bs} {n j m : Nat} {src dst : Nat → Loc} {x : Nat → Byte}

/-- The bytes that are left are moved (R424). -/
theorem moveBytes_stores (hsource : ∀ k, k < n → locate s (wordOf (sourceByte s b k)) .read = .ok (src k) ∧
      Sound s (src k) ∧ byteAt s (src k) ((sourceByte s b k).extractLsb' 0 2) = x k ∧
      Apart b (sourceByte s b k) true ∧ Apart b (destByte s b k) true)
    (hdest : BytesWritable s (destByte s b) n dst)
    (hne : ∀ j k, j < n → k < n →
      ¬ (src j = dst k ∧ (sourceByte s b j).extractLsb' 0 2 = (destByte s b k).extractLsb' 0 2))
    (altered : Bool) (hj : j + m = n) (hstored : StringStored (Control b true) s t (destByte s b) j dst x)
    (hadv : Advanced s t b n j true) :
    ∃ u, moveBytes altered b (sourceAt s b j) (destByte s b j) m t = .ok () u ∧
      StringStored (Control b true) s u (destByte s b) n dst x ∧ Advanced s u b n n true := by
  obtain ⟨hplace, hdistinct⟩ := hdest
  have hapart : ∀ k, k < n → ∀ r, Control b true r → dst k ≠ .reg r := fun k hk r hr => by
    obtain ⟨-, -, -, -, hapart⟩ := hsource k hk
    exact place_ne_control hapart (hplace k hk).1 hr
  induction m generalizing j t altered with
  | zero =>
    obtain rfl : j = n := by omega
    exact ⟨t, rfl, hstored, hadv⟩
  | succ m ih =>
    have hlt : j < n := by omega
    obtain ⟨hloc, hsound, hbyte, hsapart, -⟩ := hsource j hlt
    obtain ⟨hwloc, hwsound⟩ := hplace j hlt
    have hread : readByte t (withDisplacement t b (sourceAt s b j)) = .ok (x j) := by
      rw [withDisplacement_congr hstored.psd, ← hbyte]
      exact hstored.readByte_apart hloc hsound (fun k hk => hne j k hlt (by omega))
        fun r hr => place_ne_control hsapart hloc hr
    have hstored' := hstored.store fun k hk => hdistinct k j hk hlt
    have hadv' := advanced_writeLocByte hadv (hapart j hlt) ((destByte s b j).extractLsb' 0 2) (x j)
    have hcount : m = n - (j + 1) := by omega
    rw [moveBytes_succ altered hread (hstored.writeByte_ok hwloc hwsound (x j)), bytePlus_congr hstored'.psd,
      sourceAt_succ, destByte_succ, congrArg (BitVec.ofNat 8) hcount]
    exact ih (j := j + 1) true (by omega)
      (hstored'.regs (regsWritten_putProgress _ _ _ _ _) fun k hk => hapart k (by omega))
      (advanced_putProgress hadv' hstored'.psd)

/-- Moving does not depend on whether something has been altered, when the first byte meets no trap. -/
theorem moveBytes_altered {sa da : ByteAddr} (h : n ≠ 0 → ∃ x u, readByte t (withDisplacement t b sa) = .ok x ∧
    writeByte t da x = .ok u) (a a' : Bool) : moveBytes a b sa da n t = moveBytes a' b sa da n t := by
  cases n with
  | zero => rfl
  | succ n =>
    obtain ⟨x, u, hread, hwrite⟩ := h (by omega)
    rw [moveBytes_succ a hread hwrite, moveBytes_succ a' hread hwrite]

end Move

/-- A byte-string instruction whose count is 0 only sets its condition code (R426, R430, D41). -/
theorem exec_count_zero {s : State} {b : Bs} (hm : s.inst.model ≠ .model3) (hn : countIs s b 0) :
    exec (.mbs b) s = .next (onward s s.regs) ∧
    exec (.cbs b) s = .next (finished s s.regs s.psd.cc1 s.psd.cc2 false false) ∧
    (oddR b.r = false → exec (.tbs b) s = .next (onward s s.regs) ∧
      exec (.ttbs b) s = .next (finished s s.regs s.psd.cc1 s.psd.cc2 s.psd.cc3 false)) ∧
    (HasDecimal s → b.r ≠ 0 → oddR b.r = false → exec (.ebs b) s = .next (onward s s.regs)) := by
  have hstrings : ∀ k, testStrings b k s = .ok () s := fun k =>
    testStrings_ok hn (fun i hi => absurd hi (by omega)) fun i hi => absurd hi (by omega)
  have hdest : ∀ k, testDestination b k s = .ok () s := fun k =>
    testDestination_ok hn fun i hi => absurd hi (by omega)
  refine ⟨?mbs, ?cbs, fun he => ⟨?tbs, ?ttbs⟩, fun hd h0 he => ?ebs⟩
  case mbs => exact (exec_mbs hm hn (hstrings _)).trans rfl
  case cbs => exact (exec_cbs hm hn (hstrings _)).trans rfl
  case tbs => exact (exec_tbs hm he hn (hdest _)).trans rfl
  case ttbs => exact (exec_ttbs hm he hn rfl (hdest _)).trans rfl
  case ebs =>
    obtain ⟨hmodel, hunit⟩ := hd
    have hexec : exec (.ebs b) s = execEbs b s := rfl
    have hreg : ¬ (b.r = 0 ∨ oddR b.r = true) := not_or.2 ⟨h0, by simp [he]⟩
    rw [hexec, execEbs, run_bind (requireDecimal_ok hmodel hunit), if_neg hreg, run_bind (hdest _), run_look, run_look,
      run_look, run_look, countOf_toNat hn]
    rfl

/-- MBS one byte at a time, whatever the overlap of source and destination (R424). -/
theorem exec_mbs_step {s s1 s2 : State} {b : Bs} {n : Nat} {src dst : Nat → Loc} {x : Byte} (hs : MemCanonical s)
    (hm : s.inst.model ≠ .model3) (hn : countIs s b (n + 1))
    (hplaces : ∀ k, k < n + 1 → locate s (wordOf (sourceByte s b k)) .read = .ok (src k) ∧ Sound s (src k) ∧
      Apart b (destByte s b k) true)
    (hdest : BytesWritable s (destByte s b) (n + 1) dst) (hread : readByte s (sourceByte s b 0) = .ok x)
    (hwrite : writeByte s (destByte s b 0) x = .ok s1) (hstep : RegsWritten (Control b true) s1 s2)
    (hadv2 : Advanced s s2 b (n + 1) 1 true) : exec (.mbs b) s = exec (.mbs b) s2 := by
  have hplace := hdest.1
  obtain ⟨hloc, hsound⟩ := hplace 0 (by omega)
  obtain ⟨-, -, hapart⟩ := hplaces 0 (by omega)
  have hdst : ∀ r, Control b true r → dst 0 ≠ .reg r := fun r hr => place_ne_control hapart hloc hr
  obtain ⟨hstored1, hadv1⟩ := first_stored hs hn hloc hsound hdst hwrite
  have hnext : putProgress b (sourceAt s b 1) (destByte s b 1) (BitVec.ofNat 8 n) s1 = s2 :=
    (regsWritten_putProgress _ _ _ _ _).ext hstep
      fun r hr => getReg_eq_of_advanced (advanced_putProgress hadv1 hstored1.psd) hadv2 hr
  have hstored2 := hstored1.regs hstep fun k hk => by
    obtain rfl : k = 0 := by omega
    exact hdst
  have hsource2 : ∀ i, i < n → locate s2 (wordOf (sourceByte s2 b i)) .read = .ok (src (1 + i)) ∧
      Sound s2 (src (1 + i)) := fun i hi => by
    obtain ⟨hloc, hsound, -⟩ := hplaces (1 + i) (by omega)
    exact rest_of_source hstored2 hadv2 ⟨hloc, hsound⟩
  have hdest2 : ∀ i, i < n → locate s2 (wordOf (destByte s2 b i)) .write = .ok (dst (1 + i)) ∧
      Sound s2 (dst (1 + i)) := fun i hi => rest_of_destination hstored2 hadv2 (hplace (1 + i) (by omega))
  have hcount2 : countIs s2 b n := countIs_of_advanced hadv2 (count_lt hn)
  have hmodel2 : s2.inst.model ≠ .model3 := hstored2.inst ▸ hm
  rw [exec_mbs hm hn (testStrings_ok hn (fun i hi => ⟨_, (hplaces i hi).1⟩) fun i hi => ⟨_, (hplace i hi).1⟩),
    exec_mbs hmodel2 hcount2 (testStrings_ok hcount2 (fun i hi => ⟨_, (hsource2 i hi).1⟩)
      fun i hi => ⟨_, (hdest2 i hi).1⟩)]
  refine run_bind_congr ?_ _
  rw [sourceByte_eq] at hread
  rw [moveBytes_succ false hread hwrite, bytePlus_congr hstored1.psd, sourceAt_succ, destByte_succ, hnext,
    sourceAt_of_advanced hadv2 hstored2.psd, destByte_of_advanced hadv2 hstored2.psd]
  refine moveBytes_altered (fun hpos => ?_) true false
  obtain ⟨hsloc2, hssound2⟩ := hsource2 0 (by omega)
  obtain ⟨hdloc2, hdsound2⟩ := hdest2 0 (by omega)
  rw [sourceByte_eq, sourceAt_of_advanced hadv2 hstored2.psd] at hsloc2
  rw [destByte_of_advanced hadv2 hstored2.psd] at hdloc2
  exact ⟨_, _, readByte_eq_ok hsloc2 hssound2, writeByte_eq_ok hdloc2 hdsound2 _⟩

/-- Settles O46: `moveBytes_stores` from the first byte on, `exec_mbs_step`, and `exec_count_zero`. -/
theorem moveBytes : Obligations.MoveBytes := by
  refine ⟨?disjoint, ?stepwise, fun s b hm hn => exec_count_zero hm hn⟩
  case disjoint =>
    intro s b n src dst x hs hm hn hpos hsource hdest hne
    have htest : testStrings b .write s = .ok () s := testStrings_ok hn (fun i hi => ⟨_, (hsource i hi).1⟩)
      fun i hi => ⟨_, (hdest.1 i hi).1⟩
    obtain ⟨u, hu, hstored, hadv⟩ := moveBytes_stores hsource hdest hne false (Nat.zero_add n)
      (StringStored.start hs) (advanced_start hn)
    refine ⟨_, (exec_mbs hm hn htest).trans (run_bind hu _), ?_, advanced_advance hadv⟩
    rw [← control_both]
    exact hstored.advance
  case stepwise =>
    intro s s1 s2 b n src dst x hs hm hn hplaces hdest hread hwrite hframe hkept hblocks hadv
    refine exec_mbs_step hs hm hn hplaces hdest hread hwrite ⟨hframe, ?_, hblocks⟩ hadv
    rw [control_both]
    exact hkept

end Sys2Proof.Proofs

namespace Sys2Proof.Proofs

open Sys2Proof Sys2Proof.Machine Sys2Proof.Laws

/-! ### CBS (45_byte_string R426) -/

/-- The instruction goes on with its condition code set, when only registers have been written. -/
theorem advance_of_regsWritten {q : BitVec 4 → Prop} {s t : State} (h : RegsWritten q s t) (c3 c4 : Bool) :
    advance (setCC34 c3 c4 t) = finished s t.regs s.psd.cc1 s.psd.cc2 c3 c4 := by
  obtain ⟨regs, rfl⟩ : ∃ regs, t = { s with regs := regs } := ⟨_, h.frame⟩
  rfl

section Compare

variable {s t : State} {b : Bs} {n i j m : Nat} {x y : Nat → Byte}

/-- From byte `i` on, the strings are compared up to the first difference, number `j` (R426). -/
theorem compareBytes_stops (hbytes : ∀ k, k < n → readByte s (sourceByte s b k) = .ok (x k) ∧
      readByte s (destByte s b k) = .ok (y k) ∧ Apart b (sourceByte s b k) true ∧ Apart b (destByte s b k) true)
    (hjn : j ≤ n) (hequal : ∀ k, k < j → x k = y k) (hstop : j = n ∨ x j ≠ y j)
    (altered : Bool) (hi : i + m = n) (hij : i ≤ j) (hregs : RegsWritten (Control b true) s t)
    (hadv : Advanced s t b n i true) :
    ∃ u, compareBytes altered b (sourceAt s b i) (destByte s b i) m t =
        .ok () (setCC34 (decide (j < n ∧ (y j).toNat < (x j).toNat)) (decide (j < n ∧ (x j).toNat < (y j).toNat)) u) ∧
      RegsWritten (Control b true) s u ∧ Advanced s u b n j true := by
  induction m generalizing i t altered with
  | zero =>
    obtain rfl : i = j := by omega
    have hend : ¬ i < n := by omega
    refine ⟨t, ?_, hregs, hadv⟩
    simp [compareBytes, hend]
  | succ m ih =>
    have hlt : i < n := by omega
    obtain ⟨hsread, hdread, hsapart, hdapart⟩ := hbytes i hlt
    have hx : readByte t (withDisplacement t b (sourceAt s b i)) = .ok (x i) := by
      rw [withDisplacement_congr hregs.psd, ← hsread]
      exact hregs.readByte_eq fun _ => ne_control_of_apart hsapart
    have hy : readByte t (destByte s b i) = .ok (y i) := by
      rw [← hdread]
      exact hregs.readByte_eq fun _ => ne_control_of_apart hdapart
    rcases Nat.lt_or_eq_of_le hij with hbefore | rfl
    · have hcount : m = n - (i + 1) := by omega
      rw [← hequal i hbefore] at hy
      rw [compareBytes_succ_eq altered hx hy, bytePlus_congr hregs.psd, sourceAt_succ, destByte_succ,
        congrArg (BitVec.ofNat 8) hcount]
      exact ih true (by omega) hbefore (hregs.trans (regsWritten_putProgress _ _ _ _ _))
        (advanced_putProgress hadv hregs.psd)
    · have hdiffer : x i ≠ y i := hstop.resolve_left (by omega)
      refine ⟨t, ?_, hregs, hadv⟩
      rw [compareBytes_succ_ne altered hx hy hdiffer]
      simp [orderCC34, hlt]

end Compare

/-- Settles O47: `compareBytes_stops` from the first byte on. -/
theorem compareBytes : Obligations.CompareBytes := by
  intro s b n j x y hm hn hpos hbytes hjn hequal hstop
  have htest : testStrings b .read s = .ok () s := testStrings_ok hn
    (fun i hi => locate_of_readByte (hbytes i hi).1) fun i hi => locate_of_readByte (hbytes i hi).2.1
  obtain ⟨u, hu, hregs, hadv⟩ := compareBytes_stops hbytes hjn hequal hstop false (Nat.zero_add n) (Nat.zero_le j)
    (RegsWritten.refl _ s) (advanced_start hn)
  have hkept := hregs.kept
  rw [control_both] at hkept
  exact ⟨_, (exec_cbs hm hn htest).trans (run_bind hu _), advance_of_regsWritten hregs _ _, hkept, hregs.blocks,
    advanced_congr hadv fun _ _ => rfl⟩

/-! ### TBS and TTBS (45_byte_string R428, R430) -/

/-- The entry of the table for a byte, in a state that differs in data only. -/
theorem translate_eq {s t : State} (hp : t.psd = s.psd) (b : Bs) (d : Byte) :
    translate t b (sourceAt s b 0) d = readByte t (tableByte s b d) := by
  unfold Machine.translate tableByte wrapByte realExtended
  rw [withDisplacement_congr hp, hp]
  rfl

theorem apart_ru1 {b : Bs} {x : ByteAddr} (h : Apart b x true) : Apart b x false :=
  ⟨h.1, fun e => absurd e (by decide)⟩

section Translate

variable {s t : State} {b : Bs} {n j m : Nat} {tab dst : Nat → Loc} {y z : Nat → Byte}

/-- The bytes that are left are translated (R428). -/
theorem translateBytes_stores (hdest : BytesWritable s (destByte s b) n dst)
    (hbytes : ∀ k, k < n → byteAt s (dst k) ((destByte s b k).extractLsb' 0 2) = y k ∧
      locate s (wordOf (tableByte s b (y k))) .read = .ok (tab k) ∧ Sound s (tab k) ∧
      byteAt s (tab k) ((tableByte s b (y k)).extractLsb' 0 2) = z k ∧
      Apart b (destByte s b k) false ∧ Apart b (tableByte s b (y k)) false)
    (hne : ∀ j k, j < n → k < n →
      ¬ (tab j = dst k ∧ (tableByte s b (y j)).extractLsb' 0 2 = (destByte s b k).extractLsb' 0 2))
    (altered : Bool) (hj : j + m = n) (hstored : StringStored (Control b false) s t (destByte s b) j dst z)
    (hadv : Advanced s t b n j false) :
    ∃ u, translateBytes altered b (sourceAt s b 0) (destByte s b j) m t = .ok () u ∧
      StringStored (Control b false) s u (destByte s b) n dst z ∧ Advanced s u b n n false := by
  obtain ⟨hplace, hdistinct⟩ := hdest
  have hapart : ∀ k, k < n → ∀ r, Control b false r → dst k ≠ .reg r := fun k hk r hr => by
    obtain ⟨-, -, -, -, hapart, -⟩ := hbytes k hk
    exact place_ne_control hapart (hplace k hk).1 hr
  induction m generalizing j t altered with
  | zero =>
    obtain rfl : j = n := by omega
    exact ⟨t, rfl, hstored, hadv⟩
  | succ m ih =>
    have hlt : j < n := by omega
    obtain ⟨hdbyte, htloc, htsound, htbyte, -, htapart⟩ := hbytes j hlt
    obtain ⟨hloc, hsound⟩ := hplace j hlt
    have hread : readByte t (destByte s b j) = .ok (y j) := by
      rw [← hdbyte]
      refine hstored.readByte_apart (locate_read_of_write hloc) hsound (fun k hk e => ?_) (hapart j hlt)
      exact hdistinct k j hk hlt ⟨e.1.symm, e.2.symm⟩
    have hentry : translate t b (sourceAt s b 0) (y j) = .ok (z j) := by
      rw [translate_eq hstored.psd, ← htbyte]
      exact hstored.readByte_apart htloc htsound (fun k hk => hne j k hlt (by omega))
        fun r hr => place_ne_control htapart htloc hr
    have hstored' := hstored.store fun k hk => hdistinct k j hk hlt
    have hadv' := advanced_writeLocByte hadv (hapart j hlt) ((destByte s b j).extractLsb' 0 2) (z j)
    have hcount : m = n - (j + 1) := by omega
    rw [translateBytes_succ altered hread hentry (hstored.writeByte_ok hloc hsound (z j)), bytePlus_congr hstored'.psd,
      destByte_succ, congrArg (BitVec.ofNat 8) hcount]
    exact ih (j := j + 1) true (by omega)
      (hstored'.regs (regsWritten_putDestination _ _ _ _ _) fun k hk => hapart k (by omega))
      (advanced_putDestination hadv' hstored'.psd)

/-- Translating does not depend on whether something has been altered, when the first byte meets no trap. -/
theorem translateBytes_altered {sa da : ByteAddr} (h : n ≠ 0 → ∃ y z u, readByte t da = .ok y ∧
    translate t b sa y = .ok z ∧ writeByte t da z = .ok u) (a a' : Bool) :
    translateBytes a b sa da n t = translateBytes a' b sa da n t := by
  cases n with
  | zero => rfl
  | succ n =>
    obtain ⟨y, z, u, hread, hentry, hwrite⟩ := h (by omega)
    rw [translateBytes_succ a hread hentry hwrite, translateBytes_succ a' hread hentry hwrite]

/-- What TTBS leaves when it stops: with R not 0 and a byte that meets the mask, also the mask field of R (R430). -/
def tested (b : Bs) (found : Bool) (common : Byte) (s : State) : State :=
  if found = true ∧ b.r ≠ 0 then setReg b.r (withCount (getReg s b.r) common) s else s

/-- From byte `i` on, the bytes are tested up to the first that meets the mask, number `j` (R430). -/
theorem translateTest_stops {i : Nat} {mask : Byte}
    (hbytes : ∀ k, k < n → readByte s (destByte s b k) = .ok (y k) ∧ readByte s (tableByte s b (y k)) = .ok (z k) ∧
      Apart b (destByte s b k) false ∧ Apart b (tableByte s b (y k)) false)
    (hjn : j ≤ n) (hzero : ∀ k, k < j → z k &&& mask = 0) (hstop : j = n ∨ z j &&& mask ≠ 0)
    (altered : Bool) (hi : i + m = n) (hij : i ≤ j) (hregs : RegsWritten (Control b false) s t)
    (hadv : Advanced s t b n i false) :
    ∃ u, translateTest altered b mask (sourceAt s b 0) (destByte s b i) m t =
        .ok () (setCC4 (decide (j < n)) (tested b (decide (j < n)) (z j &&& mask) u)) ∧
      RegsWritten (Control b false) s u ∧ Advanced s u b n j false := by
  induction m generalizing i t altered with
  | zero =>
    obtain rfl : i = j := by omega
    have hend : ¬ i < n := by omega
    refine ⟨t, ?_, hregs, hadv⟩
    simp [translateTest, tested, hend]
  | succ m ih =>
    have hlt : i < n := by omega
    obtain ⟨hdread, htread, hdapart, htapart⟩ := hbytes i hlt
    have hread : readByte t (destByte s b i) = .ok (y i) := by
      rw [← hdread]
      exact hregs.readByte_eq fun _ => ne_control_of_apart hdapart
    have hentry : translate t b (sourceAt s b 0) (y i) = .ok (z i) := by
      rw [translate_eq hregs.psd, ← htread]
      exact hregs.readByte_eq fun _ => ne_control_of_apart htapart
    rcases Nat.lt_or_eq_of_le hij with hbefore | rfl
    · have hcount : m = n - (i + 1) := by omega
      rw [translateTest_succ_zero altered hread hentry (hzero i hbefore), bytePlus_congr hregs.psd, destByte_succ,
        congrArg (BitVec.ofNat 8) hcount]
      exact ih true (by omega) hbefore (hregs.trans (regsWritten_putDestination _ _ _ _ _))
        (advanced_putDestination hadv hregs.psd)
    · refine ⟨t, ?_, hregs, hadv⟩
      rw [translateTest_succ_ne altered hread hentry (hstop.resolve_left (by omega))]
      by_cases h0 : b.r = 0 <;> simp [tested, hlt, h0]

end Translate

/-- TBS one byte at a time (R428). -/
theorem exec_tbs_step {s s1 s2 : State} {b : Bs} {n : Nat} {tab : Byte → Loc} {dst : Nat → Loc} {y z : Byte}
    (hs : MemCanonical s) (hm : s.inst.model ≠ .model3) (he : oddR b.r = false) (hn : countIs s b (n + 1))
    (hdest : BytesWritable s (destByte s b) (n + 1) dst) (hapart : Apart b (destByte s b 0) true)
    (htable : ∀ v, locate s (wordOf (tableByte s b v)) .read = .ok (tab v) ∧ Sound s (tab v))
    (hy : readByte s (destByte s b 0) = .ok y) (hz : readByte s (tableByte s b y) = .ok z)
    (hwrite : writeByte s (destByte s b 0) z = .ok s1) (hstep : RegsWritten (Control b false) s1 s2)
    (hadv2 : Advanced s s2 b (n + 1) 1 false) : exec (.tbs b) s = exec (.tbs b) s2 := by
  have hplace := hdest.1
  obtain ⟨hloc, hsound⟩ := hplace 0 (by omega)
  have hdst : ∀ r, Control b false r → dst 0 ≠ .reg r := fun r hr => place_ne_control (apart_ru1 hapart) hloc hr
  obtain ⟨hstored1, hadv1⟩ := first_stored hs hn hloc hsound hdst hwrite
  have hnext : putDestination b (destByte s b 1) (BitVec.ofNat 8 n) s1 = s2 :=
    (regsWritten_putDestination _ _ _ _ _).ext hstep
      fun r hr => getReg_eq_of_advanced (advanced_putDestination hadv1 hstored1.psd) hadv2 hr
  have hstored2 := hstored1.regs hstep fun k hk => by
    obtain rfl : k = 0 := by omega
    exact hdst
  have hpsd2 := hstored2.psd
  have hdest2 : ∀ i, i < n → locate s2 (wordOf (destByte s2 b i)) .write = .ok (dst (1 + i)) ∧
      Sound s2 (dst (1 + i)) := fun i hi => rest_of_destination hstored2 hadv2 (hplace (1 + i) (by omega))
  have hsource2 : sourceAt s2 b 0 = sourceAt s b 0 := by
    unfold sourceAt
    split
    · rfl
    · rename_i h0
      have hreg : getReg s2 b.r = getReg s b.r := by
        have hru1 : ¬ Control b false b.r := by
          rw [control_ru1_only]
          exact (ru1_ne_of_even he).symm
        have hs1 : getReg s1 b.r = getReg s b.r := by
          rw [Except.ok.inj (hwrite.symm.trans (writeByte_eq_ok hloc hsound z))]
          exact getReg_writeLoc_ne (place_ne_control hapart hloc (.inl ⟨rfl, rfl, h0⟩)) _ _
        rw [hstep.kept _ hru1, hs1]
      rw [hreg, bytePlus_congr hpsd2, addressField_congr hpsd2]
  have hcount2 : countIs s2 b n := countIs_of_advanced hadv2 (count_lt hn)
  have hmodel2 : s2.inst.model ≠ .model3 := hstored2.inst ▸ hm
  rw [exec_tbs hm he hn (testDestination_ok hn fun i hi => ⟨_, (hplace i hi).1⟩),
    exec_tbs hmodel2 he hcount2 (testDestination_ok hcount2 fun i hi => ⟨_, (hdest2 i hi).1⟩)]
  refine run_bind_congr ?_ _
  rw [translateBytes_succ false hy ((translate_eq rfl b y).trans hz) hwrite, bytePlus_congr hstored1.psd, destByte_succ,
    hnext, hsource2, destByte_of_advanced hadv2 hpsd2]
  refine translateBytes_altered (fun hpos => ?_) true false
  obtain ⟨hdloc2, hdsound2⟩ := hdest2 0 (by omega)
  rw [destByte_of_advanced hadv2 hpsd2] at hdloc2
  have hentry : ∀ v, ∃ x, translate s2 b (sourceAt s b 0) v = .ok x := fun v => by
    obtain ⟨htloc, htsound⟩ := htable v
    rw [translate_eq hpsd2]
    exact ⟨_, readByte_eq_ok ((hstored2.locate _ _).trans htloc) (hstored2.sound _ htsound)⟩
  obtain ⟨x, hx⟩ := hentry (byteAt s2 (dst (1 + 0)) ((destByte s b (1 + 0)).extractLsb' 0 2))
  exact ⟨_, x, _, readByte_eq_ok (locate_read_of_write hdloc2) hdsound2, hx, writeByte_eq_ok hdloc2 hdsound2 x⟩

/-- Of the registers TTBS tests R alone, which is not Ru1. -/
theorem getReg_tested_ru1 {b : Bs} (he : oddR b.r = false) (found : Bool) (common : Byte) (s : State) :
    getReg (tested b found common s) (ru1 b.r) = getReg s (ru1 b.r) := by
  unfold tested
  split
  · exact getReg_setReg_ne (ru1_ne_of_even he) _ _
  · rfl

theorem getReg_tested {b : Bs} (h0 : b.r ≠ 0) (found : Bool) (common : Byte) (s : State) :
    getReg (tested b found common s) b.r = if found = true then withCount (getReg s b.r) common else getReg s b.r := by
  cases found with
  | false => simp [tested]
  | true => rw [tested, if_pos ⟨rfl, h0⟩, getReg_setReg_same, if_pos rfl]

theorem regsWritten_tested {s t : State} {b : Bs} (h : RegsWritten (Control b false) s t) (found : Bool)
    (common : Byte) : RegsWritten (Control b true) s (tested b found common t) := by
  have hmono : RegsWritten (Control b true) s t := h.mono fun _ => Or.inr ∘ fun hr => hr.resolve_left (by simp)
  unfold tested
  split
  · rename_i hf
    exact hmono.setReg (.inl ⟨rfl, rfl, hf.2⟩) _
  · exact hmono

/-- Settles O48: `translateBytes_stores`, `exec_tbs_step` and `translateTest_stops`, each from the first byte on. -/
theorem translateBytes : Obligations.TranslateBytes := by
  refine ⟨?disjoint, ?stepwise, ?test, fun s b hm hodd => ⟨?tbs, ?ttbs⟩⟩
  case disjoint =>
    intro s b n tab dst y z hs hm he hn hpos hdest hbytes hne
    have htest : testDestination b .write s = .ok () s := testDestination_ok hn fun i hi => ⟨_, (hdest.1 i hi).1⟩
    obtain ⟨u, hu, hstored, hadv⟩ := translateBytes_stores hdest hbytes hne false (Nat.zero_add n)
      (StringStored.start hs) (advanced_start hn)
    refine ⟨_, (exec_tbs hm he hn htest).trans (run_bind hu _), ?_, advanced_advance hadv⟩
    rw [← control_ru1_only]
    exact hstored.advance
  case stepwise =>
    intro s s1 s2 b n tab dst y z hs hm he hn hdest hapart htable hy hz hwrite hframe hkept hblocks hadv
    refine exec_tbs_step hs hm he hn hdest (hapart 0 (by omega)) htable hy hz hwrite ⟨hframe, ?_, hblocks⟩ hadv
    rw [control_ru1_only]
    exact hkept
  case test =>
    intro s b n j mask y z hm he hn hpos hmask hbytes hjn hzero hstop
    have htest : testDestination b .read s = .ok () s :=
      testDestination_ok hn fun i hi => locate_of_readByte (hbytes i hi).1
    obtain ⟨u, hu, hregs, hadv⟩ := translateTest_stops hbytes hjn hzero hstop false (Nat.zero_add n) (Nat.zero_le j)
      (RegsWritten.refl _ s) (advanced_start hn)
    have hregs' := regsWritten_tested hregs (decide (j < n)) (z j &&& mask)
    have hcc : setCC4 (decide (j < n)) (tested b (decide (j < n)) (z j &&& mask) u) =
        setCC34 s.psd.cc3 (decide (j < n)) (tested b (decide (j < n)) (z j &&& mask) u) := by
      rw [← hregs'.psd]
      rfl
    have hkept := hregs'.kept
    rw [control_both] at hkept
    have hsource : getReg u b.r = getReg s b.r := hregs.kept _ (by
      rw [control_ru1_only]
      exact (ru1_ne_of_even he).symm)
    rw [hcc] at hu
    refine ⟨_, (exec_ttbs hm he hn hmask htest).trans (run_bind hu _), advance_of_regsWritten hregs' _ _, hkept,
      hregs'.blocks, fun h0 => ?_, advanced_congr hadv fun r hr => ?_⟩
    · have hreg := getReg_tested h0 (decide (j < n)) (z j &&& mask) u
      rwa [hsource, if_congr decide_eq_true_iff rfl rfl] at hreg
    · rw [control_ru1_only] at hr
      obtain rfl : r = ru1 b.r := hr
      exact getReg_tested_ru1 he _ _ u
  case tbs => exact (run_bind (requireByteString_ok hm) _).trans (run_requireEven_odd hodd _ s)
  case ttbs => exact (run_bind (requireByteString_ok hm) _).trans (run_requireEven_odd hodd _ s)

end Sys2Proof.Proofs

namespace Sys2Proof.Proofs

open Sys2Proof Sys2Proof.Machine Sys2Proof.Laws

/-! ### EBS with its own count as source (45_byte_string R438) -/

/-- The operand of the EBS below: R is register 2 and Ru1 register 3. -/
def editCount : Bs := ⟨2, 0⟩

/-- Two pattern bytes, X'20' and X'40', at location 25, to be edited from byte 12 on, which is the count in register 3.
The right digit is wanted and significance has started. -/
def countIsSource (count : Byte) : State :=
  setReg 3 (count ++ 100#24) (setReg 2 0x4000000C#32
    { State.reset with
      mem := writeWordAt [] 25 0x20400000#32
      psd := { Psd.reset with cc2 := true, cc4 := true } })

/-- What EBS leaves when the count is 1: the digit 1 of that count has been edited. -/
def oneEdited : State :=
  setReg 3 101#32 (setReg 2 0x4000000D#32
    { countIsSource 1 with
      mem := writeWordAt [] 25 0xF1400000#32
      psd := { Psd.reset with cc3 := true, cc4 := true, ia := 0x27#17 } })

/-- The memory that an outcome leaves. -/
def memoryAfter : Result → Memory
  | .next t => t.mem
  | _ => []

theorem exec_ebs_countIsSource_one : exec (.ebs editCount) (countIsSource 1) = .next oneEdited := rfl

/-- With the count 2 the digit edited is 2. -/
theorem memoryAfter_countIsSource_two :
    memoryAfter (exec (.ebs editCount) (countIsSource 2)) = writeWordAt [] 25 0xF2400000#32 := by decide +kernel

/-- The string that is left after that: one byte more, for the instruction at its own address. -/
def oneLeft : State := setReg 3 0x01000065#32 { oneEdited with psd := { oneEdited.psd with ia := 0x26#17 } }

/-- The second pattern byte asks for no digit, and the digit 1 stays. -/
theorem memoryAfter_oneLeft : memoryAfter (exec (.ebs editCount) oneLeft) = writeWordAt [] 25 0xF1400000#32 := by
  decide +kernel

theorem bytesWritable_countIsSource :
    BytesWritable (countIsSource 2) (destByte (countIsSource 2) editCount) 2 fun _ => .mem 25 := by
  refine ⟨fun k hk => ⟨?_, rfl⟩, fun j k hjk hk => ?_⟩
  · revert k hk
    decide +kernel
  · obtain rfl : j = 0 := by omega
    obtain rfl : k = 1 := by omega
    decide +kernel

/-- Refutes O49: its clause on one byte after another lets the source lie in Ru1, whose count byte, a digit there, is
not that of the string of one byte. -/
theorem not_editByte : ¬ Obligations.EditByte := by
  rintro ⟨-, hsequence, -⟩
  have hdecimal : HasDecimal (countIsSource 2) := ⟨by decide +kernel, rfl⟩
  have hplaces : ∀ k, k < 2 → Apart editCount (destByte (countIsSource 2) editCount k) true ∧
      locate (countIsSource 2) (wordOf (sourceByte (countIsSource 2) editCount k)) .read = .ok (.reg 3) ∧
      Sound (countIsSource 2) (.reg 3) := fun k hk => by
    refine ⟨?_, ?_, trivial⟩ <;> revert k hk
    · unfold Apart
      decide +kernel
    · decide +kernel
  rcases hsequence (countIsSource 2) oneEdited oneLeft editCount 1 (fun _ => .reg 3) (fun _ => .mem 25)
      (by rfl) hdecimal (fun hdm => absurd hdm (by decide +kernel)) (by decide) (by decide) (by rfl)
      bytesWritable_countIsSource hplaces exec_ebs_countIsSource_one (by rfl) rfl with hsame | ⟨hdm, -⟩
  · have hmemory := congrArg memoryAfter hsame
    rw [memoryAfter_countIsSource_two, memoryAfter_oneLeft] at hmemory
    exact absurd hmemory (by decide +kernel)
  · exact absurd hdm (by decide +kernel)

end Sys2Proof.Proofs

namespace Sys2Proof.Proofs

open Sys2Proof Sys2Proof.Machine Sys2Proof.Laws

/-! ### The top of the stack (46_push_down R461, D8) -/

theorem two_pow_stackWidth (s : State) : 2 ^ (if realExtended s then 22 else 17) = addressSpace s := by
  unfold addressSpace
  split <;> rfl

theorem addressSpace_pos (s : State) : 0 < addressSpace s := Nat.pos_of_dvd_of_pos (addressSpace_dvd s) (by decide)

theorem stackTop_toNat (s : State) (d : Dword) : (stackTop s d).toNat = (hiWord d).toNat % addressSpace s := by
  have hlow : ((hiWord d).truncate 22).toNat = (hiWord d).toNat % 2 ^ 22 := BitVec.toNat_setWidth 22 (hiWord d)
  rw [stackTop, wrapWord_toNat, hlow, Nat.mod_mod_of_dvd _ (addressSpace_dvd s)]

theorem stackTop_lt (s : State) (d : Dword) : (stackTop s d).toNat < addressSpace s := by
  rw [stackTop_toNat]
  exact Nat.mod_lt _ (addressSpace_pos s)

theorem stackMove_toNat (s : State) (t : WordAddr) (n : Int) :
    ((stackMove s t n).toNat : Int) = (t.toNat + n) % addressSpace s := by
  have hdvd : (addressSpace s : Int) ∣ 2 ^ 22 := by exact_mod_cast addressSpace_dvd s
  have hmove : ((BitVec.ofInt 22 n).toNat : Int) = n % 2 ^ 22 := by
    rw [BitVec.toNat_ofInt]
    exact Int.toNat_of_nonneg (Int.emod_nonneg _ (by decide))
  rw [stackMove, wrapWord_toNat, BitVec.toNat_add, Nat.mod_mod_of_dvd _ (addressSpace_dvd s)]
  push_cast
  rw [hmove, Int.add_emod, Int.emod_emod_of_dvd _ hdvd, ← Int.add_emod]

theorem stackMove_eq_of_toNat {s : State} {t v : WordAddr} {n : Int}
    (h : (v.toNat : Int) = (t.toNat + n) % addressSpace s) : stackMove s t n = v :=
  BitVec.eq_of_toNat_eq (by exact_mod_cast (stackMove_toNat s t n).trans h.symm)

/-- Moves of the top of the stack add up. -/
theorem stackMove_stackMove (s : State) (t : WordAddr) (a b : Int) :
    stackMove s (stackMove s t a) b = stackMove s t (a + b) :=
  stackMove_eq_of_toNat (by rw [stackMove_toNat, stackMove_toNat, Int.emod_add_emod, Int.add_assoc])

theorem stackMove_zero {s : State} {t : WordAddr} (h : t.toNat < addressSpace s) : stackMove s t 0 = t :=
  stackMove_eq_of_toNat (by rw [Int.add_zero, Int.emod_eq_of_lt (by omega) (by omega)])

theorem stackMove_lt (s : State) (t : WordAddr) (n : Int) : (stackMove s t n).toNat < addressSpace s := by
  rw [stackMove, wrapWord_toNat]
  exact Nat.mod_lt _ (addressSpace_pos s)

/-- The words past an address are those the top of the stack moves up to. -/
theorem wordPlus_eq_stackMove (s : State) (v : WordAddr) (k : Nat) : wordPlus s v k = stackMove s v k := by
  rw [wordPlus, stackMove, BitVec.ofInt_natCast]

theorem stackMove_congr {s t : State} (h : t.psd = s.psd) : stackMove t = stackMove s := by
  unfold stackMove wrapWord realExtended
  rw [h]

/-! ### The stack pointer doubleword (R461, R465-R469) -/

theorem withWordAddress_toNat (s : State) (w : Word) (a : WordAddr) : (withWordAddress s w a).toNat =
    addressSpace s * (w.toNat / addressSpace s) + a.toNat % addressSpace s := by
  have hw := w.isLt
  have ha := a.isLt
  unfold withWordAddress addressSpace
  split <;> rw [BitVec.toNat_append, ← Nat.shiftLeft_add_eq_or_of_lt (by omega), Nat.shiftLeft_eq] <;>
    simp [Nat.shiftRight_eq_div_pow] <;> omega

/-- A stack pointer doubleword by its fields: the word of the top-of-stack address, TS and the space count, TW and the
word count (R461). -/
def stackDword (top : Word) (ts : Bool) (sp : BitVec 15) (tw : Bool) (wd : BitVec 15) : Dword :=
  top ++ (BitVec.ofBool ts ++ sp ++ BitVec.ofBool tw ++ wd)

theorem movedStack_eq (s : State) (d : Dword) (n : Int) : movedStack s d n =
    stackDword (withWordAddress s (hiWord d) (stackMove s (stackTop s d) n)) (spaceInhibit d)
      (BitVec.ofInt 15 (spaceCount d - n)) (wordInhibit d) (BitVec.ofInt 15 (wordCount d + n)) := rfl

section Fields

variable (top : Word) (ts tw : Bool) (sp wd : BitVec 15)

theorem hiWord_stackDword : hiWord (stackDword top ts sp tw wd) = top := BitVec.extractLsb'_append_eq_left

theorem getLsbD_loWord_stackDword (i : Nat) : (loWord (stackDword top ts sp tw wd)).getLsbD i =
      if i < 15 then wd.getLsbD i
      else if i - 15 < 1 then (BitVec.ofBool tw).getLsbD (i - 15)
      else if i - 15 - 1 < 15 then sp.getLsbD (i - 15 - 1)
      else (BitVec.ofBool ts).getLsbD (i - 15 - 1 - 15) := by
  have hlow : loWord (stackDword top ts sp tw wd) =
      BitVec.ofBool ts ++ sp ++ BitVec.ofBool tw ++ wd := BitVec.extractLsb'_append_eq_right
  rw [hlow]
  refine BitVec.getLsbD_append.trans ?_
  rw [BitVec.getLsbD_append, BitVec.getLsbD_append]

theorem spaceCount_stackDword : spaceCount (stackDword top ts sp tw wd) = sp.toNat := by
  refine congrArg BitVec.toNat (BitVec.eq_of_getLsbD_eq fun i hi => ?_)
  rw [BitVec.getLsbD_extractLsb', getLsbD_loWord_stackDword, if_neg (by omega), if_neg (by omega), if_pos (by omega),
    show 16 + i - 15 - 1 = i by omega]
  simp [hi]

theorem wordCount_stackDword : wordCount (stackDword top ts sp tw wd) = wd.toNat := by
  refine congrArg BitVec.toNat (BitVec.eq_of_getLsbD_eq fun i hi => ?_)
  rw [BitVec.getLsbD_extractLsb', getLsbD_loWord_stackDword, if_pos (by omega)]
  simp [hi]

theorem spaceInhibit_stackDword : spaceInhibit (stackDword top ts sp tw wd) = ts := by
  rw [spaceInhibit, bit, getLsbD_loWord_stackDword]
  cases ts <;> rfl

theorem wordInhibit_stackDword : wordInhibit (stackDword top ts sp tw wd) = tw := by
  rw [wordInhibit, bit, getLsbD_loWord_stackDword]
  cases tw <;> rfl

end Fields

theorem ofInt_count_toNat {c : Int} (h0 : 0 ≤ c) (h1 : c ≤ 32767) : ((BitVec.ofInt 15 c).toNat : Int) = c := by
  rw [BitVec.toNat_ofInt]
  omega

theorem movedStack_moved (s : State) {d : Dword} {n : Int} (h : WithinLimits d n) :
    MovedStack s d (movedStack s d n) n := by
  obtain ⟨hs0, hs1, hw0, hw1⟩ := h
  have hpos := addressSpace_pos s
  have hwidth : (2 : Int) ^ (if realExtended s then 22 else 17) = addressSpace s := by
    exact_mod_cast two_pow_stackWidth s
  have hhi : (hiWord (movedStack s d n)).toNat =
      addressSpace s * ((hiWord d).toNat / addressSpace s) + (stackMove s (stackTop s d) n).toNat := by
    rw [movedStack_eq, hiWord_stackDword, withWordAddress_toNat, Nat.mod_eq_of_lt (stackMove_lt _ _ _)]
  refine ⟨_, rfl, ?_, ?_, ?_, ?_, ?_, ?_⟩
  · rw [hwidth, two_pow_stackWidth, hhi, Nat.mul_add_mod, Nat.mod_eq_of_lt (stackMove_lt _ _ _), stackMove_toNat,
      stackTop_toNat, Int.natCast_emod, Int.emod_add_emod]
  · rw [two_pow_stackWidth, hhi, Nat.mul_add_div hpos, Nat.div_eq_of_lt (stackMove_lt _ _ _), Nat.add_zero]
  · rw [movedStack_eq, spaceCount_stackDword, ofInt_count_toNat hs0 hs1]
  · rw [movedStack_eq, wordCount_stackDword, ofInt_count_toNat hw0 hw1]
  · rw [movedStack_eq, spaceInhibit_stackDword]
  · rw [movedStack_eq, wordInhibit_stackDword]

end Sys2Proof.Proofs

namespace Sys2Proof.Proofs

open Sys2Proof Sys2Proof.Machine Sys2Proof.Laws

/-! ### The limit test (46_push_down R462, R463) -/

theorem finishedCC_append (s : State) (regs : Vector Word 64) (c1 c2 c3 c4 : Bool) :
    finishedCC s regs (BitVec.ofBool c1 ++ BitVec.ofBool c2 ++ BitVec.ofBool c3 ++ BitVec.ofBool c4) =
      finished s regs c1 c2 c3 c4 := by
  cases c1 <;> cases c2 <;> cases c3 <;> cases c4 <;> rfl

theorem countBad_eq (c : Int) : countBad c = decide (c < 0 ∨ 32767 < c) := (Bool.decide_or _ _).symm

theorem not_beyond_of_withinLimits {d : Dword} {n : Int} (h : WithinLimits d n) :
    (spaceBad d n || wordBad d n) = false := by
  obtain ⟨hs0, hs1, hw0, hw1⟩ := h
  rw [spaceBad, wordBad, countBad_eq, countBad_eq, Bool.or_eq_false_iff, decide_eq_false_iff_not,
    decide_eq_false_iff_not]
  omega

section Course

variable {s u : State} {m : MR} {v : WordAddr} {d : Dword} {n : Int} {l0 l1 : Loc} {test move : Dword → Act Unit}

/-- Beyond the limits nothing is tested or moved: the trap, or the counts judged in the condition code (R462, R463). -/
theorem run_pushDown_beyond (hv : effWordAddr s m alignDword = .ok v) (hd : readDword s v = .ok d)
    (hbad : (spaceBad d n || wordBad d n) = true) : run (pushDown m n test move) s =
      if limitTraps d n then .next (enterTrap { loc := 0x42#8 } s)
      else .next (finishedCC s s.regs (abortCC d n)) := by
  refine (run_need hv _).trans ((run_need (f := (readDword · v)) hd _).trans ?_)
  rw [if_pos hbad]
  split <;> rfl

/-- Within the limits: the tests, the words moved, and the doubleword written back, even word first (R463, R464). -/
theorem run_pushDown_within (hv : effWordAddr s m alignDword = .ok v) (hd : readDword s v = .ok d)
    (hlim : WithinLimits d n) (h0 : locate s v .write = .ok l0) (h1 : locate s (v + 1) .write = .ok l1)
    (htest : test d s = .ok () s) (hmove : move d s = .ok () u)
    (hlocate : ∀ a k, locate u a k = locate s a k) : run (pushDown m n test move) s =
      .next (advance (setCC (stackCC d n) (writeLoc l1 (loWord (movedStack s d n))
        (writeLoc l0 (hiWord (movedStack s d n)) u)))) := by
  have hodd : v ||| 1#22 = v + 1 := or_one_of_even (effWordAddr_even hv)
  have hw0 : writeWord u v (hiWord (movedStack s d n)) = .ok (writeLoc l0 (hiWord (movedStack s d n)) u) :=
    writeWord_eq_ok ((hlocate _ _).trans h0) _
  have hw1 : writeWord (writeLoc l0 (hiWord (movedStack s d n)) u) (v ||| 1#22) (loWord (movedStack s d n)) =
      .ok (writeLoc l1 (loWord (movedStack s d n)) (writeLoc l0 (hiWord (movedStack s d n)) u)) := by
    rw [hodd]
    exact writeWord_eq_ok ((locate_writeLoc _ _ _ _ _).trans ((hlocate _ _).trans h1)) _
  refine (run_need hv _).trans ((run_need (f := (readDword · v)) hd _).trans ?_)
  rw [if_neg (by simp [not_beyond_of_withinLimits hlim]), run_bind htest,
    run_need (f := (testAccess · v .write)) (testAccess_eq_ok h0),
    run_need (f := (testAccess · (v ||| 1#22) .write)) (by rw [hodd]; exact testAccess_eq_ok h1), run_look,
    run_bind hmove, run_commit (f := (writeWord · v _)) hw0, run_commit (f := (writeWord · (v ||| 1#22) _)) hw1]
  rfl

end Course

/-! ### What the course leaves (R461, R463) -/

/-- Going on with the condition code set, after stores: as `advance_leaves`. -/
theorem advance_setCC_leaves {s u : State} {p : Loc → Prop} {q : BitVec 4 → Prop} (hk : KeptBut s u p q)
    (hd : OnlyData s u) (hp : u.psd = s.psd) (c : BitVec 4) :
    (∀ l, wordAt (advance (setCC c u)) l = wordAt u l) ∧ KeptBut s (advance (setCC c u)) p q ∧
      OnlyData s (advance (setCC c u)) ∧ (advance (setCC c u)).psd = (finishedCC s s.regs c).psd := by
  obtain ⟨hword, hkept, hdata, hpsd⟩ := advance_leaves hk hd hp
  have hrp : (advance u).psd.rp = s.psd.rp := by rw [hpsd]; rfl
  have hcomm : advance (setCC c u) = setCC c (advance u) := rfl
  rw [hcomm]
  refine ⟨fun l => (wordAt_withPsd rfl l).trans (hword l), keptBut_trans hkept (keptBut_withPsd rfl _ _) hrp,
    onlyData_trans hdata rfl, ?_⟩
  exact congrArg (fun x : Psd => { x with
    cc1 := c.getLsbD 3, cc2 := c.getLsbD 2, cc3 := c.getLsbD 1, cc4 := c.getLsbD 0 }) hpsd

/-- `u` is `s` with the words of a push-down instruction moved, into places of `p` or registers of `q`. -/
structure StackWordsMoved (s u : State) (p : Loc → Prop) (q : BitVec 4 → Prop) : Prop where
  kept : KeptBut s u p q
  data : OnlyData s u
  psd : u.psd = s.psd
  canonical : MemCanonical u

theorem StackWordsMoved.none {s : State} (hs : MemCanonical s) :
    StackWordsMoved s s (fun _ => False) (fun _ => False) := ⟨keptBut_refl s _ _, rfl, rfl, hs⟩

/-- `t` is how a push-down instruction of `n` words leaves the machine when its words moved have left it as `u`: the
doubleword `d'` at `l0` and `l1`, CC2 and CC4 as given. -/
structure PushDownEnd (s u t : State) (d d' : Dword) (n : Int) (l0 l1 : Loc) (p : Loc → Prop) (q : BitVec 4 → Prop)
    (c2 c4 : Bool) : Prop where
  moved : MovedStack s d d' n
  hi : wordAt t l0 = hiWord d'
  lo : wordAt t l1 = loWord d'
  words : ∀ l, l ≠ l0 → l ≠ l1 → wordAt t l = wordAt u l
  kept : KeptBut s t (fun x => p x ∨ x = l0 ∨ x = l1) q
  data : OnlyData s t
  psd : t.psd = (finished s s.regs false c2 false c4).psd

theorem PushDownEnd.kept_doubleword {s u t : State} {d d' : Dword} {n : Int} {l0 l1 : Loc} {q : BitVec 4 → Prop}
    {c2 c4 : Bool} (h : PushDownEnd s u t d d' n l0 l1 (fun _ => False) q c2 c4) :
    KeptBut s t (fun x => x = l0 ∨ x = l1) q :=
  keptBut_mono h.kept (fun _ hx => hx.resolve_left id) fun _ => id

/-- A push-down instruction within the limits (R461-R464). -/
theorem pushDown_ends {s u : State} {m : MR} {v : WordAddr} {d : Dword} {n : Int} {l0 l1 : Loc}
    {test move : Dword → Act Unit} {p : Loc → Prop} {q : BitVec 4 → Prop} {c2 c4 : Bool}
    (hv : effWordAddr s m alignDword = .ok v) (hd : readDword s v = .ok d) (hlim : WithinLimits d n)
    (h0 : locate s v .write = .ok l0) (h1 : locate s (v + 1) .write = .ok l1) (htest : test d s = .ok () s)
    (hmove : move d s = .ok () u) (hu : StackWordsMoved s u p q) (hc2 : decide ((spaceCount d : Int) - n = 0) = c2)
    (hc4 : decide ((wordCount d : Int) + n = 0) = c4) :
    ∃ t d', run (pushDown m n test move) s = .next t ∧ PushDownEnd s u t d d' n l0 l1 p q c2 c4 := by
  have hne : l0 ≠ l1 := dword_places_ne (effWordAddr_even hv) h0 h1
  have hrun := run_pushDown_within hv hd hlim h0 h1 htest hmove (locate_of_onlyData hu.data hu.psd)
  generalize hd' : movedStack s d n = d' at hrun
  have hpsd0 : (writeLoc l0 (hiWord d') u).psd = s.psd := (writeLoc_psd _ _ _).trans hu.psd
  have hkept : KeptBut s (writeLoc l1 (loWord d') (writeLoc l0 (hiWord d') u)) (fun x => p x ∨ x = l0 ∨ x = l1) q :=
    keptBut_trans
      (keptBut_trans (keptBut_mono hu.kept (fun _ => .inl) fun _ => id) (keptBut_writeLoc (.inr (.inl rfl)) _ _)
        (by rw [hu.psd]))
      (keptBut_writeLoc (.inr (.inr rfl)) _ _) (by rw [hpsd0])
  obtain ⟨hword, hk, hdata, hpsd⟩ := advance_setCC_leaves hkept
    (onlyData_trans (onlyData_trans hu.data (writeLoc_onlyData _ _ _)) (writeLoc_onlyData _ _ _))
    ((writeLoc_psd _ _ _).trans hpsd0) (stackCC d n)
  refine ⟨_, d', hrun, ⟨hd' ▸ movedStack_moved s hlim, ?_, ?_, fun l hl0 hl1 => ?_, hk, hdata, ?_⟩⟩
  · exact (hword l0).trans ((wordAt_writeLoc_ne hne _ _).trans (wordAt_writeLoc hu.canonical _ _))
  · exact (hword l1).trans (wordAt_writeLoc (memCanonical_writeLoc hu.canonical _ _) _ _)
  · exact (hword l).trans ((wordAt_writeLoc_ne hl1 _ _).trans (wordAt_writeLoc_ne hl0 _ _))
  · rw [hpsd, stackCC, hc2, hc4]
    exact congrArg State.psd (finishedCC_append s s.regs false c2 false c4)

end Sys2Proof.Proofs

namespace Sys2Proof.Proofs

open Sys2Proof Sys2Proof.Machine Sys2Proof.Laws

/-! ### The five instructions as one course (46_push_down R462-R469) -/

/-- The moving of PSM and PLM: the words, and then free values where a register of the run is one of the `n` words whose
lowest lies `k` from the top (U2). -/
def moveThenFree (move : Dword → Act Unit) (k : Int) (r : BitVec 4) (n : Nat) (d : Dword) : Act Unit := do
  move d
  let t ← look (fun s => stackMove s (stackTop s d) k)
  freeOverlap t r n 16

/-- `n` words added by each of the five instructions, negative for a pull (R465-R469). -/
def StackInstr (s : State) (m : MR) (i : Instr) (n : Int) : Prop :=
  (i = .psw m ∧ n = 1) ∨ (i = .plw m ∧ n = -1) ∨ (i = .psm m ∧ n = multipleCount s) ∨
    (i = .plm m ∧ n = -(multipleCount s : Int)) ∨ (i = .msp m ∧ n = ((getReg s m.r).extractLsb' 0 16).toInt)

section Courses

variable (s : State) (m : MR)

theorem exec_psw : exec (.psw m) s = run (pushDown m 1 (testPush 1) (pushWords m.r 1)) s := rfl

theorem exec_plw : exec (.plw m) s = run (pushDown m (-1) (testPull 1) (pullWords m.r 1)) s := rfl

theorem exec_psm : exec (.psm m) s =
    run (pushDown m (multipleCount s) (testPush (multipleCount s))
      (moveThenFree (pushWords m.r (multipleCount s)) 1 m.r (multipleCount s))) s := run_look multipleCount _ s

theorem exec_plm : exec (.plm m) s =
    run (pushDown m (-(multipleCount s : Int)) (testPull (multipleCount s))
      (moveThenFree (pullWords m.r (multipleCount s)) (1 - multipleCount s) m.r (multipleCount s))) s :=
  run_look multipleCount _ s

theorem exec_msp : exec (.msp m) s =
    run (pushDown m ((getReg s m.r).extractLsb' 0 16).toInt (fun _ => pure ()) fun _ => pure ()) s :=
  run_look (fun s => ((getReg s m.r).extractLsb' 0 16).toInt) _ s

end Courses

theorem exec_stackInstr {s : State} {m : MR} {i : Instr} {n : Int} (h : StackInstr s m i n) :
    ∃ test move, exec i s = run (pushDown m n test move) s := by
  rcases h with ⟨rfl, rfl⟩ | ⟨rfl, rfl⟩ | ⟨rfl, rfl⟩ | ⟨rfl, rfl⟩ | ⟨rfl, rfl⟩
  · exact ⟨_, _, exec_psw s m⟩
  · exact ⟨_, _, exec_plw s m⟩
  · exact ⟨_, _, exec_psm s m⟩
  · exact ⟨_, _, exec_plm s m⟩
  · exact ⟨_, _, exec_msp s m⟩

/-- Settles O52: MSP is the course with no words to move; beyond the limits the five are the same course. -/
theorem stackLimits : Obligations.StackLimits := by
  intro s m v d hs hv hd
  refine ⟨?msp, ?limits⟩
  case msp =>
    rintro n l0 l1 rfl hlim h0 h1
    obtain ⟨t, d', hrun, hend⟩ := pushDown_ends (test := fun _ => pure ()) (move := fun _ => pure ()) hv hd hlim h0 h1
      rfl rfl (.none hs) (decide_eq_decide.2 Int.sub_eq_zero) (decide_eq_decide.2 add_eq_zero_iff_eq_neg)
    exact ⟨t, d', (exec_msp s m).trans hrun, hend.moved, hend.hi, hend.lo, hend.kept_doubleword, hend.data, hend.psd⟩
  case limits =>
    rintro n _ rfl i hi sp wp hsp hwp
    obtain ⟨test, move, hexec⟩ := exec_stackInstr hi
    rw [← countBad_eq] at hsp hwp
    obtain rfl : sp = spaceBad d n := hsp
    obtain rfl : wp = wordBad d n := hwp
    rw [hexec]
    refine ⟨fun htraps => ?_, fun hbad hs hw => ?_⟩
    · rw [run_pushDown_beyond hv hd (by rcases htraps with ⟨h, -⟩ | ⟨h, -⟩ <;> simp [h])]
      exact if_pos (by simpa [limitTraps] using htraps)
    · rw [run_pushDown_beyond hv hd (by simpa using hbad),
        if_neg (by simpa [limitTraps] using And.intro hs hw), abortCC, finishedCC_append]
      rfl

end Sys2Proof.Proofs

namespace Sys2Proof.Proofs

open Sys2Proof Sys2Proof.Machine Sys2Proof.Laws

/-! ### The words tested (46_push_down R464, D42) -/

/-- The access tests of a run of stack words that can all be accessed. -/
theorem testWords_ok {s : State} {by_ : Int} {k : Access} {n : Nat} {t : WordAddr} (ht : t.toNat < addressSpace s)
    (h : ∀ j : Nat, j < n → testAccess s (stackMove s t (j * by_)) k = .ok ()) :
    testWords t by_ k n s = .ok () s := by
  induction n generalizing t with
  | zero => rfl
  | succ n ih =>
    have hfirst : testAccess s t k = .ok () := by simpa [stackMove_zero ht] using h 0 (by omega)
    unfold testWords
    rw [bind_ok (need_ok hfirst), bind_look]
    refine ih (stackMove_lt s t by_) fun j hj => ?_
    rw [stackMove_stackMove, show by_ + j * by_ = (j + 1 : Nat) * by_ by push_cast; ring]
    exact h (j + 1) (by omega)

theorem testPush_ok {s : State} {d : Dword} {n : Nat} {l : Nat → Loc}
    (h : ∀ k : Nat, k < n → locate s (stackMove s (stackTop s d) (k + 1)) .write = .ok (l k)) :
    testPush n d s = .ok () s :=
  (bind_look _ _ s).trans (testWords_ok (stackMove_lt s _ 1) fun k hk => by
    rw [stackMove_stackMove, mul_one, Int.add_comm]
    exact testAccess_eq_ok (h k hk))

theorem testPull_ok {s : State} {d : Dword} {n : Nat} {w : Nat → Word}
    (h : ∀ k : Nat, k < n → readWord s (stackMove s (stackTop s d) (-k)) = .ok (w k)) :
    testPull n d s = .ok () s :=
  (bind_look _ _ s).trans (testWords_ok (stackTop_lt s d) fun k hk => by
    obtain ⟨l, hl⟩ := locate_of_readWord (h k hk)
    rw [mul_neg_one]
    exact testAccess_eq_ok hl)

/-! ### The words pushed (R465, R467) -/

theorem memCanonical_of_pushWords {s u : State} {r : BitVec 4} {n : Nat} {d : Dword} (hs : MemCanonical s)
    (h : pushWords r n d s = .ok () u) : MemCanonical u := by
  have hleft := machineKeeps_memCanonical.user.keeps_pushWords r n d s hs
  rwa [h] at hleft

/-- One register stored above the top. -/
theorem pushWords_one {s : State} {r : BitVec 4} {d : Dword} {l : Loc}
    (h : locate s (stackMove s (stackTop s d) 1) .write = .ok l) :
    pushWords r 1 d s = .ok () (writeLoc l (getReg s r) s) :=
  (bind_look _ _ s).trans (bind_ok (commit_ok (writeWord_eq_ok h _)) _)

/-- Registers stored above the top, when the places are distinct and none is a register of the run. -/
theorem pushWords_ok {s : State} {r : BitVec 4} {n : Nat} {d : Dword} {l : Nat → Loc} (hs : MemCanonical s)
    (hl : ∀ k : Nat, k < n → locate s (stackMove s (stackTop s d) (k + 1)) .write = .ok (l k))
    (hne : ∀ j k, j < k → k < n → l j ≠ l k) (hno : NoOverlap s (stackMove s (stackTop s d) 1) r n) :
    ∃ u, pushWords r n d s = .ok () u ∧ MemCanonical u ∧
      WordsStored s u l n fun k => getReg s (r + BitVec.ofNat 4 k) := by
  have hplace : ∀ k, k < n → locate s (wordPlus s (stackMove s (stackTop s d) 1) k) .write = .ok (l k) :=
    fun k hk => by
      rw [wordPlus_eq_stackMove, stackMove_stackMove, Int.add_comm]
      exact hl k hk
  obtain ⟨u, hu, hstored⟩ := storeMultiple_ok false hs (stackMove_lt s _ 1) hplace hne fun i j hi hj =>
    ne_reg_of_locate (hplace i hi) (hno i j hi hj)
  exact ⟨u, hu, memCanonical_of_pushWords hs hu, hstored⟩

/-! ### The words pulled (R466, R468) -/

/-- The last register of a run loaded and then those before it. -/
theorem WordsLoaded.snoc {s t : State} {r : BitVec 4} {n : Nat} {w : Nat → Word} (hn : n ≤ 15)
    (h : WordsLoaded (setReg (r + BitVec.ofNat 4 n) (w n) s) t r n w) : WordsLoaded s t r (n + 1) w where
  frame := h.frame
  words k hk := by
    rcases Nat.lt_succ_iff_lt_or_eq.1 hk with hlt | rfl
    · exact h.words k hlt
    · have hlast : ¬ InRun r k (r + BitVec.ofNat 4 k) := fun ⟨j, hj, he⟩ => by
        have hnat := congrArg BitVec.toNat ((BitVec.add_right_inj r).1 he)
        simp at hnat
        omega
      rw [h.kept _ hlast, getReg_setReg_same]
  kept x hx := by
    rw [h.kept x fun ⟨j, hj, e⟩ => hx ⟨j, by omega, e⟩,
      getReg_setReg_ne fun e => hx ⟨n, by omega, e⟩]
  blocks := otherBlocksKept_trans (otherBlocksKept_writeLoc (fun _ _ _ => rfl) rfl (.reg _) (w n)) h.blocks rfl

/-- Readable words from `b` up are loaded from the last downwards, when none is a register loaded before it. -/
theorem pullDown_ok (altered : Bool) {b : WordAddr} {r : BitVec 4} {n : Nat} {s : State} {w : Nat → Word}
    (hn : n ≤ 16) (hno : ∀ i j, i < j → j < n → wordPlus s b i ≠ (r + BitVec.ofNat 4 j).zeroExtend 22)
    (hw : ∀ k, k < n → readWord s (wordPlus s b k) = .ok (w k)) :
    ∃ u, pullDown altered (stackMove s b (n - 1)) (r + BitVec.ofNat 4 n - 1) n s = .ok () u ∧
      WordsLoaded s u r n w := by
  induction n generalizing altered s with
  | zero => exact ⟨s, rfl, rfl, fun k hk => absurd hk (by omega), fun _ _ => rfl, fun _ _ _ => rfl⟩
  | succ n ih =>
    have haddr : stackMove s b ((n + 1 : Nat) - 1) = wordPlus s b n := by
      rw [wordPlus_eq_stackMove, Nat.cast_succ, Int.add_sub_cancel]
    have hreg : r + BitVec.ofNat 4 (n + 1) - 1 = r + BitVec.ofNat 4 n := by
      rw [BitVec.ofNat_add, ← BitVec.add_assoc]
      exact BitVec.add_sub_cancel _ _
    have hnext : stackMove s (wordPlus s b n) (-1) = stackMove s b (n - 1) := by
      rw [wordPlus_eq_stackMove, stackMove_stackMove]
      rfl
    generalize hs1 : setReg (r + BitVec.ofNat 4 n) (w n) s = s1
    have hpsd : s1.psd = s.psd := by rw [← hs1]; rfl
    obtain ⟨u, hu, hloaded⟩ := ih (altered := true) (s := s1) (by omega)
      (fun i j hij hj => by
        rw [wordPlus_congr hpsd]
        exact hno i j hij (by omega))
      (fun k hk => by
        rw [wordPlus_congr hpsd, ← hs1, readWord_setReg_ne (hno k n hk (by omega))]
        exact hw k (by omega))
    refine ⟨u, ?_, WordsLoaded.snoc (by omega) (hs1 ▸ hloaded)⟩
    rw [haddr, hreg]
    unfold pullDown
    rw [bind_ok (onceAltered_ok altered (need_ok (hw n (by omega)))), bind_change, bind_look, hs1, stackMove_congr hpsd,
      hnext, ← stackMove_congr hpsd]
    exact hu

/-- Registers loaded from the top downwards: word `k` of the stack, from the top, goes into the register `k` before the
last. -/
theorem pullWords_ok {s : State} {r : BitVec 4} {n : Nat} {d : Dword} {w : Nat → Word} (hn : n ≤ 16)
    (hno : ∀ i j, i < j → j < n →
      wordPlus s (stackMove s (stackTop s d) (1 - n)) i ≠ (r + BitVec.ofNat 4 j).zeroExtend 22)
    (hw : ∀ k : Nat, k < n → readWord s (stackMove s (stackTop s d) (-k)) = .ok (w k)) :
    ∃ u, pullWords r n d s = .ok () u ∧ WordsLoaded s u r n fun k => w (n - 1 - k) := by
  have htop : stackMove s (stackMove s (stackTop s d) (1 - n)) (n - 1) = stackTop s d := by
    rw [stackMove_stackMove, show (1 - n + (n - 1) : Int) = 0 by omega, stackMove_zero (stackTop_lt s d)]
  obtain ⟨u, hu, hloaded⟩ := pullDown_ok false (w := fun k => w (n - 1 - k)) hn hno fun k hk => by
    rw [wordPlus_eq_stackMove, stackMove_stackMove, show (1 - n + k : Int) = -(n - 1 - k : Nat) by omega]
    exact hw _ (by omega)
  rw [htop] at hu
  exact ⟨u, hu, hloaded⟩

theorem WordsLoaded.moved {s u : State} {r : BitVec 4} {n : Nat} {w : Nat → Word} (hs : MemCanonical s)
    (h : WordsLoaded s u r n w) : StackWordsMoved s u (fun _ => False) (InRun r n) where
  kept := ⟨fun _ _ => by rw [h.frame], fun x _ hx => h.kept x hx, h.blocks⟩
  data := by rw [h.frame]; rfl
  psd := h.psd
  canonical := by rw [h.frame]; exact hs

theorem eq_of_inRun_one {r x : BitVec 4} (h : InRun r 1 x) : x = r :=
  (inRun_succ.1 h).resolve_right fun ⟨_, hj, _⟩ => absurd hj (by omega)

theorem readWord_eq_ok {s : State} {v : WordAddr} {l : Loc} (h : locate s v .read = .ok l) (hl : Sound s l) :
    readWord s v = .ok (wordAt s l) := by
  rw [readWord, h]
  exact readLocNoting_sound hl swReadParity

/-! ### PSW and PLW (R465, R466) -/

/-- Settles O50: the course with one word moved. -/
theorem pushPullWord : Obligations.PushPullWord := by
  intro s m v d l l0 l1 hs hv hd h0 h1
  refine ⟨fun hlim hl hl0 hl1 => ?psw, fun hlim hl hsound hl0 hl1 => ?plw⟩
  case psw =>
    have htest : testPush 1 d s = .ok () s := testPush_ok (l := fun _ => l) fun k hk => by
      obtain rfl : k = 0 := by omega
      exact hl
    have hmoved : StackWordsMoved s (writeLoc l (getReg s m.r) s) (· = l) (fun _ => False) :=
      ⟨writeLoc_keptBut l _ s, writeLoc_onlyData l _ s, writeLoc_psd l _ s, memCanonical_writeLoc hs l _⟩
    obtain ⟨t, d', hrun, hend⟩ := pushDown_ends (c2 := decide (spaceCount d = 1)) (c4 := false) hv hd hlim h0 h1 htest
      (pushWords_one hl) hmoved (decide_eq_decide.2 (by omega)) (decide_eq_false (by omega))
    exact ⟨t, d', (exec_psw s m).trans hrun, hend.moved,
      (hend.words l hl0 hl1).trans (wordAt_writeLoc hs l _), hend.hi, hend.lo, hend.kept, hend.data, hend.psd⟩
  case plw =>
    have hw : ∀ k : Nat, k < 1 → readWord s (stackMove s (stackTop s d) (-k)) = .ok (wordAt s l) := fun k hk => by
      obtain rfl : k = 0 := by omega
      rw [Nat.cast_zero, neg_zero, stackMove_zero (stackTop_lt s d)]
      exact readWord_eq_ok hl hsound
    obtain ⟨u, hu, hloaded⟩ := pullWords_ok (r := m.r) (by omega) (fun i j hij hj => absurd hij (by omega)) hw
    have hword : getReg u m.r = wordAt s l := by simpa using hloaded.words 0 Nat.one_pos
    obtain ⟨t, d', hrun, hend⟩ := pushDown_ends (n := -1) (c2 := false) (c4 := decide (wordCount d = 1)) hv hd hlim
      h0 h1 (testPull_ok hw) hu (hloaded.moved hs) (decide_eq_false (by omega)) (decide_eq_decide.2 (by omega))
    exact ⟨t, d', (exec_plw s m).trans hrun, hend.moved, (hend.words (.reg m.r) hl0.symm hl1.symm).trans hword,
      hend.hi, hend.lo, keptBut_mono hend.kept_doubleword (fun _ => id) fun _ => eq_of_inRun_one, hend.data, hend.psd⟩

/-! ### PSM and PLM (R467, R468) -/

theorem stackTop_congr {s t : State} (h : t.psd = s.psd) (d : Dword) : stackTop t d = stackTop s d := by
  unfold stackTop wrapWord realExtended
  rw [h]

/-- Words moved, and no register of the run among their addresses left a free value. -/
theorem moveThenFree_ok {s u : State} {move : Dword → Act Unit} {d : Dword} {k : Int} {r : BitVec 4} {n : Nat}
    (hmove : move d s = .ok () u) (hpsd : u.psd = s.psd) (hno : NoOverlap s (stackMove s (stackTop s d) k) r n) :
    moveThenFree move k r n d s = .ok () u := by
  rw [moveThenFree, bind_ok hmove, bind_look, stackMove_congr hpsd, stackTop_congr hpsd]
  refine freeOverlap_none ?_ 16
  unfold NoOverlap
  rw [wordPlus_congr hpsd]
  exact hno

/-- Settles O51: the course with the registers of the run moved. -/
theorem pushPullMultiple : Obligations.PushPullMultiple := by
  intro s m v d n l0 l1 hs hv hd h0 h1 hn
  obtain ⟨hpos, hle⟩ := multipleCount_bounds s
  obtain rfl : n = multipleCount s := hn
  refine ⟨fun l hlim hl hne hno => ?psm, fun w hlim hw hno hreg => ?plm⟩
  case psm =>
    have hloc := fun k hk => (hl k hk).1
    obtain ⟨u, hu, hcanonical, hstored⟩ := pushWords_ok (r := m.r) hs hloc hne hno
    have hmoved := StackWordsMoved.mk hstored.kept hstored.data hstored.psd hcanonical
    obtain ⟨t, d', hrun, hend⟩ := pushDown_ends (c2 := decide (spaceCount d = multipleCount s)) (c4 := false) hv hd hlim
      h0 h1 (testPush_ok hloc) (moveThenFree_ok hu hstored.psd hno) hmoved (decide_eq_decide.2 (by omega))
      (decide_eq_false (by omega))
    refine ⟨t, d', (exec_psm s m).trans hrun, hend.moved, fun k hk => ?_, hend.hi, hend.lo, hend.kept, hend.data,
      hend.psd⟩
    obtain ⟨-, hk0, hk1⟩ := hl k hk
    exact (hend.words (l k) hk0 hk1).trans (hstored.words k hk)
  case plm =>
    obtain ⟨u, hu, hloaded⟩ := pullWords_ok hle (fun i j hij hj => hno i j (by omega) hj) hw
    obtain ⟨t, d', hrun, hend⟩ := pushDown_ends (c2 := false) (c4 := decide (wordCount d = multipleCount s)) hv hd hlim
      h0 h1 (testPull_ok hw) (moveThenFree_ok hu hloaded.psd hno) (hloaded.moved hs) (decide_eq_false (by omega))
      (decide_eq_decide.2 (by omega))
    refine ⟨t, d', (exec_plm s m).trans hrun, hend.moved, fun k hk => ?_, hend.hi, hend.lo, hend.kept_doubleword,
      hend.data, hend.psd⟩
    obtain ⟨hr0, hr1⟩ := hreg (multipleCount s - 1 - k) (by omega)
    rw [show w k = w (multipleCount s - 1 - (multipleCount s - 1 - k)) by congr 1; omega,
      ← hloaded.words (multipleCount s - 1 - k) (by omega)]
    exact hend.words (.reg _) hr0.symm hr1.symm

end Sys2Proof.Proofs

namespace Sys2Proof.Proofs

open Sys2Proof Sys2Proof.Machine Sys2Proof.Laws

/-! ### The instruction address and its extension (10_state R47) -/

/-- Sixteen bits of an address with its extension before them (R47). -/
theorem extended_toNat {n : Nat} (e : BitVec n) (x : Half) : (e ++ x).toNat = e.toNat * 65536 + x.toNat := by
  rw [BitVec.toNat_append, ← Nat.shiftLeft_add_eq_or_of_lt x.isLt, Nat.shiftLeft_eq]

theorem zero_append_toNat {n k : Nat} (x : BitVec n) : (0#k ++ x).toNat = x.toNat := by
  simp [BitVec.toNat_append]

theorem extension_toNat (s : State) : (if s.psd.ia.getLsbD 16 then s.psd.ea else 0#6).toNat * 65536 =
    if s.psd.ia.getLsbD 16 then s.psd.ea.toNat * 65536 else 0 := by
  split <;> simp

theorem pc_toNat (s : State) : (pc s).toNat = if realExtended s then
    (if s.psd.ia.getLsbD 16 then s.psd.ea.toNat * 65536 else 0) + s.psd.ia.toNat % 65536 else s.psd.ia.toNat := by
  unfold pc
  split
  · rw [extended_toNat, extension_toNat, BitVec.extractLsb'_toNat, Nat.shiftRight_zero]
  · exact BitVec.toNat_setWidth_of_le (by omega)

theorem nextIa_toNat (s : State) : (nextIa s).toNat = if s.inst.addressHold then s.psd.ia.toNat
    else if realExtended s then s.psd.ia.toNat / 65536 * 65536 + (s.psd.ia.toNat + 1) % 65536
    else (s.psd.ia.toNat + 1) % 131072 := by
  rw [nextIa, apply_ite BitVec.toNat, incrementedIa_toNat]

/-- The link word is the address of the next instruction in sequence, HOLD or not (R498). -/
theorem linkWord_toNat (s : State) : (linkWord s).toNat = if realExtended s then
      (if s.psd.ia.getLsbD 16 then s.psd.ea.toNat * 65536 else 0) + (s.psd.ia.toNat + 1) % 65536
    else (s.psd.ia.toNat + 1) % 131072 := by
  unfold linkWord
  split
  next hr =>
    have hlow : ((incrementedIa s).extractLsb' 0 16).toNat = (s.psd.ia.toNat + 1) % 65536 := by
      rw [BitVec.extractLsb'_toNat, incrementedIa_toNat, if_pos hr]
      omega
    rw [extended_toNat, zero_append_toNat, extension_toNat, hlow]
  next hr => rw [zero_append_toNat, incrementedIa_toNat, if_neg hr]

theorem linkWord_eq (s : State) : linkWord s = if realExtended s then
      BitVec.ofNat 32 ((if s.psd.ia.getLsbD 16 then s.psd.ea.toNat * 65536 else 0) + (s.psd.ia.toNat + 1) % 65536)
    else BitVec.ofNat 32 ((s.psd.ia.toNat + 1) % 131072) := by
  rw [← apply_ite (BitVec.ofNat 32), ← linkWord_toNat]
  simp

/-! ### The fetch (20_memory R115) -/

theorem fetchWord_eq_ok {s : State} {l : Loc} (h : locate s (pc s) .fetch = .ok l) (hl : Sound s l) :
    fetchWord s = .ok (wordAt s l) := by
  rw [fetchWord, h]
  exact readLocNoting_sound hl swReadParity

end Sys2Proof.Proofs

namespace Sys2Proof.Proofs

open Sys2Proof Sys2Proof.Machine Sys2Proof.Laws

/-! ### Taken and untaken branches (47_execute_branch_call R491, R492) -/

/-- The first 64K are the targets whose six high bits are 0 (R491). -/
theorem extension_eq_zero_iff (v : WordAddr) : v.extractLsb' 16 6 = 0#6 ↔ v.toNat < 65536 := by
  rw [← BitVec.toNat_inj, BitVec.extractLsb'_toNat, Nat.shiftRight_eq_div_pow, BitVec.toNat_ofNat]
  omega

theorem branchTo_eq_branched (s : State) (regs : Vector Word 64) (v : WordAddr) :
    branchTo v { s with regs := regs } = branched s regs v := by
  have hr : realExtended { s with regs := regs } = realExtended s := rfl
  unfold branchTo branched
  rw [hr]
  cases realExtended s with
  | false => simp
  | true =>
    by_cases h : v.toNat < 65536
    · simp [(extension_eq_zero_iff v).2 h, Nat.not_le.2 h]
    · simp [mt (extension_eq_zero_iff v).1 h, Nat.not_lt.1 h]

theorem testAccess_eq_error {s : State} {v : WordAddr} {k : Access} {e : Trap} (h : locate s v k = .error e) :
    testAccess s v k = .error e := by
  simp [testAccess, h]

section Branch

variable {s : State} {m : MR} {reg : State → State} {regs : Vector Word 64} {v : WordAddr}

theorem run_branchIf_untaken (hreg : reg s = { s with regs := regs }) :
    run (branchIf false m reg) s = .next (onward s regs) :=
  calc run (branchIf false m reg) s = .next (advance (reg s)) := rfl
    _ = .next (onward s regs) := by rw [hreg]; rfl

theorem run_branchIf_taken {l : Loc} (hreg : reg s = { s with regs := regs })
    (hv : effWordAddr s m alignWord = .ok v) (hl : locate s v .fetch = .ok l) :
    run (branchIf true m reg) s = .next (branched s regs v) := by
  rw [← branchTo_eq_branched, ← hreg]
  exact (run_need hv _).trans (run_need (f := (branchTargetTest · v)) (testAccess_eq_ok hl) _)

theorem run_branchIf_closed {e : Trap} (hv : effWordAddr s m alignWord = .ok v)
    (hl : locate s v .fetch = .error e) : run (branchIf true m reg) s = .next (enterTrap e s) :=
  (run_need hv _).trans (run_need_error (f := (branchTargetTest · v)) (testAccess_eq_error hl) _)

end Branch

/-! ### BCS, BCR, BIR and BDR (R494-R497) -/

/-- `i` is one of the four conditional branches: whether it is taken and the registers it leaves. -/
def BranchInstr (s : State) (m : MR) (taken : Bool) (regs : Vector Word 64) (i : Instr) : Prop :=
  (i = .bcs m ∧ taken = decide (ccOf s &&& m.r ≠ 0) ∧ regs = s.regs) ∨
  (i = .bcr m ∧ taken = decide (ccOf s &&& m.r = 0) ∧ regs = s.regs) ∨
  (i = .bir m ∧ taken = decide ((getReg s m.r + 1).toInt < 0) ∧ regs = oneReg s m.r (getReg s m.r + 1)) ∨
  (i = .bdr m ∧ taken = decide (0 < (getReg s m.r - 1).toInt) ∧ regs = oneReg s m.r (getReg s m.r - 1))

section Courses

variable (s : State) (m : MR)

theorem exec_bcs : exec (.bcs m) s = run (branchIf (ccOf s &&& m.r != 0) m id) s := rfl

theorem exec_bcr : exec (.bcr m) s = run (branchIf (ccOf s &&& m.r == 0) m id) s := rfl

theorem exec_bir : exec (.bir m) s =
    run (branchIf (getReg s m.r + 1).msb m (setReg m.r (getReg s m.r + 1))) s := rfl

theorem exec_bdr : exec (.bdr m) s = run (branchIf (!(getReg s m.r - 1).msb && getReg s m.r - 1 != 0) m
    (setReg m.r (getReg s m.r - 1))) s := rfl

end Courses

theorem exec_branchInstr {s : State} {m : MR} {taken : Bool} {regs : Vector Word 64} {i : Instr}
    (h : BranchInstr s m taken regs i) :
    ∃ reg : State → State, reg s = { s with regs := regs } ∧ exec i s = run (branchIf taken m reg) s := by
  rcases h with ⟨rfl, rfl, rfl⟩ | ⟨rfl, rfl, rfl⟩ | ⟨rfl, rfl, rfl⟩ | ⟨rfl, rfl, rfl⟩
  · exact ⟨id, rfl, by rw [exec_bcs, bne, beq_eq_decide, decide_not]⟩
  · exact ⟨id, rfl, by rw [exec_bcr, beq_eq_decide]⟩
  · exact ⟨setReg m.r (getReg s m.r + 1), rfl, by rw [exec_bir, decide_neg]⟩
  · exact ⟨setReg m.r (getReg s m.r - 1), rfl, by rw [exec_bdr, decide_pos]⟩

/-- Settles O53: the four are one branch with the register change made on either path. -/
theorem conditionalBranches : Obligations.ConditionalBranches := by
  intro s m taken regs i hi
  obtain ⟨reg, hreg, hexec⟩ := exec_branchInstr hi
  rw [hexec]
  refine ⟨?untaken, ?taken, ?closed⟩
  case untaken => rintro rfl; exact run_branchIf_untaken hreg
  case taken => rintro v l rfl hv hl; exact run_branchIf_taken hreg hv hl
  case closed => rintro v e rfl hv hl; exact run_branchIf_closed hv hl

end Sys2Proof.Proofs

namespace Sys2Proof.Proofs

open Sys2Proof Sys2Proof.Machine Sys2Proof.Laws

/-! ### EXU (47_execute_branch_call R493) -/

theorem exec_exu {s : State} {m : MR} {v : WordAddr} {l : Loc} (hv : effWordAddr s m alignWord = .ok v)
    (hl : locate s v .fetch = .ok l) (hs : Sound s l) :
    exec (.exu m) s = .next { s with pend := .subject (wordAt s l) } :=
  (run_need hv _).trans ((run_need (f := (locate · v .fetch)) hl _).trans
    (run_need (f := (readLoc · l)) (readLocNoting_sound hs swReadParity) _))

/-! ### BAL (R498) -/

theorem altering_error {α : Type} {a : Act α} {t : Trap} {s s' : State} (h : a s = .error (.trap t) s') :
    altering a s = .error (.trap { t with ra := true }) s' := by
  simp [altering, h]

section Link

variable {s : State} {m : MR} {v : WordAddr}

/-- The link is made when the target is tested. -/
theorem exec_bal (hv : effWordAddr s m alignWord = .ok v) : exec (.bal m) s =
    run (do altering (need (branchTargetTest · v)); change (branchTo v))
      { s with regs := oneReg s m.r (linkWord s) } :=
  run_need hv _

theorem exec_bal_open {l : Loc} (hv : effWordAddr s m alignWord = .ok v) (hl : locate s v .fetch = .ok l) :
    exec (.bal m) s = .next (branched s (oneReg s m.r (linkWord s)) v) := by
  rw [exec_bal hv, ← branchTo_eq_branched]
  exact run_bind (altering_ok (need_ok (f := (branchTargetTest · v)) (testAccess_eq_ok
    ((locate_writeLoc (.reg m.r) (linkWord s) s v .fetch).trans hl)))) _

theorem exec_bal_closed {e : Trap} (hv : effWordAddr s m alignWord = .ok v) (hl : locate s v .fetch = .error e) :
    exec (.bal m) s = .next (enterTrap { e with ra := true } { s with regs := oneReg s m.r (linkWord s) }) := by
  rw [exec_bal hv]
  exact run_trap (bind_error (altering_error (need_error (f := (branchTargetTest · v)) (testAccess_eq_error
    ((locate_writeLoc (.reg m.r) (linkWord s) s v .fetch).trans hl)))) _)

end Link

/-! ### The CALLs (R499-R502, 60_exceptions R661) -/

theorem refAddrWith_eq_ok {rd : WordAddr → Except Trap Word} {s : State} {m : MR}
    (h : m.ind = true → ∃ w, rd (directRef s m) = .ok w) : ∃ a, refAddrWith rd s m = .ok a := by
  unfold refAddrWith
  split
  next hind =>
    obtain ⟨w, hw⟩ := h hind
    exact ⟨indirectRef s w, by rw [hw]⟩
  next => exact ⟨directRef s m, rfl⟩

/-- A CALL traps when it is complete (R661). -/
theorem run_call (loc : BitVec 8) {s : State} {m : MR}
    (h : m.ind = true → ∃ w, readWord s (directRef s m) = .ok w) :
    run (call loc m) s = .next (enterTrap { loc := loc, tcc := m.r } (onward s s.regs)) := by
  obtain ⟨a, ha⟩ := refAddrWith_eq_ok h
  exact run_need (f := fun s => refAddrWith (readWord s) s m) ha _

/-- Settles O54: the subject left for the next step, the link before the test of the target, and one course of the four
CALLs. -/
theorem executeLinkCall : Obligations.ExecuteLinkCall := by
  refine ⟨fun s m v l => exec_exu, fun s m v link hv hlink => ?bal, fun s m h => ?call⟩
  case bal =>
    obtain rfl : link = linkWord s := hlink.trans (linkWord_eq s).symm
    exact ⟨fun l => exec_bal_open hv, fun e => exec_bal_closed hv⟩
  case call => exact ⟨run_call _ h, run_call _ h, run_call _ h, run_call _ h⟩

end Sys2Proof.Proofs

namespace Sys2Proof.Proofs

open Sys2Proof Sys2Proof.Machine Sys2Proof.Laws

/-! ### ADDRESS STOP (70_reset_and_hazards R715) -/

/-- Two words that differ nowhere in the field of `len` bits above the low `k` have the same field. -/
theorem extract_xor_eq_zero_iff {n : Nat} (v w : BitVec n) (k len : Nat) :
    (v ^^^ w).extractLsb' k len = 0#len ↔ v.toNat / 2 ^ k % 2 ^ len = w.toNat / 2 ^ k % 2 ^ len := by
  rw [BitVec.extractLsb'_xor, BitVec.xor_eq_zero_iff, ← BitVec.toNat_inj, BitVec.extractLsb'_toNat,
    BitVec.extractLsb'_toNat, Nat.shiftRight_eq_div_pow, Nat.shiftRight_eq_div_pow]

theorem stopsHere_of_match {s : State} {unit : Nat} (hmode : s.stopSwitches.mode = .instr)
    (harmed : s.snapArmed = false) (hvisit : s.stoppedAt ≠ some (pc s))
    (hunit : unit = if s.stopSwitches.page then 512 else 1)
    (h : (pc s).toNat % 131072 / unit = s.stopSwitches.select.toNat % 131072 / unit) : stopsHere s = true := by
  have hsame : if s.stopSwitches.page then (pc s ^^^ s.stopSwitches.select).extractLsb' 9 8 = 0#8
      else (pc s ^^^ s.stopSwitches.select).extractLsb' 0 17 = 0#17 := by
    simp only [extract_xor_eq_zero_iff]
    subst hunit
    split
    next hpage => rw [if_pos hpage] at h; omega
    next hpage => rw [if_neg hpage] at h; omega
  simpa [stopsHere, hmode, harmed, hvisit] using hsame

theorem boundary_of_stopsHere {s : State} (hc : s.compute = .run) (hh : s.halt = .none)
    (hi : nextInterrupt s = none) (h : stopsHere s = true) : boundary s = .stop := by
  simp [boundary, hc, hh, hi, h]

/-- The halt comes only on top of what the activity does (R715). -/
theorem withReferenceStop_next {f : State → Result} {s t : State} (h : f s = .next t) :
    withReferenceStop f s = .next t ∨ withReferenceStop f s = .next { t with halt := .addressStop } := by
  rcases withReferenceStop_cases f s with e | e <;> rw [e, h]
  · exact .inl rfl
  · exact (haltAtReference_cases t).imp (congrArg Host.Outcome.next) (congrArg Host.Outcome.next)

theorem withReferenceStop_of_not_watching {f : State → Result} {s : State} (hh : s.halt ≠ .addressStop)
    (h : s.stopSwitches.mode ≠ .memRef ∨ s.compute ≠ .run ∨ s.snapArmed = true) : withReferenceStop f s = f s := by
  have hw : watchesReferences s = false := by
    rcases h with h | h | h <;> simp [watchesReferences, h]
  simp [withReferenceStop, meetsSwitches, hh, hw]

/-! ### The boundary (47_execute_branch_call R490) -/

section Boundary

variable {s s1 : State}

theorem step_instruction (hp : s.pend = .none) (hin : takeInputs s = s1) (hp1 : s1.pend = .none)
    (hb : boundary s1 = .instruction) : step s = mapNext settle (withReferenceStop runInstruction s1) := by
  subst hin
  simp only [step, hp, hp1, hb]

theorem step_stop (hp : s.pend = .none) (hin : takeInputs s = s1) (hp1 : s1.pend = .none)
    (hb : boundary s1 = .stop) : step s = .next (haltAtAddress s1) := by
  subst hin
  simp only [step, hp, hp1, hb]

theorem step_subject {w : Word} (hp : s.pend = .subject w) :
    step s = mapNext settle (withReferenceStop (runSubject w) s) := by
  simp only [step, hp]

end Boundary

/-! ### The instruction at the boundary (R490, R493; 60_exceptions R650) -/

section Fetched

variable {s : State} {w : Word}

theorem runWord_instr {i : Instr} (h : decodeWord w = .ok i) : runWord w s = exec i s := by
  rw [runWord, h]

theorem runWord_error {e : DecodeError} (h : decodeWord w = .error e) :
    runWord w s = .next (enterTrap (decodeErrorTrap s e) s) := by
  rw [runWord, h]

theorem fireSnapshot_disarmed (h : s.snapArmed = false) : fireSnapshot s = s := by
  simp [fireSnapshot, h]

theorem staleNow_none (h : s.stale = none) : staleNow s = none := by
  rw [staleNow, h]

theorem chosenWord_fetched (h : s.stale = none) : chosenWord s w = w := by
  rw [chosenWord, staleNow_none h]

theorem startInstruction_eq (h : s.stale = none) :
    startInstruction s = { s with jumped := false, completed := true, stoppedAt := none } := by
  rw [startInstruction, staleNow_none h, h]
  rfl

theorem runInstruction_error {e : Trap} (ha : s.snapArmed = false) (hf : fetchWord s = .error e) :
    runInstruction s = .next (enterTrap e s) := by
  rw [runInstruction, fireSnapshot_disarmed ha, hf]

theorem runInstruction_ok (ha : s.snapArmed = false) (hs : s.stale = none) (hf : fetchWord s = .ok w) :
    runInstruction s =
      mapNext (noteStale s) (runWord w { s with jumped := false, completed := true, stoppedAt := none }) := by
  rw [runInstruction, fireSnapshot_disarmed ha, hf, ← startInstruction_eq hs]
  simp only [chosenWord_fetched hs]

end Fetched

/-- Settles O8, clause by clause: the boundary gives the instruction, the fetch its word, the decoder its meaning. -/
theorem stepRunsInstruction : Obligations.StepRunsInstruction := by
  refine ⟨fun s => ⟨pc_toNat s, fun l => fetchWord_eq_ok, nextIa_toNat s⟩, ?stop, ?unfetched, ?fetched, ?subject,
    fun f s hh => ⟨withReferenceStop_of_not_watching hh, fun t => withReferenceStop_next⟩⟩
  case stop =>
    intro s s1 unit hp hin hp1 hc hh hi hmode harmed hvisit hunit h
    exact step_stop hp hin hp1 (boundary_of_stopsHere hc hh hi (stopsHere_of_match hmode harmed hvisit hunit h))
  case unfetched =>
    intro s s1 e hp hin hp1 hb harmed hf
    exact ⟨step_instruction hp hin hp1 hb, runInstruction_error harmed hf⟩
  case fetched =>
    intro s s1 w hp hin hp1 hb harmed hstale hf
    refine ⟨step_instruction hp hin hp1 hb, fun i hi => ?_, fun e he => ?_⟩
    · rw [runInstruction_ok harmed hstale hf, runWord_instr hi]
    · rw [runInstruction_ok harmed hstale hf, runWord_error he]
      rfl
  case subject =>
    intro s w i hp hi
    exact ⟨step_subject hp, by rw [runSubject, runWord_instr hi]⟩

end Sys2Proof.Proofs

namespace Sys2Proof.Proofs

open Sys2Proof Sys2Proof.Machine Sys2Proof.Laws

/-! ### Privileged instructions in slave mode (60_exceptions R652) -/

/-- Settles O9: each of the seventeen is privileged. -/
theorem slaveModePrivileged : Obligations.SlaveModePrivileged := by
  intro s m hs i hi
  have hpriv : privileged i = true := by
    revert i
    simp [privileged]
  exact exec_privileged_slave hpriv hs

/-- A privileged meaning in master mode, past its first test. -/
theorem run_requireMaster {s : State} (h : s.psd.ms = false) (k : Unit → Act Unit) :
    run (requireMaster >>= k) s = run (k ()) s :=
  run_bind (requireMaster_ok h) k

end Sys2Proof.Proofs

namespace Sys2Proof.Proofs

open Sys2Proof Sys2Proof.Machine Sys2Proof.Laws

/-! ### Bit strings as numbers -/

theorem append_toNat {m n : Nat} (x : BitVec m) (y : BitVec n) : (x ++ y).toNat = x.toNat * 2 ^ n + y.toNat := by
  rw [BitVec.toNat_append, ← Nat.shiftLeft_add_eq_or_of_lt y.isLt, Nat.shiftLeft_eq]

theorem field_toNat (w : Word) (a b : Nat) : (field w a b).toNat = w.toNat / 2 ^ (31 - b) % 2 ^ (b + 1 - a) := by
  rw [field, BitVec.extractLsb'_toNat, Nat.shiftRight_eq_div_pow]

theorem ofBool_toNat (b : Bool) : (BitVec.ofBool b).toNat = if b then 1 else 0 := by cases b <;> rfl

end Sys2Proof.Proofs

namespace Sys2Proof.Proofs

open Sys2Proof Sys2Proof.Machine Sys2Proof.Laws

/-! ### LRP and WAIT (48_control R525, R538) -/

/-- A register pointer to a block that is installed (R525). -/
theorem exec_lrp {s : State} {m : MR} {w : Word} (hm : s.psd.ms = false) (hw : operandWord s m = .ok w)
    (h : (field w 26 27).toNat < s.inst.nblocks) : exec (.lrp m) s =
      .next { s with psd := { s.psd with rp := (field w 26 27).zeroExtend 4, ia := nextIa s } } := by
  have hrp : (0#2 ++ field w 26 27 : BitVec 4) = (field w 26 27).zeroExtend 4 :=
    BitVec.eq_of_toNat_eq (by rw [zero_append_toNat, BitVec.toNat_setWidth_of_le (by omega)])
  rw [← hrp]
  refine (run_requireMaster hm _).trans ((run_need hw _).trans ((run_look _ _ s).trans ?_))
  rw [decide_eq_false (Nat.not_le.2 h)]
  rfl

/-- A register pointer to a block that is not installed (R525, R662). -/
theorem exec_lrp_invalid {s : State} {m : MR} {w : Word} (hm : s.psd.ms = false) (hw : operandWord s m = .ok w)
    (h : s.inst.nblocks ≤ (field w 26 27).toNat) :
    exec (.lrp m) s = .next (enterTrap { loc := 0x4D#8, fault := some .instructionException } s) := by
  refine (run_requireMaster hm _).trans ((run_need hw _).trans ((run_look _ _ s).trans ?_))
  rw [decide_eq_true h]
  rfl

/-- WAIT reads no operand (R538, log 41). -/
theorem exec_wait {s : State} (m : MR) (hm : s.psd.ms = false) :
    exec (.wait m) s = .next { s with psd := { s.psd with ia := nextIa s }, halt := .waiting } :=
  run_requireMaster hm _

/-! ### LRA (48_control R533) -/

section RealAddress

/-- The virtual address in the effective word, by the four addressing types (R533). -/
theorem realSource_toNat (t : BitVec 2) (w : Word) : (realSource t w).toNat =
    if t = 0 then w.toNat % 2 ^ 19 / 4 else if t = 1 then w.toNat % 2 ^ 18 / 2
      else if t = 2 then w.toNat % 2 ^ 17 else w.toNat % 2 ^ 16 * 2 := by
  unfold realSource
  split_ifs <;> rw [BitVec.toNat_setWidth_of_le (by omega)] <;>
    simp only [field_toNat, append_toNat, BitVec.toNat_ofNat] <;> omega

/-- The real address at the alignment of the four addressing types, the low bits of the effective word behind it
(R533). -/
theorem realAligned_toNat (t : BitVec 2) (a : WordAddr) (w : Word) : (realAligned t a w).toNat =
    if t = 0 then a.toNat * 4 + w.toNat % 4 else if t = 1 then a.toNat * 2 + w.toNat % 2
      else if t = 2 then a.toNat else a.toNat / 2 := by
  unfold realAligned
  split_ifs
  · rw [append_toNat, field_toNat]; omega
  · rw [append_toNat, zero_append_toNat, field_toNat]; omega
  · exact BitVec.toNat_setWidth_of_le (by omega)
  · rw [BitVec.toNat_setWidth_of_le (by omega), BitVec.extractLsb'_toNat, Nat.shiftRight_eq_div_pow]
    have := a.isLt
    omega

/-- The page of a word address as a number (R119). -/
theorem pageOf_eq (v : WordAddr) : pageOf v = BitVec.ofNat 8 (v.toNat / 512) :=
  BitVec.eq_of_toNat_eq (by rw [pageOf, BitVec.extractLsb'_toNat, Nat.shiftRight_eq_div_pow, BitVec.toNat_ofNat])

theorem mapped_toNat (s : State) (v : WordAddr) :
    (mapped s v).toNat = (mapOf s (pageOf v)).toNat * 512 + v.toNat % 512 := by
  rw [mapped, append_toNat, BitVec.extractLsb'_toNat, Nat.shiftRight_zero]
  rfl

theorem exec_lra {s : State} {m : MR} {w : Word} (hm : s.psd.ms = false) (hw : operandWord s m = .ok w) :
    exec (.lra m) s = .next (finishedCC s (oneReg s m.r (loadRealAddress s w).1) (loadRealAddress s w).2) :=
  (run_requireMaster hm _).trans ((run_need hw _).trans (run_look _ _ s))

variable {s : State} {w : Word} {t : BitVec 2} {v a real : WordAddr} (ht : (ccOf s).extractLsb' 2 2 = t)
  (hv : realSource t w = v)

include ht hv

/-- A register address is delivered as it is (R533). -/
theorem loadRealAddress_register (h : v.toNat < 16) : loadRealAddress s w = (w, 0b1100#4) := by
  subst ht hv
  exact if_pos h

theorem loadRealAddress_memory (h : 16 ≤ v.toNat) (ha : mapped s v = a) (hr : homespaceBias s a = real) :
    ∃ x : Word, x.toNat = (if a.toNat < 1024 then 2 ^ 30 else 0) + (lockOf s a).toNat * 2 ^ 24 +
        (realAligned t real w).toNat ∧
      loadRealAddress s w = (x, (if memExists s real then 0b00#2 else 0b11#2) ++ accOf s (pageOf v)) := by
  subst ht hv ha hr
  refine ⟨_, ?_, if_neg (by omega)⟩
  simp only [append_toNat, ofBool_toNat, decide_eq_true_eq, BitVec.toNat_ofNat]
  split <;> omega

end RealAddress

/-- The addressing type of LRA is named by CC1 and CC2 (R533). -/
theorem ccOf_high (s : State) : (ccOf s).extractLsb' 2 2 = BitVec.ofBool s.psd.cc1 ++ BitVec.ofBool s.psd.cc2 := by
  unfold ccOf
  cases s.psd.cc1 <;> cases s.psd.cc2 <;> cases s.psd.cc3 <;> cases s.psd.cc4 <;> rfl

/-- Settles O56; for LRA the addressing type gives the virtual address, and then it is a register's or it is not. -/
theorem pointerWaitRealAddress : Obligations.PointerWaitRealAddress := by
  refine ⟨fun s m w hm hw => ⟨exec_lrp hm hw, exec_lrp_invalid hm hw⟩, fun s m => exec_wait m, ?lra⟩
  case lra =>
    rintro s m w v a real p low size hm hw h00 h01 h10 h11 rfl ha rfl
    rw [exec_lra hm hw]
    have hsource : realSource ((ccOf s).extractLsb' 2 2) w = v := by
      refine BitVec.eq_of_toNat_eq ?_
      rw [realSource_toNat, ccOf_high]
      cases h1 : s.psd.cc1 <;> cases h2 : s.psd.cc2 <;> simp_all
    have hmapped : mapped s v = a := BitVec.eq_of_toNat_eq (by rw [mapped_toNat, ha, pageOf_eq])
    rw [← pageOf_eq]
    refine ⟨fun h => by rw [loadRealAddress_register rfl hsource h], fun h => ?_⟩
    obtain ⟨x, hx, hload⟩ := loadRealAddress_memory rfl hsource h hmapped rfl
    refine ⟨x, ?_, by rw [hload]; rfl⟩
    rw [hx, realAligned_toNat, ccOf_high]
    cases h1 : s.psd.cc1 <;> cases h2 : s.psd.cc2 <;> simp_all

end Sys2Proof.Proofs

namespace Sys2Proof.Proofs

open Sys2Proof Sys2Proof.Config Sys2Proof.Machine Sys2Proof.Laws

/-! ### The communication locations (49_input_output R582) -/

section PutReal

variable {s : State} (a : WordAddr) (w : Word)

theorem putReal_exists (h : memExists s a = true) : putReal a w s = writeLoc (.mem a) w s := if_pos h

theorem putReal_cases : putReal a w s = s ∨ putReal a w s = writeLoc (.mem a) w s := by
  unfold putReal
  split
  · exact .inr rfl
  · exact .inl rfl

theorem putReal_frame : putReal a w s =
    { s with mem := (putReal a w s).mem, badParity := (putReal a w s).badParity, watch := (putReal a w s).watch } := by
  unfold putReal
  split <;> rfl

theorem putReal_keptBut {p : Loc → Prop} (hp : p (.mem a)) (q : BitVec 4 → Prop) : KeptBut s (putReal a w s) p q := by
  rcases putReal_cases a w (s := s) with h | h <;> rw [h]
  · exact keptBut_refl s p q
  · exact keptBut_writeLoc hp w q

theorem readWordAt_putReal_ne {b : WordAddr} (h : b ≠ a) : readWordAt (putReal a w s).mem b = readWordAt s.mem b := by
  rcases putReal_cases a w (s := s) with e | e
  · rw [e]
  · rw [e]
    exact readWordAt_writeWordAt_ne h w

@[simp] theorem putReal_psd : (putReal a w s).psd = s.psd := by rw [putReal_frame]
@[simp] theorem putReal_inst : (putReal a w s).inst = s.inst := by rw [putReal_frame]
@[simp] theorem putReal_banks : (putReal a w s).banks = s.banks := by rw [putReal_frame]

end PutReal

theorem putCommunication_some (x y : Word) (s : State) : putCommunication (some (x, y)) s =
    putReal (homespaceBias s 0x21#22) y (putReal (homespaceBias s 0x20#22) x s) := by
  have hbias : homespaceBias (putReal (homespaceBias s 0x20#22) x s) 0x21#22 = homespaceBias s 0x21#22 := by
    simp only [homespaceBias, putReal_inst]
  rw [← hbias]
  rfl

theorem putReal_presenting (a : WordAddr) (w : Word) (s : State) (q : Option IoRequest) (r : List IoAnswer) :
    putReal a w { s with ioRequest := q, ioScript := r } = { putReal a w s with ioRequest := q, ioScript := r } := by
  unfold putReal
  change (if memExists s a = true then _ else _) = _
  split <;> rfl

/-- What the communication locations receive does not depend on what the CPU presents. -/
theorem putCommunication_presenting (c : Option (Word × Word)) (s : State) (q : Option IoRequest) (r : List IoAnswer) :
    putCommunication c { s with ioRequest := q, ioScript := r } =
      { putCommunication c s with ioRequest := q, ioScript := r } := by
  rcases c with _ | ⟨x, y⟩
  · rfl
  · rw [putCommunication_some, putCommunication_some]
    exact (congrArg (putReal _ y) (putReal_presenting _ x s q r)).trans (putReal_presenting _ y _ q r)

theorem putCommunication_frame (c : Option (Word × Word)) (s : State) : putCommunication c s =
    { s with
      mem := (putCommunication c s).mem, badParity := (putCommunication c s).badParity
      watch := (putCommunication c s).watch } := by
  rcases c with _ | ⟨x, y⟩
  · rfl
  · rw [putCommunication_some, putReal_frame, putReal_frame]

theorem putCommunication_communicated {s : State} (hs : MemCanonical s) (c : Option (Word × Word)) :
    Communicated s (putCommunication c s) c := by
  refine ⟨by rintro rfl; rfl, ?_⟩
  rintro x y rfl
  have hne : homespaceBias s 0x20#22 ≠ homespaceBias s 0x21#22 :=
    homespaceBias_ne s (m := 0x20) (n := 0x21) (by omega) (by omega) (by omega)
  refine ⟨putCommunication_frame _ s, ?_⟩
  rw [putCommunication_some]
  have hs1 : MemCanonical (putReal (homespaceBias s 0x20#22) x s) := wf_putReal hs _ _
  refine ⟨keptBut_trans (putReal_keptBut _ _ (.inl rfl) _) (putReal_keptBut _ _ (.inr rfl) _) (by rw [putReal_psd]),
    fun h => ?_, fun h => ?_⟩
  · rw [readWordAt_putReal_ne _ _ hne, putReal_exists _ _ h]
    exact wordAt_writeLoc hs (.mem _) x
  · rw [putReal_exists (s := putReal (homespaceBias s 0x20#22) x s) _ _ (by
      simpa only [memExists, putReal_banks] using h)]
    exact wordAt_writeLoc hs1 (.mem _) y

/-! ### One exchange (49_input_output R582-R586) -/

/-- The registers that an answer leaves. -/
def answerRegs (s : State) (k : IoKind) (r : BitVec 4) (c1 : Bool) (w1 w2 : Word) : Vector Word 64 :=
  if c1 then s.regs else (putAnswer k r w1 w2 s).regs

theorem setReg_congr {s t : State} (hr : t.regs = s.regs) (hp : t.psd = s.psd) (n : BitVec 4) (v : Word) :
    setReg n v t = { t with regs := (setReg n v s).regs } := by
  simp only [setReg, hr, hp]

/-- An answer loads registers and looks at nothing but registers. -/
theorem putAnswer_congr {s t : State} (hr : t.regs = s.regs) (hp : t.psd = s.psd) (k : IoKind) (r : BitVec 4)
    (w1 w2 : Word) : putAnswer k r w1 w2 t = { t with regs := (putAnswer k r w1 w2 s).regs } := by
  have hnone : t = { t with regs := s.regs } := by rw [← hr]
  have hone := setReg_congr hr hp r
  have hstatus : putStatus r w1 w2 t = { t with regs := (putStatus r w1 w2 s).regs } := by
    unfold putStatus
    split_ifs
    · exact hnone
    · exact hone w2
    · rw [hone w1]
      exact setReg_congr (s := setReg r w1 s) (t := { t with regs := (setReg r w1 s).regs }) rfl hp (ru1 r) w2
  cases k with
  | rio => exact hnone
  | polp => exact hone _
  | polr => exact hone _
  | aio =>
    unfold putAnswer
    dsimp only
    split_ifs
    · exact hnone
    · exact hone w2
  | sio => exact hstatus
  | tio => exact hstatus
  | tdv => exact hstatus
  | hio => exact hstatus

section Exchange

variable {s : State} {k : IoKind} {r : BitVec 4} {v : WordAddr} {rest : List IoAnswer}

/-- The I/O system answers (R582, R586). -/
theorem run_ioExchange_answer {a1 a2 a3 c1 c2 c3 line : Bool} {w1 w2 : Word} {comm : Option (Word × Word)}
    (h : s.ioScript = .answer a1 a2 a3 w1 w2 comm line :: rest) (ha : admitted k a1 a2 a3 = (c1, c2, c3)) :
    run (ioExchange k r v) s = .next (answered (finished (putCommunication (if k.throughMemory then comm else none) s)
      (answerRegs s k r c1 w1 w2) c1 c2 c3 s.psd.cc4) (requestOf s k r v) rest line) := by
  have hrespond : ioRespond (requestOf s k r v) s = .ok (.answer a1 a2 a3 w1 w2 comm line)
      { s with ioRequest := some (requestOf s k r v), ioScript := rest } := by
    simp only [ioRespond, h, presentIo]
  refine (run_look _ _ s).trans ((run_bind hrespond _).trans ?_)
  simp only [ha]
  rw [run_change, run_change, run_done, putCommunication_presenting]
  have hframe := putCommunication_frame (if k.throughMemory then comm else none) s
  generalize putCommunication (if k.throughMemory then comm else none) s = u at hframe ⊢
  have hregs : u.regs = s.regs := by rw [hframe]
  have hpsd : u.psd = s.psd := by rw [hframe]
  rw [← hpsd, answerRegs]
  cases c1 with
  | true => rw [if_pos rfl, if_pos rfl, ← hregs]; rfl
  | false =>
    rw [if_neg Bool.false_ne_true, if_neg Bool.false_ne_true, putAnswer_congr
      (t := { u with ioRequest := some (requestOf s k r v), ioScript := rest, ioLine := line }) hregs hpsd]
    rfl

/-- No I/O system is attached: no address is recognized (R586, D30). -/
theorem run_ioExchange_none (h : s.ioScript = []) (ha : admitted k true true false = (true, true, false)) :
    run (ioExchange k r v) s =
      .next { finished s s.regs true true false s.psd.cc4 with ioRequest := some (requestOf s k r v) } := by
  have hrespond : ioRespond (requestOf s k r v) s =
      .ok (noIoSystem s) { s with ioRequest := some (requestOf s k r v) } := by
    simp only [ioRespond, h, presentIo]
  refine (run_look _ _ s).trans ((run_bind hrespond _).trans ?_)
  simp only [noIoSystem, ha]
  rw [ite_self]
  rfl

theorem busHangs_apply {α : Type} (tcc : BitVec 4) (s : State) : (busHangs tcc : Act α) s =
    .error (if s.inst.watchdogOverride then .fault .busHang
      else .trap { loc := 0x46#8, tcc := tcc, fault := some .watchdog }) s := by
  rw [busHangs, bind_look]
  split <;> rfl

/-- An element that never answers (60 R657, log 21). -/
theorem run_ioExchange_silent (h : s.ioScript = .silent :: rest) :
    (s.inst.watchdogOverride = true → run (ioExchange k r v) s = .fault .busHang) ∧
    (s.inst.watchdogOverride = false → run (ioExchange k r v) s =
      .next (enterTrap { loc := 0x46#8, tcc := 0b0100#4, fault := some .watchdog }
        { s with ioScript := rest, ioRequest := some (requestOf s k r v) })) := by
  have hrespond : ioRespond (requestOf s k r v) s =
      .ok .silent { s with ioRequest := some (requestOf s k r v), ioScript := rest } := by
    simp only [ioRespond, h, presentIo]
  have hrun : run (ioExchange k r v) s =
      run (busHangs 0b0100#4) { s with ioRequest := some (requestOf s k r v), ioScript := rest } :=
    (run_look _ _ s).trans (run_bind hrespond _)
  rw [hrun]
  constructor <;> intro hw
  · exact run_fault (by rw [busHangs_apply, if_pos hw])
  · exact run_trap (by rw [busHangs_apply, if_neg (by rw [hw]; exact Bool.false_ne_true)])

end Exchange

/-! ### The courses of the instructions (49_input_output R580, R581, R601) -/

section Courses

variable {s : State} {m : MR} {v : WordAddr} {k : IoKind} (hm : s.psd.ms = false)
  (hv : effWordAddr s m alignWord = .ok v)

include hm hv

theorem exec_ioInstruction {i : Instr} (h : (i, k) ∈ [(Instr.sio m, IoKind.sio), (.tio m, .tio), (.tdv m, .tdv),
    (.aio m, .aio)]) : exec i s = run (ioExchange k m.r v) s := by
  have hrun : run (ioInstruction k m) s = run (ioExchange k m.r v) s :=
    (run_requireMaster hm _).trans (run_need hv _)
  simp only [List.mem_cons, Prod.mk.injEq, List.not_mem_nil, or_false] at h
  rcases h with ⟨rfl, rfl⟩ | ⟨rfl, rfl⟩ | ⟨rfl, rfl⟩ | ⟨rfl, rfl⟩ <;> exact hrun

/-- The four instructions of operation code X'4F' are one; the effective address decides (R601, log 22). -/
theorem exec_selectedIo {i : Instr} (h : i ∈ [Instr.hio m, .rio m, .polp m, .polr m]) : exec i s =
    run (match selection v with
      | some k => ioExchange k m.r v
      | none => do change (setCC123 true true false); done) s := by
  have hrun : exec i s = run (selectedIo m) s := by
    simp only [List.mem_cons, List.not_mem_nil, or_false] at h
    rcases h with rfl | rfl | rfl | rfl <;> rfl
  rw [hrun]
  refine (run_requireMaster hm _).trans ((run_need hv _).trans ?_)
  cases selection v <;> rfl

theorem exec_selectedIo_some {i : Instr} (hk : selection v = some k) (h : i ∈ [Instr.hio m, .rio m, .polp m, .polr m]) :
    exec i s = run (ioExchange k m.r v) s := by
  rw [exec_selectedIo hm hv h, hk]

/-- The unassigned selections recognize no address (D17). -/
theorem exec_selectedIo_none {i : Instr} (hk : selection v = none) (h : i ∈ [Instr.hio m, .rio m, .polp m, .polr m]) :
    exec i s = .next (finished s s.regs true true false s.psd.cc4) := by
  rw [exec_selectedIo hm hv h, hk]
  rfl

end Courses

theorem selection_eq_some {v : WordAddr} {k : IoKind} (h : (v.extractLsb' 14 3, k) ∈
    [(0b000#3, IoKind.hio), (0b001#3, .rio), (0b010#3, .polp), (0b011#3, .polr)]) : selection v = some k := by
  simp only [List.mem_cons, Prod.mk.injEq, List.not_mem_nil, or_false] at h
  unfold selection
  rcases h with ⟨h, rfl⟩ | ⟨h, rfl⟩ | ⟨h, rfl⟩ | ⟨h, rfl⟩ <;> rw [h] <;> rfl

theorem selection_eq_none {v : WordAddr} (h : 4 ≤ (v.extractLsb' 14 3).toNat) : selection v = none := by
  have hne : ∀ c : BitVec 3, c.toNat < 4 → v.extractLsb' 14 3 ≠ c := by
    rintro c hc rfl
    omega
  simp only [selection, hne 0b000#3 (by decide), hne 0b001#3 (by decide), hne 0b010#3 (by decide),
    hne 0b011#3 (by decide), if_false]

/-! ### What each kind of instruction makes of an answer (R583, R602-R614) -/

section Answers

variable {s : State} {k : IoKind} {r : BitVec 4} {v : WordAddr} {rest : List IoAnswer} {c1 c2 c3 line : Bool}
  {w1 w2 : Word} {comm : Option (Word × Word)}

/-- The status words of SIO, TIO, TDV and HIO (R583). -/
theorem answerRegs_status (hk : k ∈ [IoKind.sio, .tio, .tdv, .hio]) : answerRegs s k r c1 w1 w2 =
    if c1 = true ∨ r = 0 then s.regs else if oddR r then oneReg s r w2 else pairRegsLowLast s r w1 w2 := by
  have hstatus : putAnswer k r w1 w2 s = putStatus r w1 w2 s := by
    simp only [List.mem_cons, List.not_mem_nil, or_false] at hk
    rcases hk with rfl | rfl | rfl | rfl <;> rfl
  rw [answerRegs, hstatus, putStatus]
  cases c1 with
  | true => rfl
  | false =>
    simp only [Bool.false_eq_true, false_or, if_false]
    split_ifs <;> rfl

/-- A status instruction whose answer is admitted, or counts as 110 (log 7). -/
theorem run_ioExchange_status (hk : k ∈ [IoKind.sio, .tio, .tdv, .hio]) {two : Vector Word 64}
    (h : s.ioScript = .answer c1 c2 c3 w1 w2 comm line :: rest)
    (htwo : two = if c1 = true ∨ r = 0 then s.regs else if oddR r then oneReg s r w2 else pairRegsLowLast s r w1 w2) :
    run (ioExchange k r v) s = .next (answered
      (if notPossible k c1 c2 c3 then finished (putCommunication comm s) two true true false s.psd.cc4
        else finished (putCommunication comm s) two c1 c2 c3 s.psd.cc4) (requestOf s k r v) rest line) := by
  have hmemory : k.throughMemory = true := by
    simp only [List.mem_cons, List.not_mem_nil, or_false] at hk
    rcases hk with rfl | rfl | rfl | rfl <;> rfl
  have hadmitted : admitted k c1 c2 c3 = if notPossible k c1 c2 c3 then (true, true, false) else (c1, c2, c3) := by
    simp only [List.mem_cons, List.not_mem_nil, or_false] at hk
    rcases hk with rfl | rfl | rfl | rfl <;> rfl
  have hregs : answerRegs s k r c1 w1 w2 = two := (answerRegs_status hk).trans htwo.symm
  by_cases hn : notPossible k c1 c2 c3 = true
  · have hc1 : c1 = true := by
      revert hn
      cases k <;> cases c1 <;> simp [notPossible]
    rw [if_pos hn, run_ioExchange_answer h (hadmitted.trans (if_pos hn)), hmemory, ← hregs, hc1]
    rfl
  · rw [if_neg hn, run_ioExchange_answer h (hadmitted.trans (if_neg hn)), hmemory, hregs]
    rfl

theorem run_ioExchange_aio (h : s.ioScript = .answer c1 c2 c3 w1 w2 comm line :: rest) :
    run (ioExchange .aio r v) s = .next (answered
      (if c1 = true ∧ c2 = true then finished (putCommunication comm s) s.regs true true false s.psd.cc4
        else if c1 = true then finished (putCommunication comm s) s.regs true false false s.psd.cc4
        else finished (putCommunication comm s) (if r = 0 then s.regs else oneReg s r w2) false c2 c3 s.psd.cc4)
      (requestOf s .aio r v) rest line) := by
  have hword : answerRegs s .aio r false w1 w2 = if r = 0 then s.regs else oneReg s r w2 :=
    apply_ite State.regs (r = 0) s (setReg r w2 s)
  cases c1 with
  | false =>
    have hadmitted : admitted .aio false c2 c3 = (false, c2, c3) := by simp [admitted, notPossible]
    rw [← hword]
    exact run_ioExchange_answer h hadmitted
  | true =>
    have hadmitted : admitted .aio true c2 c3 = (true, c2, false) := by cases c2 <;> cases c3 <;> rfl
    rw [run_ioExchange_answer h hadmitted]
    cases c2 <;> rfl

theorem run_ioExchange_rio (h : s.ioScript = .answer c1 c2 c3 w1 w2 comm line :: rest) :
    run (ioExchange .rio r v) s =
      .next (answered (finished s s.regs c1 c1 false s.psd.cc4) (requestOf s .rio r v) rest line) := by
  have hregs : answerRegs s .rio r c1 w1 w2 = s.regs := ite_self _
  rw [← hregs]
  exact run_ioExchange_answer h rfl

/-- POLP and POLR leave the fault status in R (R612, R613). -/
theorem run_ioExchange_poll (hk : k = .polp ∨ k = .polr)
    (h : s.ioScript = .answer c1 c2 c3 w1 w2 comm line :: rest) :
    run (ioExchange k r v) s = .next (answered
      (if c1 then finished s s.regs true true false s.psd.cc4
        else finished s (oneReg s r ((field w2 24 29).zeroExtend 32 <<< 2)) false false c3 s.psd.cc4)
      (requestOf s k r v) rest line) := by
  have hword : (0#24 ++ field w2 24 29 ++ 0#2 : Word) = (field w2 24 29).zeroExtend 32 <<< 2 := by
    refine BitVec.eq_of_toNat_eq ?_
    have := (field w2 24 29).isLt
    rw [append_toNat, zero_append_toNat, BitVec.toNat_shiftLeft, BitVec.toNat_setWidth_of_le (by omega),
      Nat.shiftLeft_eq, BitVec.toNat_ofNat]
    omega
  rw [← hword]
  cases c1 with
  | true =>
    have hadmitted : admitted k true c2 c3 = (true, true, false) := by
      rcases hk with rfl | rfl <;> simp [admitted, notPossible]
    rw [run_ioExchange_answer h hadmitted]
    rcases hk with rfl | rfl <;> rfl
  | false =>
    have hadmitted : admitted k false c2 c3 = (false, false, c3) := by
      rcases hk with rfl | rfl <;> simp [admitted, notPossible]
    rw [run_ioExchange_answer h hadmitted]
    rcases hk with rfl | rfl <;> rfl

end Answers

theorem admitted_notRecognized (k : IoKind) : admitted k true true false = (true, true, false) := by
  cases k <;> rfl

/-- Settles O60: each instruction is an exchange of its kind, and each kind makes its own of an answer. -/
theorem inputOutput : Obligations.InputOutput := by
  intro s m v sel q hm hv hsel hq
  subst hsel
  have hrequest : ∀ k, q k = requestOf s k m.r v := hq
  refine ⟨fun hsel i hi => exec_selectedIo_none hm hv (selection_eq_none hsel) hi, ?answers, ?silent⟩
  case answers =>
    intro c1 c2 c3 line w1 w2 comm rest two hs hscript htwo
    refine ⟨⟨putCommunication comm s, putCommunication_communicated hs comm, ?three, ?aio, ?hio⟩, ?rio, ?poll⟩
    case three =>
      rintro ⟨i, k⟩ hp
      have hk : k ∈ [IoKind.sio, .tio, .tdv] := by
        simp only [List.mem_cons, Prod.mk.injEq, List.not_mem_nil, or_false] at hp ⊢
        tauto
      have hpossible : notPossible k c1 c2 c3 = (c1 && !c2 && c3) := by
        simp only [List.mem_cons, List.not_mem_nil, or_false] at hk
        rcases hk with rfl | rfl | rfl <;> rfl
      rw [exec_ioInstruction hm hv (k := k) (by simp at hp ⊢; tauto),
        run_ioExchange_status (by simp at hk ⊢; tauto) hscript htwo, hpossible, hrequest]
      simp [and_assoc]
    case aio =>
      rw [exec_ioInstruction hm hv (k := .aio) (by simp), run_ioExchange_aio hscript, hrequest]
    case hio =>
      intro hsel i hi
      rw [exec_selectedIo_some hm hv (selection_eq_some (k := .hio) (by simp [hsel])) hi,
        run_ioExchange_status (by simp) hscript htwo, hrequest]
      simp [notPossible]
    case rio =>
      intro hsel i hi
      rw [exec_selectedIo_some hm hv (selection_eq_some (k := .rio) (by simp [hsel])) hi,
        run_ioExchange_rio hscript, hrequest]
    case poll =>
      intro k hk i hi
      have hkind : k = .polp ∨ k = .polr := hk.imp And.right And.right
      rw [exec_selectedIo_some hm hv (selection_eq_some (k := k) (by simp; tauto)) hi,
        run_ioExchange_poll hkind hscript, hrequest]
  case silent =>
    rintro ⟨i, k⟩ hp
    have hexec : exec i s = run (ioExchange k m.r v) s := by
      rcases hp with hp | ⟨hi, hk⟩
      · exact exec_ioInstruction hm hv hp
      · exact exec_selectedIo_some hm hv (selection_eq_some hk) hi
    rw [hexec, hrequest]
    exact ⟨fun h => run_ioExchange_none h (admitted_notRecognized k), fun rest => run_ioExchange_silent⟩

end Sys2Proof.Proofs

namespace Sys2Proof.Proofs

open Sys2Proof Sys2Proof.Machine Sys2Proof.Laws

/-! ### Groups of interrupt levels (10_state R63) -/

@[simp] theorem groupOf_updateGroup_same (i : Interrupts) (g : LevelGroup) (f : IntGroup → IntGroup) :
    groupOf (updateGroup i g f) g = f (groupOf i g) := by
  cases g with
  | power => rfl
  | internal => rfl
  | external k => simp [groupOf, updateGroup]

theorem groupOf_updateGroup_ne {g h : LevelGroup} (hne : h ≠ g) (i : Interrupts) (f : IntGroup → IntGroup) :
    groupOf (updateGroup i g f) h = groupOf i h := by
  cases g with
  | power =>
    cases h with
    | power => exact absurd rfl hne
    | internal => rfl
    | external j => rfl
  | internal =>
    cases h with
    | power => rfl
    | internal => exact absurd rfl hne
    | external j => rfl
  | external k =>
    cases h with
    | power => rfl
    | internal => rfl
    | external j =>
      have hval : k.val ≠ j.val := fun e => hne (congrArg LevelGroup.external (Fin.ext e.symm))
      simp [groupOf, updateGroup, hval]

/-! ### The courses of RD and WD (48_control R539, R546) -/

/-- The modes 2 to F are those of external elements (R539). -/
theorem not_internal_of_mode {x : BitVec 4} (h : 2 ≤ x.toNat) : ¬ x = 0#4 ∧ ¬ x = 1#4 :=
  ⟨by rintro rfl; exact absurd h (by decide), by rintro rfl; exact absurd h (by decide)⟩

section Courses

variable {s : State} {m : MR} {v : WordAddr} {a : Half} (hm : s.psd.ms = false)
  (hv : effWordAddr s m alignWord = .ok v) (ha : a = v.extractLsb' 0 16)

include hm hv ha

theorem exec_rd_internal (h : a.extractLsb' 12 4 = 0#4) :
    exec (.rd m) s = run (do rdInternal m.r a; done) s := by
  subst ha
  refine (run_requireMaster hm _).trans ((run_need hv _).trans ?_)
  simp only [h, if_true]

theorem exec_rd_interrupt (h : a.extractLsb' 12 4 = 1#4) :
    exec (.rd m) s = .next (advance (rdInterrupt m.r a s)) := by
  subst ha
  refine (run_requireMaster hm _).trans ((run_need hv _).trans ?_)
  have h0 : ¬ (1#4 = 0#4) := by decide
  simp only [h, h0, if_false, if_true]
  rfl

theorem exec_rd_external (h : 2 ≤ (a.extractLsb' 12 4).toNat) : exec (.rd m) s = run (do
    let x ← dioRespond ⟨a, none⟩
    change (fun s => setCC34 x.2.1 x.2.2 (setCC12 false false (rdLoad m.r x.1 s)))
    done) s := by
  subst ha
  refine (run_requireMaster hm _).trans ((run_need hv _).trans ?_)
  obtain ⟨h0, h1⟩ := not_internal_of_mode h
  simp only [h0, h1, if_false]

theorem exec_wd_internal (h : a.extractLsb' 12 4 = 0#4) :
    exec (.wd m) s = .next (wdInternal (wdData s m.r) a (advance s)) := by
  subst ha
  refine (run_requireMaster hm _).trans ((run_need hv _).trans ?_)
  simp only [h, if_true]
  rfl

theorem exec_wd_interrupt (h : a.extractLsb' 12 4 = 1#4) :
    exec (.wd m) s = .next (wdInterrupt (wdData s m.r) a (advance s)) := by
  subst ha
  refine (run_requireMaster hm _).trans ((run_need hv _).trans ?_)
  have h0 : ¬ (1#4 = 0#4) := by decide
  simp only [h, h0, if_false, if_true]
  rfl

theorem exec_wd_external (h : 2 ≤ (a.extractLsb' 12 4).toNat) : exec (.wd m) s = run (do
    let x ← dioRespond ⟨a, some (wdData s m.r)⟩
    change (fun s => setCC34 x.2.1 x.2.2 (setCC12 false false s))
    done) s := by
  subst ha
  refine (run_requireMaster hm _).trans ((run_need hv _).trans ?_)
  obtain ⟨h0, h1⟩ := not_internal_of_mode h
  simp only [h0, h1, if_false]
  rfl

end Courses

/-! ### Mode 0, internal computer control (R540-R544, R547-R555) -/

/-- The registers after RD has loaded `w`: register 0 is not loaded (R539). -/
def rdRegs (s : State) (r : BitVec 4) (w : Word) : Vector Word 64 := if r = 0 then s.regs else oneReg s r w

theorem rdLoad_eq (r : BitVec 4) (w : Word) (s : State) : rdLoad r w s = { s with regs := rdRegs s r w } := by
  unfold rdLoad rdRegs
  split <;> rfl

/-- What RD of mode 0 does at an address that names nothing to be read. -/
theorem rdInternal_other {a : Half} (h : a ∉ [0x0000#16, 0x0045#16, 0x0048#16, 0x0049#16]) (r : BitVec 4) :
    rdInternal r a = pure () := by
  simp only [List.mem_cons, List.not_mem_nil, or_false, not_or] at h
  obtain ⟨h0, h1, h2, h3⟩ := h
  simp only [rdInternal, h0, h1, h2, h3, if_false]

theorem rdSnapshot_apply (r : BitVec 4) (s : State) : rdSnapshot r s =
    (if s.snapArmed then change (fun t => setCC34 true false { t with snapArmed := false })
      else do
        let c ← draw 1
        change (setCC34 false (c.getLsbD 0)) : Act Unit)
      { s with regs := rdRegs s r (Config.freeValue 32 s.free), free := s.free + 1 } := by
  rw [rdSnapshot, bind_ok (draw_apply 32 s), bind_change, bind_look, rdLoad_eq]
  rfl

/-- RD of the snapshot sample while the snapshot is armed (R544, log 16). -/
theorem run_rdSnapshot_armed (r : BitVec 4) {s : State} (h : s.snapArmed = true) :
    ∃ x, run (do rdSnapshot r; done) s = .next { finished s (rdRegs s r x) s.psd.cc1 s.psd.cc2 true false with
      snapArmed := false, free := s.free + 1 } := by
  have hsnap := rdSnapshot_apply r s
  rw [if_pos h, change_apply] at hsnap
  exact ⟨_, run_bind hsnap _⟩

theorem run_rdSnapshot_disarmed (r : BitVec 4) {s : State} (h : s.snapArmed = false) :
    ∃ x c, run (do rdSnapshot r; done) s =
      .next { finished s (rdRegs s r x) s.psd.cc1 s.psd.cc2 false c with free := s.free + 2 } := by
  have hsnap := rdSnapshot_apply r s
  rw [if_neg (by rw [h]; exact Bool.false_ne_true), bind_ok (draw_apply 1 _), change_apply] at hsnap
  exact ⟨_, _, run_bind hsnap _⟩

/-- The inhibits as bits (R543). -/
theorem inhibits_bits (s : State) :
    (inhibits s)[2] = s.psd.ci ∧ (inhibits s)[1] = s.psd.ii ∧ (inhibits s)[0] = s.psd.ei := by
  unfold inhibits
  cases s.psd.ci <;> cases s.psd.ii <;> cases s.psd.ei <;> exact ⟨rfl, rfl, rfl⟩

section Inhibits

variable {a : Half} (data : Word) (s : State)

/-- The inhibits cleared one by one (R548). -/
theorem wdInternal_clearInhibits (h : a.extractLsb' 3 13 = 0b0000000000100#13) : wdInternal data a s =
    { s with psd := { s.psd with
      ci := s.psd.ci && !bitOf a 13, ii := s.psd.ii && !bitOf a 14, ei := s.psd.ei && !bitOf a 15 } } := by
  obtain ⟨hci, hii, hei⟩ := inhibits_bits s
  simp [wdInternal, h, setInhibits, bitOf, hci, hii, hei]

/-- The inhibits set one by one (R549). -/
theorem wdInternal_setInhibits (h : a.extractLsb' 3 13 = 0b0000000000110#13) : wdInternal data a s =
    { s with psd := { s.psd with
      ci := s.psd.ci || bitOf a 13, ii := s.psd.ii || bitOf a 14, ei := s.psd.ei || bitOf a 15 } } := by
  obtain ⟨hci, hii, hei⟩ := inhibits_bits s
  simp [wdInternal, h, setInhibits, bitOf, hci, hii, hei]

/-- The inhibits loaded (R552). -/
theorem wdInternal_loadInhibits : wdInternal data 0x0048#16 s =
    { s with psd := { s.psd with ci := bit data 29, ii := bit data 30, ei := bit data 31 } } := by
  simp [wdInternal, setInhibits, field, bit]

end Inhibits

theorem wdInternal_other {a : Half} (h : a.extractLsb' 3 13 ∉ [0b0000000000100#13, 0b0000000000110#13])
    (h' : a ∉ [0x0040#16, 0x0041#16, 0x0042#16, 0x0045#16, 0x0046#16, 0x0047#16, 0x0048#16, 0x0049#16])
    (data : Word) (s : State) : wdInternal data a s = s := by
  simp only [List.mem_cons, List.not_mem_nil, or_false, not_or] at h h'
  obtain ⟨hclear, hset⟩ := h
  obtain ⟨h0, h1, h2, h3, h4, h5, h6, h7⟩ := h'
  simp only [wdInternal, hclear, hset, h0, h1, h2, h3, h4, h5, h6, h7, if_false]

/-! ### Mode 1, interrupt control (R545, R556) -/

section Control

variable {s : State} {a : Half} {g : LevelGroup} {k j : IntGroup} {here mask : BitVec 16} {code : BitVec 3}

/-- Group X'1' has no levels (R545). -/
theorem controlGroup_one (h : a.extractLsb' 0 4 = 1) : controlGroup a = none := by
  rw [controlGroup, h]
  rfl

/-- Group X'0' and the external groups, each with its installed levels (R545, R671, R686). -/
theorem controlGroup_eq_some (h : a.extractLsb' 0 4 = 0 ∧ g = .internal ∧
      here = (if s.inst.counters12 then 0xFFF0#16 else 0x3CF0#16) ∨
    ∃ e : Fin 14, (a.extractLsb' 0 4).toNat = e.val + 2 ∧ g = .external e ∧ here = s.inst.extInstalled[e.val]) :
    controlGroup a = some g ∧ installed s g = here := by
  rcases h with ⟨ha, rfl, rfl⟩ | ⟨e, he, rfl, rfl⟩
  · exact ⟨by rw [controlGroup, ha]; rfl, rfl⟩
  · have h0 : a.extractLsb' 0 4 ≠ 0 := fun h => by rw [h] at he; simp at he
    have h1 : a.extractLsb' 0 4 ≠ 1 := fun h => by rw [h] at he; simp at he
    have hlt : (a.extractLsb' 0 4).toNat - 2 < 14 := by omega
    have hfin : (⟨(a.extractLsb' 0 4).toNat - 2, hlt⟩ : Fin 14) = e := Fin.ext (by simp only; omega)
    exact ⟨by simp only [controlGroup, h0, h1, hlt, hfin, if_false, dif_pos], rfl⟩

theorem rdMask_eq (code : BitVec 3) (k : IntGroup) : rdMask code k =
    if code ∈ [0b001#3, 0b010#3, 0b100#3] then
      some (if code = 0b001#3 then k.aw else if code = 0b010#3 then k.wa else k.en) else none := by
  simp only [rdMask, List.mem_cons, List.not_mem_nil, or_false]
  split_ifs <;> simp_all

/-- RD of the levels of a group (R545). -/
theorem rdInterrupt_mask (hg : controlGroup a = some g) (hi : installed s g = here) (hhere : here ≠ 0)
    (hcode : a.extractLsb' 8 3 ∈ [0b001#3, 0b010#3, 0b100#3]) (r : BitVec 4) : rdInterrupt r a s =
      rdLoad r (((if a.extractLsb' 8 3 = 0b001#3 then (groupOf s.ints g).aw
        else if a.extractLsb' 8 3 = 0b010#3 then (groupOf s.ints g).wa else (groupOf s.ints g).en) &&&
          here).zeroExtend 32) s := by
  simp only [rdInterrupt, hg, hi, hhere, if_false, rdMask_eq, hcode, if_true]

/-- RD of a group with no level, or with a code that names no mask, does nothing (D16). -/
theorem rdInterrupt_nothing (hg : controlGroup a = some g) (hi : installed s g = here)
    (h : here = 0 ∨ a.extractLsb' 8 3 ∉ [0b001#3, 0b010#3, 0b100#3]) (r : BitVec 4) : rdInterrupt r a s = s := by
  simp only [rdInterrupt, hg, hi, rdMask_eq]
  rcases h with h | h
  · rw [if_pos h]
  · simp only [h, if_false, ite_self]

theorem eq_seven_of_ne (c : BitVec 3) : c ≠ 0b000#3 → c ≠ 0b001#3 → c ≠ 0b010#3 → c ≠ 0b011#3 → c ≠ 0b100#3 →
    c ≠ 0b101#3 → c ≠ 0b110#3 → c = 0b111#3 := by
  intros
  bv_omega

/-- The statement's table of the functions of WD is the model's (R556). -/
theorem control_of_levelsControlled (h : LevelsControlled code mask here k j) :
    IntGroup.control code mask here k = j := by
  obtain ⟨h0, h1, h2, h3, h4, h5, h6, h7⟩ := h
  unfold IntGroup.control
  split_ifs with c0 c1 c2 c3 c4 c5 c6
  · exact (h0 c0).symm
  · exact (h1 c1).symm
  · exact (h2 c2).symm
  · exact (h3 c3).symm
  · exact (h4 c4).symm
  · exact (h5 c5).symm
  · exact (h6 c6).symm
  · exact (h7 (eq_seven_of_ne code c0 c1 c2 c3 c4 c5 c6)).symm

/-- WD changes the levels of the group that it names and no other (R556). -/
theorem wdInterrupt_controls {data : Word} (hg : controlGroup a = some g) (hi : installed s g = here)
    (h : LevelsControlled (a.extractLsb' 8 3) (data.extractLsb' 0 16 &&& here) here (groupOf s.ints g) j) :
    ∃ i, wdInterrupt data a s = { s with ints := i } ∧ groupOf i g = j ∧
      ∀ h, h ≠ g → groupOf i h = groupOf s.ints h := by
  refine ⟨updateGroup s.ints g (IntGroup.control (a.extractLsb' 8 3) (data.extractLsb' 0 16 &&& here) here), ?_, ?_,
    fun h hne => groupOf_updateGroup_ne hne _ _⟩
  · simp only [wdInterrupt, hg, hi]
    rfl
  · rw [groupOf_updateGroup_same, control_of_levelsControlled h]

end Control

/-! ### Modes 2 to F, external elements (R539, R546; 60 R657) -/

section External

variable {s : State} {rest : List DioAnswer} (q : DioRequest)

theorem dioRespond_answer {d : Word} {c3 c4 : Bool} (h : s.dioScript = .answer d c3 c4 :: rest) :
    dioRespond q s = .ok (d, c3, c4) { s with dioScript := rest, dioRequest := some q } := by
  rw [dioRespond, bind_change, bind_look]
  simp only [h]
  rfl

/-- With nothing attached the answer is open (log 17). -/
theorem dioRespond_none (h : s.dioScript = []) :
    ∃ x, dioRespond q s = .ok x { s with free := s.free + 2, dioRequest := some q } := by
  refine ⟨(Config.freeValue 32 s.free, (Config.freeValue 2 (s.free + 1)).getLsbD 1,
    (Config.freeValue 2 (s.free + 1)).getLsbD 0), ?_⟩
  rw [dioRespond, bind_change, bind_look]
  simp only [h]
  rfl

theorem dioRespond_silent (h : s.dioScript = .silent :: rest) : dioRespond q s =
    .error (if s.inst.watchdogOverride then .fault .busHang
      else .trap { loc := 0x46#8, tcc := 0b0001#4, fault := some .watchdog })
      { s with dioScript := rest, dioRequest := some q } := by
  rw [dioRespond, bind_change, bind_look]
  simp only [h]
  rw [bind_change, busHangs_apply]

/-- An element that never answers (60 R657, log 21). -/
theorem run_dioRespond_silent (h : s.dioScript = .silent :: rest) (k : Word × Bool × Bool → Act Unit) :
    (s.inst.watchdogOverride = true → run (dioRespond q >>= k) s = .fault .busHang) ∧
    (s.inst.watchdogOverride = false → run (dioRespond q >>= k) s =
      .next (enterTrap { loc := 0x46#8, tcc := 0b0001#4, fault := some .watchdog }
        { s with dioScript := rest, dioRequest := some q })) := by
  have hsilent := bind_error (dioRespond_silent q h) k
  constructor <;> intro hw
  · rw [if_pos hw] at hsilent
    exact run_fault hsilent
  · rw [if_neg (by rw [hw]; exact Bool.false_ne_true)] at hsilent
    exact run_trap hsilent

end External

/-! ### The clauses of O59 -/

section Clauses

variable {s : State} {m : MR} {v : WordAddr} {a : Half} (hm : s.psd.ms = false)
  (hv : effWordAddr s m alignWord = .ok v) (ha : a = v.extractLsb' 0 16)

include hm hv ha

theorem exec_rd_other (h0 : a.extractLsb' 12 4 = 0#4) (h : a ∉ [0x0000#16, 0x0045#16, 0x0048#16, 0x0049#16]) :
    exec (.rd m) s = .next (onward s s.regs) := by
  rw [exec_rd_internal hm hv ha h0, rdInternal_other h]
  rfl

theorem exec_group_one (h1 : a.extractLsb' 12 4 = 1) (hg : a.extractLsb' 0 4 = 1) :
    exec (.rd m) s = .next (onward s s.regs) ∧ exec (.wd m) s = .next (onward s s.regs) := by
  rw [exec_rd_interrupt hm hv ha h1, exec_wd_interrupt hm hv ha h1, rdInterrupt, wdInterrupt, controlGroup_one hg]
  exact ⟨rfl, rfl⟩

end Clauses

/-- The inhibits are controlled in mode 0 (R548, R549). -/
theorem mode_of_inhibits {a : Half} {c : BitVec 13} (h : a.extractLsb' 3 13 = c) (hc : c.toNat < 512) :
    a.extractLsb' 12 4 = 0#4 := by
  subst h
  refine BitVec.eq_of_toNat_eq ?_
  rw [BitVec.extractLsb'_toNat, Nat.shiftRight_eq_div_pow] at hc ⊢
  have := a.isLt
  simp only [BitVec.toNat_ofNat]
  omega

/-- Settles O59: mode 0 address by address, mode 1 group by group, modes 2 to F by what the external element answers. -/
theorem directControl : Obligations.DirectControl := by
  intro s m v a data load hm hv ha hdata hload
  obtain rfl : data = wdData s m.r := hdata
  obtain rfl : load = rdRegs s m.r := hload
  have hsmall : ∀ b : Half, b.toNat < 4096 → a = b → a.extractLsb' 12 4 = 0#4 := by
    rintro b hb rfl
    refine BitVec.eq_of_toNat_eq ?_
    rw [BitVec.extractLsb'_toNat, Nat.shiftRight_eq_div_pow]
    simp only [BitVec.toNat_ofNat]
    omega
  refine ⟨fun h => ?sense, fun h => ?controls, fun h => ?inhibits, fun h => ?snapshot, fun h => ?clear, fun h => ?set,
    fun h => ?alarmOff, fun h => ?alarmOn, fun h => ?pcf, fun h => ?maOff, fun h => ?maOn, exec_rd_other hm hv ha,
    fun h0 h h' => ?wdOther, exec_group_one hm hv ha, ?group, ?external⟩
  case sense =>
    have h0 := hsmall _ (by decide) h
    rw [exec_rd_internal hm hv ha h0, exec_wd_internal hm hv ha h0, h]
    exact ⟨rfl, rfl⟩
  case controls =>
    have h0 := hsmall _ (by decide) h
    rw [exec_rd_internal hm hv ha h0, exec_wd_internal hm hv ha h0, h]
    refine ⟨?_, rfl⟩
    exact congrArg (Host.Outcome.next ∘ advance) (rdLoad_eq m.r _ s)
  case inhibits =>
    have h0 := hsmall _ (by decide) h
    rw [exec_rd_internal hm hv ha h0, exec_wd_internal hm hv ha h0, h]
    refine ⟨?_, ?_⟩
    · have hword : (inhibits s).zeroExtend 32 =
          0#29 ++ BitVec.ofBool s.psd.ci ++ BitVec.ofBool s.psd.ii ++ BitVec.ofBool s.psd.ei := by
        unfold inhibits
        cases s.psd.ci <;> cases s.psd.ii <;> cases s.psd.ei <;> rfl
      rw [← hword]
      exact congrArg (Host.Outcome.next ∘ advance) (rdLoad_eq m.r _ s)
    · rw [wdInternal_loadInhibits]
      rfl
  case snapshot =>
    have h0 := hsmall _ (by decide) h
    rw [exec_rd_internal hm hv ha h0, exec_wd_internal hm hv ha h0, h]
    exact ⟨run_rdSnapshot_armed m.r, run_rdSnapshot_disarmed m.r, rfl⟩
  case clear =>
    rw [exec_wd_internal hm hv ha (mode_of_inhibits h (by decide)), wdInternal_clearInhibits _ _ h]
    rfl
  case set =>
    rw [exec_wd_internal hm hv ha (mode_of_inhibits h (by decide)), wdInternal_setInhibits _ _ h]
    rfl
  case alarmOff | alarmOn | pcf | maOff | maOn =>
    rw [exec_wd_internal hm hv ha (hsmall _ (by decide) h), h]
    rfl
  case wdOther =>
    rw [exec_wd_internal hm hv ha h0, wdInternal_other h h']
    rfl
  case group =>
    intro g k j here mask code h1 hg hk hmask hcode
    subst hk hmask hcode
    obtain ⟨hg, hi⟩ := controlGroup_eq_some hg
    rw [exec_rd_interrupt hm hv ha h1, exec_wd_interrupt hm hv ha h1]
    refine ⟨fun hhere hcode => ?_, fun h => ?_, fun hj => ?_⟩
    · rw [rdInterrupt_mask hg hi hhere hcode, rdLoad_eq]
      rfl
    · rw [rdInterrupt_nothing hg hi h]
      rfl
    · obtain ⟨i, hwd, hj, hother⟩ := wdInterrupt_controls (s := advance s) hg hi hj
      exact ⟨_, rfl, by rw [hwd]; rfl, by rw [hwd]; exact hj, by rw [hwd]; exact hother⟩
  case external =>
    intro h2 read write hread hwrite
    subst hread hwrite
    rw [exec_rd_external hm hv ha h2, exec_wd_external hm hv ha h2]
    refine ⟨fun d c3 c4 rest h => ?answer, fun h => ?none, fun rest h => ?silent⟩
    case answer =>
      rw [run_bind (dioRespond_answer _ h), run_bind (dioRespond_answer _ h), run_change, run_change, rdLoad_eq]
      exact ⟨rfl, rfl⟩
    case none =>
      obtain ⟨x, hx⟩ := dioRespond_none ⟨a, none⟩ h
      obtain ⟨y, hy⟩ := dioRespond_none ⟨a, some (wdData s m.r)⟩ h
      rw [run_bind hx, run_bind hy, run_change, run_change, rdLoad_eq]
      exact ⟨⟨x.1, x.2.1, x.2.2, rfl⟩, y.2.1, y.2.2, rfl⟩
    case silent =>
      obtain ⟨rdFault, rdTrap⟩ := run_dioRespond_silent ⟨a, none⟩ h fun x => do
        change (fun s => setCC34 x.2.1 x.2.2 (setCC12 false false (rdLoad m.r x.1 s)))
        done
      obtain ⟨wdFault, wdTrap⟩ := run_dioRespond_silent ⟨a, some (wdData s m.r)⟩ h fun x => do
        change (fun s => setCC34 x.2.1 x.2.2 (setCC12 false false s))
        done
      exact ⟨fun hw => ⟨rdFault hw, wdFault hw⟩, fun hw => ⟨rdTrap hw, wdTrap hw⟩⟩

end Sys2Proof.Proofs

namespace Sys2Proof.Proofs

open Sys2Proof Sys2Proof.Machine Sys2Proof.Laws

/-! ### The status of a bank (48_control R535, R536) -/

theorem bit_statusWord0 (b : Bank) {k : Nat} (hk : k < 32) : bit (statusWord0 b) k =
    (if k ∈ [1, 2, 3, 4, 5, 6, 7, 8, 12, 13] then bit b.faults k else if k = 14 then b.number.getLsbD 1
      else if k = 15 then b.number.getLsbD 0 else bit b.sw0Other k) := by
  interval_cases k <;> simp [bit, statusWord0]

theorem bit_statusWord1 (b : Bank) {k : Nat} (hk : k < 32) : bit (statusWord1 b) k =
    (if 14 ≤ k ∧ k ≤ 18 then b.margins.getLsbD (18 - k) else bit b.sw1Config k) := by
  interval_cases k <;> simp [bit, statusWord1]

/-- The bits of status word 0 for what a memory unit finds wrong (R535). -/
theorem statusBit_eq {p : MemoryFault × Nat} (h : p ∈ [(MemoryFault.parity .read, 1), (.parity .partialWrite, 2),
    (.parity .addressBus, 3), (.parity .dataBus, 4), (.loopCheck, 5), (.parity .portSelection, 6), (.power, 7)]) :
    p.1.statusBit = 0x80000000#32 >>> p.2 := by
  simp only [List.mem_cons, List.not_mem_nil, or_false] at h
  rcases h with rfl | rfl | rfl | rfl | rfl | rfl | rfl <;> rfl

/-- A bank notes what its memory unit finds wrong (R535, R682; log 27). -/
theorem memoryFault_noted {p : MemoryFault × Nat} (h : p ∈ [(MemoryFault.parity .read, 1), (.parity .partialWrite, 2),
    (.parity .addressBus, 3), (.parity .dataBus, 4), (.loopCheck, 5), (.parity .portSelection, 6), (.power, 7)])
    (s : State) (a : WordAddr) : applyEvent (.memoryFault p.1 a) s = { s with
      free := s.free + 1
      banks := updateBanks (fun b => if b.snap = none then { b with
          faults := b.faults ||| 0x80000000#32 >>> p.2 |||
            (if Config.freeValue 1 s.free == 1#1 then 0x00040000#32 else 0)
          snap := some a, mfi := true }
        else { b with faults := b.faults ||| 0x00080000#32, mfi := true }) a s.banks } := by
  rw [← statusBit_eq h, ← funext (noteFault_eq p.1.statusBit a (Config.freeValue 1 s.free == 1#1))]
  rfl

/-! ### The end of LMS (48_control R534) -/

theorem bits_lmsCC (p : Bool) (c : BitVec 1) :
    (BitVec.ofBool p ++ 0#1 ++ c ++ 0#1).getLsbD 3 = p ∧ (BitVec.ofBool p ++ 0#1 ++ c ++ 0#1).getLsbD 2 = false ∧
      (BitVec.ofBool p ++ 0#1 ++ c ++ 0#1).getLsbD 1 = c.getLsbD 0 ∧
      (BitVec.ofBool p ++ 0#1 ++ c ++ 0#1).getLsbD 0 = false := by
  cases p <;> revert c <;> decide

/-- What LMS makes of CC3 (log 15). -/
def parityReturned (s : State) : Bool := (Config.freeValue 1 s.free).getLsbD 0

theorem finishLms_apply (p : Bool) (s : State) : finishLms p s =
    .ok () { finished s s.regs p false (parityReturned s) false with free := s.free + 1 } := by
  obtain ⟨h3, h2, h1, h0⟩ := bits_lmsCC p (Config.freeValue 1 s.free)
  rw [finishLms, bind_ok (draw_apply 1 s), bind_change, done_apply, setCC]
  simp only [h3, h2, h1, h0]
  rfl

theorem lmsResult_apply (r : BitVec 4) (w : Word) (s : State) : lmsResult r w s =
    .ok () { finished s (oneReg s r w) false false (parityReturned s) false with free := s.free + 1 } := by
  rw [lmsResult, bind_change, finishLms_apply]
  rfl

/-! ### The actions of LMS (48_control R534) -/

theorem loadAndSet_eq_ok {s : State} {v a : WordAddr} (ha : locateMemory s v .write = .ok a)
    (hs : parityBad s a = false) : loadAndSet v s =
      .ok (readWordAt s.mem a) (writeLoc (.mem a) (readWordAt s.mem a ||| 0x80000000#32) s) :=
  (bind_ok (need_ok ha) _).trans (bind_ok (need_ok (readLocNoting_sound (l := .mem a) hs swReadParity)) _)

section Actions

variable {s : State} {m : MR} {v a : WordAddr} (hm : s.psd.ms = false) (hv : effWordAddr s m alignWord = .ok v)

include hm hv

theorem exec_lms_loadAndSet (hcc : ccOf s = 0b0000#4) (ha : locateMemory s v .write = .ok a)
    (hs : parityBad s a = false) : exec (.lms m) s = .next
      { finished (writeLoc (.mem a) (readWordAt s.mem a ||| 0x80000000#32) s)
          (oneReg s m.r (readWordAt s.mem a)) false false (parityReturned s) false with free := s.free + 1 } := by
  refine (run_requireMaster hm _).trans ((run_need hv _).trans ((run_look _ _ s).trans ?_))
  rw [hcc]
  exact (run_bind (loadAndSet_eq_ok ha hs) _).trans (run_ok (lmsResult_apply m.r _ _))

theorem exec_lms_clearMemory (hcc : ccOf s = 0b1111#4) (ha : locateMemory s v .write = .ok a) :
    exec (.lms m) s = .next
      { finished (writeLoc (.mem a) 0 s) s.regs false false (parityReturned s) false with free := s.free + 1 } := by
  refine (run_requireMaster hm _).trans ((run_need hv _).trans ((run_look _ _ s).trans ?_))
  rw [hcc]
  exact (run_need ha _).trans ((run_change _ _ _).trans (run_ok (finishLms_apply false _)))

variable (ha : locateMemory s v .read = .ok a)

include ha

theorem exec_lms_inhibitParity (hcc : ccOf s = 0b0001#4) : exec (.lms m) s = .next
    { finished s (oneReg s m.r (readWordAt s.mem a)) (parityBad s a) false (parityReturned s) false with
      free := s.free + 1 } := by
  refine (run_requireMaster hm _).trans ((run_need hv _).trans ((run_look _ _ s).trans ?_))
  rw [hcc]
  exact (run_need ha _).trans ((run_look _ _ s).trans ((run_change _ _ s).trans (run_ok (finishLms_apply _ _))))

theorem exec_lms_setBadParity (hcc : ccOf s = 0b0010#4) (hs : parityBad s a = false) : exec (.lms m) s = .next
    { finished s (oneReg s m.r (readWordAt s.mem a)) false false (parityReturned s) false with
      badParity := a.toNat :: s.badParity, free := s.free + 1 } := by
  refine (run_requireMaster hm _).trans ((run_need hv _).trans ((run_look _ _ s).trans ?_))
  rw [hcc]
  exact (run_need ha _).trans ((run_need (readLocNoting_sound (l := .mem a) hs swReadParity) _).trans
    ((run_change _ _ s).trans (run_ok (lmsResult_apply m.r _ _))))

theorem exec_lms_setMargins (hcc : ccOf s = 0b0111#4) : exec (.lms m) s = .next
    { finished s s.regs false false (parityReturned s) false with
      banks := updateBanks (fun b => { b with margins := field (getReg s m.r) 8 12 }) a s.banks
      free := s.free + 1 } := by
  refine (run_requireMaster hm _).trans ((run_need hv _).trans ((run_look _ _ s).trans ?_))
  rw [hcc]
  exact (run_need ha _).trans ((run_change _ _ s).trans (run_ok (finishLms_apply false _)))

/-- A status word loaded (R534 actions 1000, 1001, 1010). -/
theorem exec_lms_status {f : Bank → Word} {b : Bank} (hcc : lmsAction (ccOf s) = .status f false)
    (hb : bankAt s a = some b) : exec (.lms m) s = .next
      { finished s (oneReg s m.r (f b)) false false (parityReturned s) false with free := s.free + 1 } := by
  have hword : bankStatus f s a = f b := by rw [bankStatus, hb]
  refine (run_requireMaster hm _).trans ((run_need hv _).trans ((run_look _ _ s).trans ?_))
  rw [hcc, ← hword]
  exact (run_need ha _).trans ((run_look _ _ s).trans (run_bind (lmsResult_apply m.r _ s) _))

/-- A status word loaded and the bank's status cleared (R534 actions 1100, 1110). -/
theorem exec_lms_clearStatus {f : Bank → Word} {b : Bank} (hcc : lmsAction (ccOf s) = .status f true)
    (hb : bankAt s a = some b) : ∃ idle : WordAddr, exec (.lms m) s = .next
      { finished s (oneReg s m.r (f b)) false false (parityReturned s) false with
        free := s.free + 2
        banks := updateBanks (fun b => { b with faults := 0, snap := none, sw2Idle := idle, mfi := false }) a
          s.banks } := by
  have hword : bankStatus f s a = f b := by rw [bankStatus, hb]
  refine ⟨Config.freeValue 22 (s.free + 1),
    (run_requireMaster hm _).trans ((run_need hv _).trans ((run_look _ _ s).trans ?_))⟩
  rw [hcc, ← hword]
  exact (run_need ha _).trans ((run_look _ _ s).trans (run_bind (lmsResult_apply m.r _ s) _))

/-- A reserved condition code (R537, log 31 and 32). -/
theorem exec_lms_reserved
    (hcc : ccOf s ∈ [0b0011#4, 0b0100#4, 0b0101#4, 0b0110#4, 0b1011#4, 0b1101#4]) :
    exec (.lms m) s = .next (enterTrap { loc := 0x4C#8, ra := true, fault := some .memoryParity
                                         bankFault := some (0x00800000#32, a) }
      { s with regs := oneReg s m.r 0 }) := by
  have hreserved : lmsAction (ccOf s) = .reserved := by
    simp only [List.mem_cons, List.not_mem_nil, or_false] at hcc
    rcases hcc with h | h | h | h | h | h <;> rw [h] <;> rfl
  refine (run_requireMaster hm _).trans ((run_need hv _).trans ((run_look _ _ s).trans ?_))
  rw [hreserved]
  exact (run_need ha _).trans ((run_change _ _ s).trans (run_trap (altering_error (raise_apply _ _))))

end Actions

/-- A word of memory stored, another word loaded into register `r`, and the program status replaced. -/
theorem load_after_store {s t : State} (hs : MemCanonical s) (a : WordAddr) (x w : Word) (r : BitVec 4) {p : Psd}
    (hrp : p.rp = s.psd.rp) (ht : t = { setReg r w (writeLoc (.mem a) x s) with psd := p }) :
    getReg t r = w ∧ readWordAt t.mem a = x ∧ KeptBut s t (· = .mem a) (· = r) ∧ OnlyData s t := by
  subst ht
  have hstore : KeptBut s (writeLoc (.mem a) x s) (· = .mem a) (· = r) := keptBut_writeLoc (p := (· = .mem a)) rfl x _
  have hload := keptBut_setReg (s := writeLoc (.mem a) x s) (q := (· = r)) rfl w (· = .mem a)
  refine ⟨(getReg_withPsd (s := setReg r w (writeLoc (.mem a) x s)) hrp r).trans (getReg_setReg_same r w _),
    wordAt_writeLoc hs (.mem a) x, ?_, rfl⟩
  exact keptBut_trans (keptBut_trans hstore hload rfl)
    (keptBut_withPsd (s := setReg r w (writeLoc (.mem a) x s)) hrp _ _) rfl

/-- Settles O58: the bits of the status words, what a bank notes, and LMS action by action. -/
theorem memoryStatus : Obligations.MemoryStatus := by
  refine ⟨fun b k hk => ⟨bit_statusWord0 b hk, bit_statusWord1 b hk⟩,
    fun s a p hp => ⟨_, memoryFault_noted hp s a⟩, ?lms⟩
  case lms =>
    intro s m v a hs hm hv
    refine ⟨parityReturned s, ?_⟩
    rintro f rfl
    refine ⟨fun ha => ⟨fun hcc hp => ?loadAndSet, fun hcc => ?clearMemory⟩, fun ha w hw => ?read⟩
    case loadAndSet =>
      refine ⟨_, _, exec_lms_loadAndSet hm hv hcc ha hp, rfl, ?_⟩
      obtain ⟨hreg, hword, hkept, hdata⟩ := load_after_store hs a (readWordAt s.mem a ||| 0x80000000#32)
        (readWordAt s.mem a) m.r (p := (finished s s.regs false false (parityReturned s) false).psd) rfl rfl
      exact ⟨hreg, hword, hkept, hdata, rfl⟩
    case clearMemory =>
      exact ⟨_, exec_lms_clearMemory hm hv hcc ha, storedAt_writeLoc hs (.mem a) 0 false false (parityReturned s) false⟩
    case read =>
      subst hw
      refine ⟨exec_lms_inhibitParity hm hv ha, exec_lms_setBadParity hm hv ha, exec_lms_setMargins hm hv ha,
        fun b hb => ⟨fun hcc => ?_, fun hcc => ?_, fun hcc => ?_, fun hcc => ?_, fun hcc => ?_⟩,
        exec_lms_reserved hm hv ha⟩
      · exact exec_lms_status hm hv ha (by rw [hcc]; rfl) hb
      · exact exec_lms_status hm hv ha (by rw [hcc]; rfl) hb
      · exact exec_lms_status (f := statusWord2) hm hv ha (by rw [hcc]; rfl) hb
      · exact exec_lms_clearStatus hm hv ha (by rw [hcc]; rfl) hb
      · exact exec_lms_clearStatus (f := statusWord2) hm hv ha (by rw [hcc]; rfl) hb

end Sys2Proof.Proofs

namespace Sys2Proof.Proofs

open Sys2Proof Sys2Proof.Config Sys2Proof.Machine Sys2Proof.Laws

/-! ### The leftmost 1 of a mask (60_exceptions R676) -/

theorem leftmost_eq_some_iff {m : BitVec 16} {k : Fin 16} : leftmost m = some k ↔
    m.getLsbD (15 - k.val) = true ∧ ∀ j : Fin 16, j < k → m.getLsbD (15 - j.val) = false := by
  rw [leftmost, List.find?_eq_some_iff_getElem]
  simp only [List.getElem_finRange, List.length_finRange, Bool.not_eq_true', and_congr_right_iff]
  refine fun _ => ⟨?_, fun h => ⟨k.val, k.isLt, rfl, fun j hj => h ⟨j, by omega⟩ hj⟩⟩
  rintro ⟨i, hi, rfl, h⟩ j hj
  exact h j.val hj

theorem leftmost_eq_none_iff {m : BitVec 16} : leftmost m = none ↔ ∀ k : Fin 16, m.getLsbD (15 - k.val) = false := by
  simp [leftmost]

/-! ### The place of a level in a chain (60_exceptions R676) -/

/-- The level is one of the stretch. -/
def segmentHolds (l : Level) (g : Segment) : Bool := decide (g.group = l.group) && g.mask.getLsbD (15 - l.bit.val)

/-- The first stretch of the chain that has the level. -/
def placeIn (chain : List Segment) (l : Level) : Option Nat := chain.findIdx? (segmentHolds l)

/-- The level `m` comes before the level `l` in the chain. -/
def Before (chain : List Segment) (m l : Level) : Prop :=
  ∃ i j, placeIn chain m = some i ∧ placeIn chain l = some j ∧ (i < j ∨ (i = j ∧ m.bit < l.bit))

theorem placeIn_cons (g : Segment) (rest : List Segment) (l : Level) : placeIn (g :: rest) l =
    if segmentHolds l g then some 0 else (placeIn rest l).map (· + 1) := by
  rw [placeIn, List.findIdx?_cons]
  rfl

/-- Two levels at one place of the chain are of one group. -/
theorem group_eq_of_placeIn {chain : List Segment} {m l : Level} {i : Nat} (hm : placeIn chain m = some i)
    (hl : placeIn chain l = some i) : m.group = l.group := by
  rw [placeIn, List.findIdx?_eq_some_iff_getElem] at hm hl
  obtain ⟨hi, hm, _⟩ := hm
  obtain ⟨hi', hl, _⟩ := hl
  simp only [segmentHolds, Bool.and_eq_true, decide_eq_true_eq] at hm hl
  exact hm.1.symm.trans hl.1

theorem before_trichotomy {chain : List Segment} {m l : Level} (hm : (placeIn chain m).isSome = true)
    (hl : (placeIn chain l).isSome = true) : Before chain m l ∨ m = l ∨ Before chain l m := by
  obtain ⟨i, hi⟩ := Option.isSome_iff_exists.1 hm
  obtain ⟨j, hj⟩ := Option.isSome_iff_exists.1 hl
  rcases Nat.lt_trichotomy i j with h | rfl | h
  · exact .inl ⟨i, j, hi, hj, .inl h⟩
  · rcases lt_trichotomy m.bit l.bit with h | h | h
    · exact .inl ⟨i, i, hi, hj, .inr ⟨rfl, h⟩⟩
    · have hgroup := group_eq_of_placeIn hi hj
      cases m
      cases l
      exact .inr (.inl (by simp_all))
    · exact .inr (.inr ⟨i, i, hj, hi, .inr ⟨rfl, h⟩⟩)
  · exact .inr (.inr ⟨j, i, hj, hi, .inl h⟩)

/-! ### The first level of a chain of some kind (60_exceptions R677, R688) -/

/-- The first level of the chain whose bit is set in the mask that `f` gives its stretch. -/
def firstLevel (f : Segment → BitVec 16) : List Segment → Option Level
  | [] => none
  | g :: rest => match leftmost (f g) with
    | none => firstLevel f rest
    | some k => some ⟨g.group, k⟩

/-- The masks of `f` are those of the levels of kind `Q` along the chain. -/
def Masks (f : Segment → BitVec 16) (Q : Level → Prop) (chain : List Segment) : Prop :=
  ∀ g ∈ chain, ∀ k : Fin 16, (f g).getLsbD (15 - k.val) = true ↔ g.mask.getLsbD (15 - k.val) = true ∧ Q ⟨g.group, k⟩

section First

variable {f : Segment → BitVec 16} {Q : Level → Prop} {g : Segment} {rest chain : List Segment} {l m : Level}

theorem mask_of_holds (h : Masks f Q (g :: rest)) (hl : segmentHolds l g = true) :
    (f g).getLsbD (15 - l.bit.val) = true ↔ Q l := by
  simp only [segmentHolds, Bool.and_eq_true, decide_eq_true_eq] at hl
  rw [h g (by simp) l.bit, hl.1]
  exact and_iff_right hl.2

/-- A stretch whose mask is empty has no level of the kind. -/
theorem not_of_leftmost_none (h : Masks f Q (g :: rest)) (hn : leftmost (f g) = none) (hl : segmentHolds l g = true) :
    ¬ Q l := by
  rw [← mask_of_holds h hl, leftmost_eq_none_iff.1 hn]
  exact Bool.false_ne_true

theorem firstLevel_spec (h : Masks f Q chain) (hf : firstLevel f chain = some l) :
    (placeIn chain l).isSome = true ∧ Q l ∧ ∀ m, Before chain m l → ¬ Q m := by
  induction chain with
  | nil => cases hf
  | cons g rest ih =>
    rw [firstLevel] at hf
    split at hf
    next hn =>
      obtain ⟨hplace, hq, hfirst⟩ := ih (fun g hg => h g (List.mem_cons_of_mem _ hg)) hf
      have hout : segmentHolds l g = false := Bool.eq_false_iff.2 fun hl => not_of_leftmost_none h hn hl hq
      refine ⟨by simpa [placeIn_cons, hout] using hplace, hq, ?_⟩
      rintro m ⟨i, j, hi, hj, hlt⟩ hqm
      have hm : segmentHolds m g = false := Bool.eq_false_iff.2 fun hm => not_of_leftmost_none h hn hm hqm
      simp only [placeIn_cons, hout, hm, Bool.false_eq_true, if_false, Option.map_eq_some_iff] at hi hj
      obtain ⟨i, hi, rfl⟩ := hi
      obtain ⟨j, hj, rfl⟩ := hj
      exact hfirst m ⟨i, j, hi, hj, by omega⟩ hqm
    next k hk =>
      cases hf
      obtain ⟨hbit, hleft⟩ := leftmost_eq_some_iff.1 hk
      obtain ⟨hmask, hq⟩ := (h g (by simp) k).1 hbit
      have hin : segmentHolds ⟨g.group, k⟩ g = true := by simp [segmentHolds, hmask]
      refine ⟨by simp [placeIn_cons, hin], hq, ?_⟩
      rintro m ⟨i, j, hi, hj, hlt⟩ hqm
      obtain rfl : 0 = j := by simpa [placeIn_cons, hin] using hj
      obtain ⟨hzero, hbefore⟩ := hlt.resolve_left (Nat.not_lt_zero i)
      subst hzero
      have hm : segmentHolds m g = true := by
        by_contra hm
        simp [placeIn_cons, hm] at hi
      have hset := (mask_of_holds h hm).2 hqm
      rw [hleft m.bit hbefore] at hset
      exact Bool.false_ne_true hset

theorem firstLevel_none (h : Masks f Q chain) (hf : firstLevel f chain = none)
    (hl : (placeIn chain l).isSome = true) : ¬ Q l := by
  induction chain with
  | nil => cases hl
  | cons g rest ih =>
    rw [firstLevel] at hf
    split at hf
    next hn =>
      by_cases hin : segmentHolds l g = true
      · exact not_of_leftmost_none h hn hin
      · exact ih (fun g hg => h g (List.mem_cons_of_mem _ hg)) hf (by simpa [placeIn_cons, hin] using hl)
    next => cases hf

/-- The first level of the kind is the one that no other of the kind comes before. -/
theorem firstLevel_eq_some_iff (h : Masks f Q chain) : firstLevel f chain = some l ↔
    (placeIn chain l).isSome = true ∧ Q l ∧ ∀ m, Before chain m l → ¬ Q m := by
  refine ⟨firstLevel_spec h, fun ⟨hplace, hq, hfirst⟩ => ?_⟩
  cases hf : firstLevel f chain with
  | none => exact absurd hq (firstLevel_none h hf hplace)
  | some m =>
    obtain ⟨hplace', hq', hfirst'⟩ := firstLevel_spec h hf
    rcases before_trichotomy hplace' hplace with hm | rfl | hm
    · exact absurd hq' (hfirst m hm)
    · rfl
    · exact absurd hq (hfirst' l hm)

theorem firstLevel_eq_none_iff (h : Masks f Q chain) : firstLevel f chain = none ↔
    ∀ l, (placeIn chain l).isSome = true → ¬ Q l := by
  refine ⟨fun hf l => firstLevel_none h hf, fun hall => ?_⟩
  cases hf : firstLevel f chain with
  | none => rfl
  | some m =>
    obtain ⟨hplace, hq, -⟩ := firstLevel_spec h hf
    exact absurd hq (hall m hplace)

end First

/-! ### The chain of R676 as the levels' ranks -/

/-- The stretch of the chain behind the override group that has the level. -/
def stretchOf (l : Level) : Option Chain :=
  match l.group with
  | .power => none
  | .internal =>
    if l.bit.val < 6 then none else if l.bit.val < 10 then some .counterZero
    else if l.bit.val < 12 then some .inputOutput else none
  | .external g => some (.external g)

theorem bit_lt_of_mask : ∀ k : Fin 16, (0xC000#16).getLsbD (15 - k.val) = decide (k.val < 2) ∧
    (0xFC00#16).getLsbD (15 - k.val) = decide (k.val < 6) ∧
    (0x03C0#16).getLsbD (15 - k.val) = decide (6 ≤ k.val ∧ k.val < 10) ∧
    (0x0030#16).getLsbD (15 - k.val) = decide (10 ≤ k.val ∧ k.val < 12) ∧
    (0xFFFF#16).getLsbD (15 - k.val) = true := by decide

theorem segmentHolds_chainSegment (s : State) (l : Level) (c : Chain) :
    segmentHolds l (chainSegment s c) = decide (stretchOf l = some c) := by
  obtain ⟨g, k⟩ := l
  obtain ⟨-, -, hcz, hio, hext⟩ := bit_lt_of_mask k
  cases c with
  | counterZero =>
    simp only [segmentHolds, chainSegment, stretchOf, hcz]
    cases g <;> grind
  | inputOutput =>
    simp only [segmentHolds, chainSegment, stretchOf, hio]
    cases g <;> grind
  | external e =>
    simp only [segmentHolds, chainSegment, stretchOf, hext]
    cases g <;> grind

theorem findIdx?_eq_idxOf (c : Chain) (chain : List Chain) : chain.findIdx? (fun d => decide (some c = some d)) =
    if c ∈ chain then some (chain.idxOf c) else none := by
  induction chain with
  | nil => rfl
  | cons d rest ih =>
    rw [List.findIdx?_cons, ih, List.idxOf_cons]
    by_cases hd : c = d
    · simp [hd]
    · by_cases hrest : c ∈ rest <;> simp [hd, hrest, beq_false_of_ne (Ne.symm hd)]

theorem segmentHolds_power (l : Level) (b : Bool) : segmentHolds l ⟨.power, 0xC000#16, b⟩ =
    decide (l.group = .power ∧ l.bit.val < 2) := by
  obtain ⟨g, k⟩ := l
  obtain ⟨hp, -⟩ := bit_lt_of_mask k
  simp only [segmentHolds, hp]
  grind

theorem segmentHolds_override (l : Level) (b : Bool) : segmentHolds l ⟨.internal, 0xFC00#16, b⟩ =
    decide (l.group = .internal ∧ l.bit.val < 6) := by
  obtain ⟨g, k⟩ := l
  obtain ⟨-, hi, -⟩ := bit_lt_of_mask k
  simp only [segmentHolds, hi]
  grind

theorem placeIn_stretches (s : State) (l : Level) (chain : List Chain) : placeIn (chain.map (chainSegment s)) l =
    match stretchOf l with
    | none => none
    | some c => if c ∈ chain then some (chain.idxOf c) else none := by
  have hseg : segmentHolds l ∘ chainSegment s = fun d => decide (stretchOf l = some d) :=
    funext (segmentHolds_chainSegment s l)
  rw [placeIn, List.findIdx?_map, hseg]
  cases stretchOf l with
  | none => simp [List.findIdx?_eq_none_iff]
  | some c => exact findIdx?_eq_idxOf c chain

theorem placeIn_priorityChain (s : State) (l : Level) : placeIn (priorityChain s) l = rankOf s l := by
  rw [priorityChain, placeIn_cons, placeIn_cons, segmentHolds_power, segmentHolds_override, placeIn_stretches, rankOf,
    stretchOf]
  obtain ⟨g, k⟩ := l
  cases g with
  | power => simp
  | internal => grind
  | external g => grind

theorem higher_iff_before (s : State) (m l : Level) : Higher s m l ↔ Before (priorityChain s) m l := by
  simp only [Higher, Before, placeIn_priorityChain, Fin.lt_def]

/-! ### The masks of the active and the eligible levels -/

theorem active_getLsbD (g : IntGroup) (i : Nat) : g.active.getLsbD i = true ↔
    g.wa.getLsbD i = true ∧ g.aw.getLsbD i = false := by
  rw [IntGroup.active]
  by_cases hi : i < 16
  · simp [hi]
  · simp [hi, BitVec.getLsbD_of_ge g.wa i (Nat.not_lt.1 hi)]

theorem waiting_getLsbD (g : IntGroup) (i : Nat) : g.waiting.getLsbD i = true ↔
    g.wa.getLsbD i = true ∧ g.aw.getLsbD i = true := by
  simp [IntGroup.waiting]

theorem masks_active (s : State) (chain : List Segment) : Masks (activeIn s) (LevelActive s) chain := by
  intro g _ k
  rw [activeIn, BitVec.getLsbD_and, Bool.and_eq_true, active_getLsbD, and_comm]
  rfl

/-- Every stretch of the chain carries the inhibit of its levels (R664, R677). -/
theorem inhibited_of_segment {s : State} {g : Segment} (hg : g ∈ priorityChain s) {k : Fin 16}
    (hk : g.mask.getLsbD (15 - k.val) = true) : g.inhibited = LevelInhibited s ⟨g.group, k⟩ := by
  obtain ⟨-, hi, hcz, hio, -⟩ := bit_lt_of_mask k
  simp only [priorityChain, List.mem_cons, List.mem_map] at hg
  obtain rfl | rfl | ⟨c, -, rfl⟩ := hg
  · rfl
  · simp_all [LevelInhibited]
  · cases c with
    | counterZero =>
      simp only [chainSegment, hcz, decide_eq_true_eq] at hk
      simp [chainSegment, LevelInhibited, hk, Nat.not_lt.2 hk.1]
    | inputOutput =>
      simp only [chainSegment, hio, decide_eq_true_eq] at hk
      have hsix : ¬ k.val < 6 := by omega
      simp [chainSegment, LevelInhibited, hsix, Nat.not_lt.2 hk.1]
    | external _ => rfl

theorem masks_eligible_or_active (s : State) : Masks (fun g => eligibleIn s g ||| activeIn s g)
    (fun l => LevelEligible s l ∨ LevelActive s l) (priorityChain s) := by
  intro g hg k
  have hactive := masks_active s _ g hg k
  rw [BitVec.getLsbD_or, Bool.or_eq_true, hactive, and_or_left]
  refine or_congr_left ?_
  by_cases hk : g.mask.getLsbD (15 - k.val) = true
  · rw [eligibleIn, inhibited_of_segment hg hk, LevelEligible, flipFlop]
    cases LevelInhibited s ⟨g.group, k⟩ with
    | true => simp
    | false => simp [waiting_getLsbD, hk, flipFlop, and_assoc]
  · rw [eligibleIn]
    split <;> simp [hk]

/-! ### The highest active level and the level to be acknowledged (R677, R688) -/

theorem highestActiveFrom_eq_firstLevel (s : State) (chain : List Segment) :
    highestActiveFrom s chain = firstLevel (activeIn s) chain := by
  induction chain with
  | nil => rfl
  | cons g rest ih =>
    rw [highestActiveFrom, firstLevel]
    cases leftmost (activeIn s g) with
    | none => exact ih
    | some k => rfl

theorem highestActive_eq_some_iff (s : State) (l : Level) : highestActiveFrom s (priorityChain s) = some l ↔
    (rankOf s l).isSome = true ∧ LevelActive s l ∧ ∀ m, Higher s m l → ¬ LevelActive s m := by
  simp only [highestActiveFrom_eq_firstLevel, firstLevel_eq_some_iff (masks_active s _), placeIn_priorityChain,
    higher_iff_before]

theorem highestActive_eq_none_iff (s : State) : highestActiveFrom s (priorityChain s) = none ↔
    ∀ l, (rankOf s l).isSome = true → ¬ LevelActive s l := by
  simp only [highestActiveFrom_eq_firstLevel, firstLevel_eq_none_iff (masks_active s _), placeIn_priorityChain]

theorem not_active_of_eligible {s : State} {l : Level} (h : LevelEligible s l) : ¬ LevelActive s l := by
  obtain ⟨-, haw, -, -⟩ := h
  rintro ⟨-, haw'⟩
  rw [haw] at haw'
  cases haw'

theorem nextInterruptFrom_eq_some_iff (s : State) (l : Level) (chain : List Segment) :
    nextInterruptFrom s chain = some l ↔
      firstLevel (fun g => eligibleIn s g ||| activeIn s g) chain = some l ∧ ¬ LevelActive s l := by
  induction chain with
  | nil => simp [nextInterruptFrom, firstLevel]
  | cons g rest ih =>
    rw [nextInterruptFrom, firstLevel]
    cases hleft : leftmost (eligibleIn s g ||| activeIn s g) with
    | none => exact ih
    | some k =>
      have hset := (leftmost_eq_some_iff.1 hleft).1
      have hmask : g.mask.getLsbD (15 - k.val) = true := by
        rw [eligibleIn, activeIn] at hset
        split at hset <;> grind
      have hactive := masks_active s [g] g (List.mem_singleton_self g) k
      simp only [hmask, true_and] at hactive
      simp only [hactive]
      grind

theorem nextInterrupt_eq_some_iff (s : State) (l : Level) : nextInterrupt s = some l ↔
    (rankOf s l).isSome = true ∧ LevelEligible s l ∧ ∀ m, Higher s m l → ¬ LevelActive s m ∧ ¬ LevelEligible s m := by
  rw [nextInterrupt, nextInterruptFrom_eq_some_iff, firstLevel_eq_some_iff (masks_eligible_or_active s)]
  simp only [placeIn_priorityChain, ← higher_iff_before, not_or]
  have := not_active_of_eligible (s := s) (l := l)
  grind

end Sys2Proof.Proofs

namespace Sys2Proof.Proofs

open Sys2Proof Sys2Proof.Machine Sys2Proof.Laws

/-! ### The four places of an exchange (48_control R523) -/

/-- The number of the register or of the memory word. -/
def placeNumber : Loc → Nat
  | .reg n => n.toNat
  | .mem a => a.toNat

/-- The address of either kind as a number. -/
def viaNumber : Via → Nat
  | .virtual v => v.toNat
  | .real a => a.toNat

/-- Homespace bias leaves the place within a page as it is (R124). -/
theorem homespaceBias_mod_four (s : State) (a : WordAddr) : (homespaceBias s a).toNat % 4 = a.toNat % 4 := by
  unfold homespaceBias
  split
  · rw [append_toNat, BitVec.extractLsb'_toNat, Nat.shiftRight_zero]
    omega
  · rfl

/-- The map leaves the place within a page as it is (R120). -/
theorem actualAddr_mod_four (s : State) (v : WordAddr) : (actualAddr s v).toNat % 4 = v.toNat % 4 := by
  unfold actualAddr
  split
  · rw [mapped, append_toNat, BitVec.extractLsb'_toNat, Nat.shiftRight_zero]
    omega
  · rfl

theorem wrapWord_mod_four (s : State) (a : WordAddr) : (wrapWord s a).toNat % 4 = a.toNat % 4 := by
  rw [wrapWord_toNat, addressSpace]
  split <;> omega

theorem placeNumber_of_locate {s : State} {v : WordAddr} {k : Access} {l : Loc} (h : locate s v k = .ok l) :
    placeNumber l % 4 = v.toNat % 4 := by
  rcases locate_cases h with ⟨-, rfl⟩ | ⟨-, rfl, -⟩
  · rw [placeNumber, BitVec.extractLsb'_toNat, Nat.shiftRight_zero]
    omega
  · exact (homespaceBias_mod_four s _).trans (actualAddr_mod_four s v)

theorem locateReal_cases {s : State} {a : WordAddr} {k : Access} {l : Loc} (h : locateReal s a k = .ok l) :
    l = .mem (homespaceBias s a) := by
  unfold locateReal at h
  dsimp only at h
  split at h
  · cases h
  · cases h
    rfl

theorem placeNumber_of_locateVia {s : State} {a : Via} {k : Access} {l : Loc} (h : locateVia s k a = .ok l) :
    placeNumber l % 4 = viaNumber a % 4 := by
  cases a with
  | virtual v => exact placeNumber_of_locate h
  | real a =>
    rw [locateReal_cases h]
    exact homespaceBias_mod_four s a

theorem viaNumber_add (s : State) (n : WordAddr) (a : Via) :
    viaNumber (a.add s n) % 4 = (viaNumber a + n.toNat) % 4 := by
  have hadd : ∀ b : WordAddr, (b + n).toNat % 4 = (b.toNat + n.toNat) % 4 := by
    intro b
    rw [BitVec.toNat_add]
    omega
  cases a with
  | virtual v => exact (wrapWord_mod_four s _).trans (hadd v)
  | real b => exact hadd b

section Exchange

variable {s : State} {a : Via} {l0 l1 l2 l3 : Loc}

/-- The places are numbered in sequence, so no two of them are the same. -/
theorem exchangePlaces_ne (h : exchangePlaces s a = .ok (l0, l1, l2, l3)) :
    l0 ≠ l1 ∧ l2 ≠ l0 ∧ l2 ≠ l1 ∧ l3 ≠ l0 ∧ l3 ≠ l1 := by
  obtain ⟨h0, h1, h2, h3⟩ := exchangePlaces_cases h
  have n0 := placeNumber_of_locateVia h0
  have n1 := (placeNumber_of_locateVia h1).trans (viaNumber_add s 1 a)
  have n2 := (placeNumber_of_locateVia h2).trans (viaNumber_add s 2 a)
  have n3 := (placeNumber_of_locateVia h3).trans (viaNumber_add s 3 a)
  simp only [BitVec.reduceToNat, BitVec.ofNat_eq_ofNat] at n1 n2 n3
  refine ⟨?_, ?_, ?_, ?_, ?_⟩ <;> rintro rfl <;> omega

theorem exchangePlaces_virtual {v : WordAddr} (h0 : locate s v .write = .ok l0)
    (h1 : locate s (wordPlus s v 1) .write = .ok l1) (h2 : locate s (wordPlus s v 2) .read = .ok l2)
    (h3 : locate s (wordPlus s v 3) .read = .ok l3) : exchangePlaces s (.virtual v) = .ok (l0, l1, l2, l3) := by
  have e1 : locateVia s .write (Via.add s 1 (.virtual v)) = .ok l1 := h1
  have e2 : locateVia s .read (Via.add s 2 (.virtual v)) = .ok l2 := h2
  have e3 : locateVia s .read (Via.add s 3 (.virtual v)) = .ok l3 := h3
  have e0 : locateVia s .write (.virtual v) = .ok l0 := h0
  rw [exchangePlaces, e0, e1, e2, e3]
  rfl

theorem exchangePlaces_real {e : WordAddr} (h0 : locateReal s e .write = .ok l0)
    (h1 : locateReal s (e + 1) .write = .ok l1) (h2 : locateReal s (e + 2) .read = .ok l2)
    (h3 : locateReal s (e + 3) .read = .ok l3) : exchangePlaces s (.real e) = .ok (l0, l1, l2, l3) := by
  have e0 : locateVia s .write (.real e) = .ok l0 := h0
  have e1 : locateVia s .write (Via.add s 1 (.real e)) = .ok l1 := h1
  have e2 : locateVia s .read (Via.add s 2 (.real e)) = .ok l2 := h2
  have e3 : locateVia s .read (Via.add s 3 (.real e)) = .ok l3 := h3
  rw [exchangePlaces, e0, e1, e2, e3]
  rfl

/-! ### The old PSD stored and the new one read -/

theorem readTwo_of_sound (h2 : Sound s l2) (h3 : Sound s l3) :
    readTwo s l2 l3 = .ok (wordAt s l2, wordAt s l3) := by
  rw [readTwo, readLoc, readLoc, readLocNoting_sound h2, readLocNoting_sound h3]
  rfl

/-- An exchange whose four places are there, the new PSD of good parity. -/
theorem exchangePsd_eq (h : exchangePlaces s a = .ok (l0, l1, l2, l3)) (h2 : Sound s l2) (h3 : Sound s l3)
    (old : Psd) (lp ra : Bool) (e : Option (BitVec 8)) (tsf : BitVec 8) :
    exchangePsd s old a lp e tsf ra =
      if lp && rpInvalid s (field (wordAt s l3) 24 27) then .error (pointerTrap e, s)
      else .ok { psdStored s old tsf ra l0 l1 with
        psd := exchangedPsd s.psd (wordAt s l2) (wordAt s l3) lp, jumped := true } := by
  obtain ⟨-, h20, h21, h30, h31⟩ := exchangePlaces_ne h
  have hread := (readTwo_psdStored h20 h21 h30 h31 s old tsf ra).trans (readTwo_of_sound h2 h3)
  rw [psdStored] at hread
  rw [exchangePsd, h]
  dsimp only
  rw [hread]
  rfl

/-- What the store of the old PSD does: the two words, and nothing beside them. -/
theorem psdStored_leaves (hs : MemCanonical s) (hne : l0 ≠ l1) (old : Psd) (tsf : BitVec 8) (ra : Bool) :
    wordAt (psdStored s old tsf ra l0 l1) l0 = psdWord1 old ∧
      wordAt (psdStored s old tsf ra l0 l1) l1 = psdWord2 old tsf ra ∧
      KeptBut s (psdStored s old tsf ra l0 l1) (fun l => l = l0 ∨ l = l1) (fun _ => False) := by
  have hs1 : MemCanonical (writeLoc l0 (psdWord1 old) s) := wf_writeLoc hs l0 _
  refine ⟨?_, wordAt_writeLoc hs1 l1 _, ?_⟩
  · rw [psdStored, wordAt_writeLoc_ne hne]
    exact wordAt_writeLoc hs l0 _
  · exact keptBut_trans (keptBut_writeLoc (.inl rfl) _ _) (keptBut_writeLoc (.inr rfl) _ _) (by rw [writeLoc_psd])

theorem psdStored_onlyData (old : Psd) (tsf : BitVec 8) (ra : Bool) : OnlyData s (psdStored s old tsf ra l0 l1) :=
  onlyData_trans (writeLoc_onlyData l0 _ s) (writeLoc_onlyData l1 _ _)

theorem psdStored_psd (old : Psd) (tsf : BitVec 8) (ra : Bool) : (psdStored s old tsf ra l0 l1).psd = s.psd := by
  simp [psdStored]

/-- The words stored and the frame of an exchange, seen with the old register pointer, and what else it changes. -/
theorem exchanged_leaves (hs : MemCanonical s) (h : exchangePlaces s a = .ok (l0, l1, l2, l3)) (old p : Psd)
    (tsf : BitVec 8) (ra : Bool) {t u : State} (ht : t = { psdStored s old tsf ra l0 l1 with psd := p, jumped := true })
    (hu : u = { t with psd := s.psd }) :
    wordAt u l0 = psdWord1 old ∧ wordAt u l1 = psdWord2 old tsf ra ∧
      KeptBut s u (fun l => l = l0 ∨ l = l1) (fun _ => False) ∧
      t = { s with
        regs := t.regs, mem := t.mem, badParity := t.badParity, watch := t.watch, psd := p, jumped := true } := by
  subst hu ht
  obtain ⟨hw0, hw1, hkept⟩ := psdStored_leaves hs (exchangePlaces_ne h).1 old tsf ra
  have hdata : OnlyData s (psdStored s old tsf ra l0 l1) := psdStored_onlyData old tsf ra
  have hpsd : (psdStored s old tsf ra l0 l1).psd = s.psd := psdStored_psd old tsf ra
  refine ⟨?_, ?_, ?_, ?_⟩
  · rw [← hpsd]
    exact hw0
  · rw [← hpsd]
    exact hw1
  · have hsame : KeptBut s
        { psdStored s old tsf ra l0 l1 with psd := (psdStored s old tsf ra l0 l1).psd, jumped := true }
        (fun l => l = l0 ∨ l = l1) (fun _ => False) := hkept
    rw [hpsd] at hsame
    exact hsame
  · exact congrArg (fun r : State => { r with psd := p, jumped := true }) hdata

end Exchange

/-! ### The program status loaded (R522, R523) -/

/-- A doubleword loaded is its first word loaded and the fields of its second. -/
theorem psdLoaded_append (p : Psd) (n1 n2 : Word) (more lp : Bool) : psdLoaded p (n1 ++ n2) more lp =
    { loadPsd1 n1 p with
      wk := field n2 2 3, ci := bit n2 5, ii := bit n2 6, ei := bit n2 7
      ma := if more then bit n2 8 else p.ma, ea := if more then field n2 10 15 else p.ea
      rp := if lp then field n2 24 27 else p.rp } := by
  have hfield : ∀ a n, a + n ≤ 32 → (n1 ++ n2 : Dword).extractLsb' a n = n2.extractLsb' a n :=
    fun a n h => BitVec.extractLsb'_append_eq_of_add_le h
  have hia : (n1 ++ n2 : Dword).extractLsb' 32 17 = field n1 15 31 := BitVec.extractLsb'_append_eq_of_le (le_refl 32)
  have hbit : ∀ k, k < 32 → bitOf (n1 ++ n2 : Dword) (32 + k) = bit n2 k := fun k hk => bitOf_append_right n1 n2 hk
  have h5 := hbit 5 (by omega)
  have h6 := hbit 6 (by omega)
  have h7 := hbit 7 (by omega)
  have h8 := hbit 8 (by omega)
  simp only [psdLoaded, loadPsd1, hia, hfield 28 2 (by omega), hfield 16 6 (by omega), hfield 4 4 (by omega), h5, h6,
    h7, h8, bitOf_append_left n1 n2 (show 0 < 32 by omega), bitOf_append_left n1 n2 (show 1 < 32 by omega),
    bitOf_append_left n1 n2 (show 2 < 32 by omega), bitOf_append_left n1 n2 (show 3 < 32 by omega),
    bitOf_append_left n1 n2 (show 5 < 32 by omega), bitOf_append_left n1 n2 (show 6 < 32 by omega),
    bitOf_append_left n1 n2 (show 7 < 32 by omega), bitOf_append_left n1 n2 (show 8 < 32 by omega),
    bitOf_append_left n1 n2 (show 9 < 32 by omega), bitOf_append_left n1 n2 (show 10 < 32 by omega),
    bitOf_append_left n1 n2 (show 11 < 32 by omega), bitOf_append_left n1 n2 (show 12 < 32 by omega)]
  rfl

theorem exchangedPsd_eq_psdLoaded (p : Psd) (n1 n2 : Word) (lp : Bool) : exchangedPsd p n1 n2 lp =
    { psdLoaded p (n1 ++ n2) true lp with
      ci := p.ci || bit n2 5, ii := p.ii || bit n2 6, ei := p.ei || bit n2 7 } := by
  rw [psdLoaded_append]
  rfl

theorem hiWord_append_loWord (d : Dword) : hiWord d ++ loWord d = d := by
  rw [hiWord, loWord, BitVec.extractLsb'_append_extractLsb'_eq_extractLsb' (by rfl)]
  exact BitVec.extractLsb'_eq_self

theorem loadPsd_eq (d : Dword) (lp : Bool) (s : State) : loadPsd d lp s =
    { s with psd := psdLoaded s.psd d s.inst.lpsdLoadsMaEa lp, jumped := true } := by
  conv_rhs => rw [← hiWord_append_loWord d, psdLoaded_append]
  rfl

end Sys2Proof.Proofs

namespace Sys2Proof.Proofs

open Sys2Proof Sys2Proof.Machine Sys2Proof.Laws

/-! ### LPSD (48_control R522) -/

theorem exec_lpsd {s : State} {m : MR} {d : Dword} (hm : s.psd.ms = false) (hd : operandDword s m = .ok d)
    (h : bitOf m.r 0 = true → rpInvalid s (d.extractLsb' 4 4) = false) : exec (.lpsd m) s =
      .next (pswControl (bitOf m.r 2) (bitOf m.r 3) (loadPsd d (bitOf m.r 0) s)) := by
  have hlo : field (loWord d) 24 27 = d.extractLsb' 4 4 := by simp [field, loWord]
  have hvalid : (bitOf m.r 0 && rpInvalid s (field (loWord d) 24 27)) = false := by
    rw [hlo]
    cases hlp : bitOf m.r 0 with
    | false => rfl
    | true => exact h hlp
  refine (run_requireMaster hm _).trans ((run_need hd _).trans ((run_look _ _ s).trans ?_))
  exact (congrArg (fun b : Bool => run (if b then raise (exceptionTrap 0 0) else
    change (fun s => pswControl (bitOf m.r 2) (bitOf m.r 3) (loadPsd d (bitOf m.r 0) s))) s) hvalid).trans rfl

/-- A register pointer to a block that is not installed (R522, R662). -/
theorem exec_lpsd_invalid {s : State} {m : MR} {d : Dword} (hm : s.psd.ms = false) (hd : operandDword s m = .ok d)
    (hlp : bitOf m.r 0 = true) (h : rpInvalid s (d.extractLsb' 4 4) = true) : exec (.lpsd m) s =
      .next (enterTrap { loc := 0x4D#8, fault := some .instructionException } s) := by
  have hlo : field (loWord d) 24 27 = d.extractLsb' 4 4 := by simp [field, loWord]
  have hinvalid : (bitOf m.r 0 && rpInvalid s (field (loWord d) 24 27)) = true := by rw [hlp, hlo, h, Bool.and_self]
  refine (run_requireMaster hm _).trans ((run_need hd _).trans ((run_look _ _ s).trans ?_))
  exact (congrArg (fun b : Bool => run (if b then raise (exceptionTrap 0 0) else
    change (fun s => pswControl (bitOf m.r 2) (bitOf m.r 3) (loadPsd d (bitOf m.r 0) s))) s) hinvalid).trans rfl

/-- With no level active there is none to clear (R688). -/
theorem clearHighestActive_none {s : State} (h : ∀ l, (rankOf s l).isSome = true → ¬ LevelActive s l) (arm : Bool) :
    clearHighestActive arm s = s := by
  rw [clearHighestActive, (highestActive_eq_none_iff s).2 h]

/-- The highest-priority active level is armed or disarmed, a power level always armed (R63, R688). -/
theorem clearHighestActive_some {s : State} {l : Level} (hrank : (rankOf s l).isSome = true) (hl : LevelActive s l)
    (h : ∀ m, Higher s m l → ¬ LevelActive s m) (arm : Bool) : clearHighestActive arm s = { s with
      ints := updateGroup s.ints l.group (fun g =>
        if arm = true ∨ l.group = .power
        then { g with aw := g.aw ||| levelMask l.bit, wa := g.wa &&& ~~~ (levelMask l.bit) }
        else { g with aw := g.aw &&& ~~~ (levelMask l.bit), wa := g.wa &&& ~~~ (levelMask l.bit) }) } := by
  have hcond : ((arm || l.group == .power) = true) ↔ (arm = true ∨ l.group = .power) := by simp
  rw [clearHighestActive, (highestActive_eq_some_iff s l).2 ⟨hrank, hl, h⟩]
  dsimp only
  simp only [hcond]
  split <;> rfl

/-! ### XPSD as a normal instruction (R523) -/

section Xpsd

variable {s : State} {m : MR} {v : WordAddr} {l0 l1 l2 l3 : Loc}

/-- The exchange of XPSD at a pair of doublewords that are there. -/
theorem run_xpsd (hm : s.psd.ms = false) (hv : effWordAddr s m alignDword = .ok v)
    (hp : exchangePlaces s (.virtual v) = .ok (l0, l1, l2, l3)) (h2 : Sound s l2) (h3 : Sound s l3) :
    exec (.xpsd m) s = run (attempt fun _ =>
      if bitOf m.r 0 && rpInvalid s (field (wordAt s l3) 24 27) then .error (pointerTrap none, s)
      else .ok { psdStored s (advance s).psd 0 false l0 l1 with
        psd := exchangedPsd s.psd (wordAt s l2) (wordAt s l3) (bitOf m.r 0), jumped := true }) s := by
  refine (run_requireMaster hm _).trans ((run_need hv _).trans ?_)
  have heq := exchangePsd_eq hp h2 h3 (advance s).psd (bitOf m.r 0) false none 0
  rw [run, run, attempt, attempt, ← heq]
  rfl

theorem exec_xpsd_invalid (hm : s.psd.ms = false) (hv : effWordAddr s m alignDword = .ok v)
    (hp : exchangePlaces s (.virtual v) = .ok (l0, l1, l2, l3)) (h2 : Sound s l2) (h3 : Sound s l3)
    (hlp : bitOf m.r 0 = true) (h : rpInvalid s (field (wordAt s l3) 24 27) = true) : exec (.xpsd m) s =
      .next (enterTrap { loc := 0x4D#8, fault := some .instructionException } s) := by
  refine (run_xpsd hm hv hp h2 h3).trans (run_trap (attempt_error ?_))
  rw [hlp, h]
  rfl

theorem exec_xpsd (hm : s.psd.ms = false) (hv : effWordAddr s m alignDword = .ok v)
    (hp : exchangePlaces s (.virtual v) = .ok (l0, l1, l2, l3)) (h2 : Sound s l2) (h3 : Sound s l3)
    (h : bitOf m.r 0 = true → rpInvalid s (field (wordAt s l3) 24 27) = false) : exec (.xpsd m) s =
      .next { psdStored s (advance s).psd 0 false l0 l1 with
        psd := exchangedPsd s.psd (wordAt s l2) (wordAt s l3) (bitOf m.r 0), jumped := true } := by
  refine (run_xpsd hm hv hp h2 h3).trans (run_ok (attempt_ok ?_))
  cases hlp : bitOf m.r 0 with
  | false => rfl
  | true => rw [h hlp]; rfl

end Xpsd

/-- An even address in the address space has its odd word beside it. -/
theorem wordPlus_one_of_even {s : State} {v : WordAddr} (hlt : v.toNat < addressSpace s) (heven : v.toNat % 2 = 0) :
    wordPlus s v 1 = v + 1 := by
  refine BitVec.eq_of_toNat_eq ?_
  rw [wordPlus_toNat, BitVec.toNat_add]
  rw [addressSpace] at *
  simp only [BitVec.ofNat_eq_ofNat, BitVec.reduceToNat]
  split_ifs at * <;> omega

/-- Settles O55: LPSD is its load and then its control of PDF or of the highest active level; the four words of XPSD lie
at different places, so that the old program status is stored where the new one is not. -/
theorem exchangeStatus : Obligations.ExchangeStatus := by
  refine ⟨?_, ?_⟩
  · rintro s m d _ _ _ _ hm hd rfl rfl rfl rfl
    refine ⟨exec_lpsd_invalid hm hd, fun hvalid => ?_⟩
    rw [exec_lpsd hm hd hvalid, loadPsd_eq]
    refine ⟨fun hcl had => ?_, fun hcl had => ?_, fun hcl hnone => ?_, fun l hcl hrank hl hfirst => ?_⟩
    · rw [pswControl, hcl, had]
      rfl
    · rw [pswControl, hcl, had]
      rfl
    · rw [pswControl, if_pos hcl]
      refine congrArg _ (clearHighestActive_none ?_ _)
      exact hnone
    · rw [pswControl, if_pos hcl]
      refine congrArg _ (clearHighestActive_some (l := l) ?_ ?_ ?_ _)
      · exact hrank
      · exact hl
      · exact hfirst
  · rintro s m v l0 l1 l2 l3 _ _ hs hm hv h0 h1 h2 h3 hs2 hs3 rfl rfl
    rw [← wordPlus_one_of_even (effWordAddr_lt hv) (effWordAddr_even hv)] at h1
    have hplaces := exchangePlaces_virtual h0 h1 h2 h3
    refine ⟨exec_xpsd_invalid hm hv hplaces hs2 hs3, fun hvalid => ?_⟩
    obtain ⟨hw0, hw1, hkept, hframe⟩ := exchanged_leaves hs hplaces (advance s).psd
      (exchangedPsd s.psd (wordAt s l2) (wordAt s l3) (bitOf m.r 0)) 0 false rfl rfl
    exact ⟨_, _, exec_xpsd hm hv hplaces hs2 hs3 hvalid, rfl, hw0, hw1, hkept, exchangedPsd_eq_psdLoaded _ _ _ _,
      hframe⟩

end Sys2Proof.Proofs

namespace Sys2Proof.Proofs

open Sys2Proof Sys2Proof.Machine Sys2Proof.Laws

/-! ### States that an access does not tell apart -/

/-- The two states differ only in what no access consults. -/
def SameAccess (s r : State) : Prop :=
  (∀ a, memExists r a = memExists s a) ∧ r = { s with
    banks := r.banks, ints := r.ints, pdf := r.pdf, faultStatus := r.faultStatus, tcc := r.tcc, halt := r.halt
    pend := r.pend, jumped := r.jumped, completed := r.completed, stale := r.stale, free := r.free }

section SameAccess

variable {s r : State} (h : SameAccess s r)

include h

theorem SameAccess.locate (v : WordAddr) (k : Access) : locate r v k = locate s v k := by
  obtain ⟨hm, hr⟩ := h
  unfold Machine.locate locateMemory
  simp only [hm]
  rw [hr]
  rfl

theorem SameAccess.locateReal (a : WordAddr) (k : Access) : locateReal r a k = locateReal s a k := by
  obtain ⟨hm, hr⟩ := h
  unfold Machine.locateReal
  simp only [hm]
  rw [hr]
  rfl

theorem SameAccess.readLoc (l : Loc) : readLoc r l = readLoc s l := by
  obtain ⟨-, hr⟩ := h
  rw [hr]
  rfl

theorem SameAccess.readWord : readWord r = readWord s := by
  funext v
  unfold Machine.readWord
  rw [h.locate]
  simp only [h.readLoc]

theorem SameAccess.effWordAddr (m : MR) (align : Nat) : effWordAddr r m align = effWordAddr s m align := by
  unfold Machine.effWordAddr effAddr
  rw [h.readWord]
  obtain ⟨-, hr⟩ := h
  rw [hr]
  rfl

theorem SameAccess.entryWord (loc : WordAddr) : entryWord r loc = entryWord s loc := by
  unfold Machine.entryWord
  rw [h.locateReal]
  simp only [h.readLoc]

theorem SameAccess.entryRealAddr (w : Word) : entryRealAddr r w = entryRealAddr s w := by
  unfold Machine.entryRealAddr
  simp only [h.locateReal, h.readLoc]
  obtain ⟨-, hr⟩ := h
  rw [hr]
  rfl

theorem SameAccess.entryAddress (w : Word) : entryAddress r w = entryAddress s w := by
  unfold Machine.entryAddress
  rw [h.effWordAddr, h.entryRealAddr]

theorem SameAccess.add (n : WordAddr) (a : Via) : a.add r n = a.add s n := by
  obtain ⟨-, hr⟩ := h
  rw [hr]
  rfl

theorem SameAccess.locateVia (k : Access) (a : Via) : locateVia r k a = locateVia s k a := by
  cases a with
  | virtual v => exact h.locate v k
  | real a => exact h.locateReal a k

theorem SameAccess.exchangePlaces (a : Via) : exchangePlaces r a = exchangePlaces s a := by
  unfold Machine.exchangePlaces
  simp only [h.locateVia, h.add]

theorem SameAccess.keptBut {u : State} {p : Loc → Prop} {q : BitVec 4 → Prop} (hk : KeptBut r u p q) :
    KeptBut s u p q := by
  obtain ⟨-, hr⟩ := h
  rw [hr] at hk
  exact hk

end SameAccess

/-! ### The XPSD of a trap or interrupt location (20_memory R116; 48_control R523) -/

section Entry

variable {s : State} {w : Word} {l0 l1 l2 l3 : Loc}

theorem locateReal_of_realPlace {a : WordAddr} {l : Loc} {store : Bool} {k : Access} (h : RealPlace s a store l)
    (hk : store = false → k ≠ .write) : locateReal s a k = .ok l := by
  obtain ⟨hex, rfl, hopen⟩ := h
  have hviolation : (k == .write && !keyOpens s.psd.wk (lockOf s a)) = false := by
    cases store with
    | false => simp [hk rfl]
    | true => simp [hopen rfl]
  rw [locateReal, hviolation, hex]
  rfl

/-- The three forms of an indirect word (R112). -/
theorem extendedIndirect_eq (s : State) (d : Word) : extendedIndirect s d =
    (if bit d 0 = false then field d 10 31 else if bit d 15 = false then (field d 16 31).zeroExtend 22
      else s.psd.ea ++ field d 16 31) := by
  have hzero : (0#6 ++ field d 16 31 : WordAddr) = (field d 16 31).zeroExtend 22 :=
    BitVec.eq_of_toNat_eq (by rw [zero_append_toNat, BitVec.toNat_setWidth_of_le (by omega)])
  rw [extendedIndirect, hzero]
  cases bit d 0 <;> cases bit d 15 <;> rfl

theorem entryRealAddr_of_entryReal {e : WordAddr} (h : EntryReal s w e) : entryRealAddr s w = .ok e := by
  obtain ⟨hdirect, hindirect⟩ := h
  rw [entryRealAddr]
  cases hb : bit w 0 with
  | false => rw [hdirect hb]; rfl
  | true =>
    obtain ⟨l, d, hplace, hsound, rfl, rfl⟩ := hindirect hb
    rw [← extendedIndirect_eq]
    have hread : readLoc s l = .ok (wordAt s l) := readLocNoting_sound hsound swReadParity
    simp only [if_true, locateReal_of_realPlace hplace (k := .read) (by simp), hread]

/-- The address that the XPSD names has the four places of the exchange. -/
theorem entryPlaces_exchange (h : EntryPlaces s w l0 l1 l2 l3) :
    ∃ a, entryAddress s w = .ok a ∧ exchangePlaces s a = .ok (l0, l1, l2, l3) := by
  obtain ⟨hreal, hvirtual⟩ := h
  rw [entryAddress]
  cases hb : bit w 10 with
  | false =>
    obtain ⟨r, e, hr, rfl, h0, h1, h2, h3⟩ := hreal hb
    refine ⟨.real (r &&& 0x3FFFFE#22), ?_, ?_⟩
    · rw [entryRealAddr_of_entryReal hr]
      rfl
    · exact exchangePlaces_real (locateReal_of_realPlace h0 (by simp)) (locateReal_of_realPlace h1 (by simp))
        (locateReal_of_realPlace h2 (by simp)) (locateReal_of_realPlace h3 (by simp))
  | true =>
    obtain ⟨v, hv, h0, h1, h2, h3⟩ := hvirtual hb
    refine ⟨.virtual v, ?_, exchangePlaces_virtual h0 h1 h2 h3⟩
    rw [hv]
    rfl

/-- The state after the XPSD of an entry sequence run in the state `r`. -/
def entryExchanged (r : State) (w n1 n2 : Word) (l0 l1 : Loc) (tsf : BitVec 8) (ra : Bool) : State :=
  { psdStored r r.psd tsf ra l0 l1 with psd := exchangedPsd r.psd n1 n2 (bit w 8), jumped := true }

/-- The XPSD of an entry sequence run in a state that has the places of `s`. -/
theorem entryXpsd_eq {r : State} (hr : SameAccess s r) (h : EntryPlaces s w l0 l1 l2 l3) (h2 : Sound s l2)
    (h3 : Sound s l3) (hlp : bit w 8 = true → rpInvalid s (field (wordAt s l3) 24 27) = false) (loc : WordAddr)
    (tsf : BitVec 8) (ra : Bool) :
    entryXpsd r loc w tsf ra = .ok (entryExchanged r w (wordAt s l2) (wordAt s l3) l0 l1 tsf ra) := by
  obtain ⟨a, haddr, hplaces⟩ := entryPlaces_exchange h
  have hsound : ∀ l, Sound s l → Sound r l := by
    rw [hr.2]
    exact fun _ hl => hl
  have hword : ∀ l, wordAt r l = wordAt s l := by
    rw [hr.2]
    exact fun l => rfl
  have hinvalid : (bit w 8 && rpInvalid r (field (wordAt s l3) 24 27)) = false := by
    have hrp : rpInvalid r = rpInvalid s := by rw [hr.2]; rfl
    rw [hrp]
    cases hb : bit w 8 with
    | false => rfl
    | true => exact hlp hb
  have hexchange := exchangePsd_eq ((hr.exchangePlaces a).trans hplaces) (hsound l2 h2) (hsound l3 h3) r.psd (bit w 8)
    ra (some (loc.extractLsb' 0 8)) tsf
  rw [hword, hword, hinvalid] at hexchange
  rw [entryXpsd, hr.entryAddress, haddr]
  dsimp only
  rw [hexchange]
  rfl

/-- What that XPSD leaves: the old PSD stored, and beside memory, registers and the PSD nothing else changed. -/
theorem entryExchanged_leaves {r : State} (hs : MemCanonical s) (hr : SameAccess s r)
    (h : EntryPlaces s w l0 l1 l2 l3) (n1 n2 : Word) (tsf : BitVec 8) (ra : Bool) :
    PsdStored s (entryExchanged r w n1 n2 l0 l1 tsf ra) l0 l1 tsf ra ∧
      entryExchanged r w n1 n2 l0 l1 tsf ra = { r with
        regs := (entryExchanged r w n1 n2 l0 l1 tsf ra).regs, mem := (entryExchanged r w n1 n2 l0 l1 tsf ra).mem
        badParity := (entryExchanged r w n1 n2 l0 l1 tsf ra).badParity
        watch := (entryExchanged r w n1 n2 l0 l1 tsf ra).watch, psd := exchangedPsd s.psd n1 n2 (bit w 8)
        jumped := true } := by
  obtain ⟨a, -, hplaces⟩ := entryPlaces_exchange h
  have hpsd : r.psd = s.psd := by rw [hr.2]
  have hmem : MemCanonical r := by rw [hr.2]; exact hs
  obtain ⟨hw0, hw1, hkept, hframe⟩ := exchanged_leaves hmem ((hr.exchangePlaces a).trans hplaces) r.psd
    (exchangedPsd r.psd n1 n2 (bit w 8)) tsf ra (t := entryExchanged r w n1 n2 l0 l1 tsf ra) rfl rfl
  rw [hpsd] at hw0 hw1 hkept hframe
  exact ⟨⟨_, rfl, hw0, hw1, hr.keptBut hkept⟩, hframe⟩

end Entry

end Sys2Proof.Proofs

namespace Sys2Proof.Proofs

open Sys2Proof Sys2Proof.Machine Sys2Proof.Laws

/-! ### The instruction in a trap or interrupt location (60_exceptions R640, R678) -/

theorem entryWord_eq {s : State} {loc a : WordAddr} (ha : a = homespaceBias s loc) (hex : memExists s a = true)
    (hp : parityBad s a = false) : entryWord s loc = .ok (readWordAt s.mem a) := by
  subst ha
  have hl : locateReal s loc .read = .ok (.mem (homespaceBias s loc)) :=
    locateReal_of_realPlace (store := false) ⟨hex, rfl, fun h => absurd h Bool.false_ne_true⟩ (by simp)
  have hread : readLoc s (.mem (homespaceBias s loc)) = .ok (readWordAt s.mem (homespaceBias s loc)) :=
    readLocNoting_sound (l := .mem (homespaceBias s loc)) hp swReadParity
  rw [entryWord, hl]
  dsimp only
  rw [hread]

/-! ### The state in which the entry sequence of a trap runs (R640, R664) -/

/-- The trap noted: TCC loaded, the bank's and the processor's fault status set. -/
def trapNoted (t : Trap) (s : State) : State :=
  { noteBankFault t.bankFault s with
    tcc := t.tcc, jumped := true, completed := false, stale := none, pend := .none
    pdf := s.pdf || t.fault.isSome, faultStatus := s.faultStatus ||| (t.fault.map CpuFault.statusBit).getD 0 }

/-- A fault noted leaves a bank where it is. -/
theorem noteFault_holds (bits : Word) (a : WordAddr) (parity : Bool) (b : Bank) :
    (Bank.noteFault bits a parity b).holds = b.holds := by
  unfold Bank.noteFault
  split <;> rfl

theorem any_updateBanks {f : Bank → Bank} {p : Bank → Bool} (h : ∀ b, p (f b) = p b) (a : WordAddr)
    (banks : List Bank) : (updateBanks f a banks).any p = banks.any p := by
  induction banks with
  | nil => rfl
  | cons b rest ih =>
    rw [updateBanks]
    split
    · rw [List.any_cons, List.any_cons, h]
    · rw [List.any_cons, List.any_cons, ih]

theorem memExists_noteBankFault (f : Option (Word × WordAddr)) (s : State) (a : WordAddr) :
    memExists (noteBankFault f s) a = memExists s a := by
  cases f with
  | none => rfl
  | some f => exact any_updateBanks (fun b => by rw [noteFault_holds]) _ _

theorem noteBankFault_frame (f : Option (Word × WordAddr)) (s : State) : noteBankFault f s =
    { s with banks := (noteBankFault f s).banks, free := (noteBankFault f s).free } := by
  cases f <;> rfl

theorem sameAccess_trapNoted (t : Trap) (s : State) : SameAccess s (trapNoted t s) := by
  refine ⟨memExists_noteBankFault t.bankFault s, ?_⟩
  rw [trapNoted, noteBankFault_frame]

theorem trapNoted_faultStatus_none {t : Trap} (h : t.fault = none) (s : State) :
    (trapNoted t s).faultStatus = s.faultStatus := by
  rw [trapNoted, h]
  exact BitVec.or_zero

/-- The fault status bit of each fault (49_input_output R600). -/
theorem trapNoted_faultStatus {t : Trap} {p : CpuFault × Nat} (hp : p ∈ [(CpuFault.instructionException, 5),
    (.dataBus, 4), (.memoryParity, 3), (.watchdog, 2), (.mapParity, 1)]) (h : t.fault = some p.1) (s : State) :
    (trapNoted t s).faultStatus = s.faultStatus ||| 1#6 <<< p.2 := by
  rw [trapNoted, h]
  refine congrArg (s.faultStatus ||| ·) ?_
  simp only [List.mem_cons, List.not_mem_nil, or_false] at hp
  rcases hp with rfl | rfl | rfl | rfl | rfl <;> rfl

theorem trapNoted_frame (t : Trap) (s : State) : trapNoted t s = { s with
    banks := (noteBankFault t.bankFault s).banks, tcc := t.tcc, jumped := true, completed := false, stale := none
    pend := .none, pdf := s.pdf || t.fault.isSome, faultStatus := (trapNoted t s).faultStatus
    free := (noteBankFault t.bankFault s).free } := by
  rw [trapNoted, noteBankFault_frame]

/-- A trap that neither hangs the CPU nor stops it goes on to its entry sequence. -/
theorem enterTrap_eq_sequence {t : Trap} {s : State} (hpdf : t.fault.isSome = true → s.pdf = false)
    (hstop : (s.inst.memoryFaultHalt && t.stopsClock) = false) :
    enterTrap t s = trapSequence t (trapNoted t s) := by
  have hnote : noteBankFault t.bankFault { s with
      tcc := t.tcc, jumped := true, completed := false, stale := none, pend := .none } =
      { noteBankFault t.bankFault s with
        tcc := t.tcc, jumped := true, completed := false, stale := none, pend := .none } := by
    cases t.bankFault <;> rfl
  have hkept : (noteBankFault t.bankFault s).pdf = s.pdf ∧
      (noteBankFault t.bankFault s).faultStatus = s.faultStatus := by
    rw [noteBankFault_frame]
    exact ⟨rfl, rfl⟩
  rw [enterTrap, hstop, hnote, trapNoted]
  cases hf : t.fault with
  | none =>
    dsimp only [Option.isSome, Option.map, Option.getD]
    rw [Bool.or_false, show s.faultStatus ||| (0 : BitVec 6) = s.faultStatus from BitVec.or_zero, ← hkept.1, ← hkept.2]
    rfl
  | some f =>
    have hclear := hpdf (by rw [hf]; rfl)
    dsimp only [Option.isSome, Option.map, Option.getD]
    rw [Bool.or_true, hkept.1, hkept.2, hclear]
    rfl

/-! ### The additional operations of a trap XPSD (48_control R524) -/

theorem loadsTcc_iff (loc : BitVec 8) : loadsTcc loc = true ↔
    loc ∈ [0x40#8, 0x46#8, 0x48#8, 0x49#8, 0x4A#8, 0x4B#8, 0x4C#8, 0x4D#8] := by
  simp [loadsTcc, or_assoc]

theorem ofBool_append_bits : ∀ v : BitVec 4, BitVec.ofBool (v.getLsbD 3) ++ BitVec.ofBool (v.getLsbD 2) ++
    BitVec.ofBool (v.getLsbD 1) ++ BitVec.ofBool (v.getLsbD 0) = v := by decide

section TrapModify

variable (old x : State) (t : Trap) (w : Word)

theorem trapModify_frame_free : trapModify old t w x =
    { x with psd := (trapModify old t w x).psd, free := (trapModify old t w x).free } := by
  obtain ⟨p, n, h⟩ := trapModify_cases old t w x
  rw [h]

/-- They change only the condition code and the instruction address. -/
theorem trapModify_psd : (trapModify old t w x).psd = { x.psd with
    cc1 := (trapModify old t w x).psd.cc1, cc2 := (trapModify old t w x).psd.cc2
    cc3 := (trapModify old t w x).psd.cc3, cc4 := (trapModify old t w x).psd.cc4
    ia := (trapModify old t w x).psd.ia } := by
  unfold trapModify
  repeat' split
  all_goals rfl

theorem ccOf_trapModify : ccOf (trapModify old t w x) = if loadsTcc t.loc then ccOf x ||| t.tcc else ccOf x := by
  have hcc : ∀ v, ccOf (setCC v x) = v := fun v => ofBool_append_bits v
  unfold trapModify
  split
  · dsimp only
    split <;> exact hcc _
  · split <;> rfl

theorem ia_trapModify : bit w 9 = false ∨ loadsTcc t.loc = true → (trapModify old t w x).psd.ia =
    if bit w 9 = false then x.psd.ia
    else if realExtended old = true ∧ bit w 10 = true
      then x.psd.ia.extractLsb' 16 1 ++ (x.psd.ia.extractLsb' 0 16 + t.tcc.zeroExtend 16)
      else x.psd.ia + t.tcc.zeroExtend 17 := by
  intro h
  unfold trapModify
  cases hb : bit w 9 with
  | false =>
    rw [if_pos rfl]
    split <;> rfl
  | true =>
    rw [if_pos (h.resolve_left (by simp [hb]))]
    dsimp only
    rw [if_pos rfl]
    cases realExtended old <;> cases bit w 10 <;> rfl

end TrapModify

/-! ### The program status that an exchange loads -/

theorem ccOf_exchanged (n1 n2 : Word) (p : Psd) (lp : Bool) {x : State} (h : x.psd = exchangedPsd p n1 n2 lp) :
    ccOf x = field n1 0 3 := by
  have hbit : ∀ k, k < 4 → bit n1 k = (field n1 0 3).getLsbD (3 - k) := by
    intro k hk
    rw [field, BitVec.getLsbD_extractLsb', decide_eq_true (by omega), Bool.true_and, bit]
    congr 1
    omega
  rw [← ofBool_append_bits (field n1 0 3), ccOf, h]
  simp only [exchangedPsd, loadPsd1, hbit 0 (by omega), hbit 1 (by omega), hbit 2 (by omega), hbit 3 (by omega)]

theorem ia_fields (n1 : Word) : (field n1 15 31).extractLsb' 16 1 = field n1 15 15 ∧
    (field n1 15 31).extractLsb' 0 16 = field n1 16 31 := by
  constructor <;> simp [field]

/-- The entry sequence of a trap with an XPSD in its location (60_exceptions R640). -/
theorem trapSequence_xpsd {t : Trap} {s x : State} {w : Word} (hw : entryWord s (t.loc.zeroExtend 22) = .ok w)
    (hop : opOf w = 0x0F#7) (hx : entryXpsd s (t.loc.zeroExtend 22) w t.tsf t.ra = .ok x) :
    trapSequence t s = trapModify s t w x := by
  rw [trapSequence, hw]
  dsimp only
  rw [if_pos hop, hx]

/-- Settles O12: the trap is noted in a state that an access does not tell from the old one; its XPSD is an exchange,
and the additional operations change the condition code and the instruction address alone. -/
theorem trapEntry : Obligations.TrapEntry := by
  rintro s u t w _ _ at_ l0 l1 l2 l3 hs hpdf hstop rfl hat hex hparity hw hop hplaces h2 h3 rfl rfl hlp
  have hgo : (s.inst.memoryFaultHalt && t.stopsClock) = false := by
    rcases hstop with hoff | ⟨hbank, hmem, hbus⟩
    · rw [hoff, Bool.false_and]
    · simp [Trap.stopsClock, hbank, hmem, hbus]
  have hnoted := sameAccess_trapNoted t s
  have hword : entryWord (trapNoted t s) (t.loc.zeroExtend 22) = .ok w := by
    rw [hnoted.entryWord, entryWord_eq hat hex hparity, hw]
  obtain ⟨hstored, hframe⟩ := entryExchanged_leaves hs hnoted hplaces (wordAt s l2) (wordAt s l3) t.tsf t.ra
  have hu := (enterTrap_eq_sequence hpdf hgo).trans (trapSequence_xpsd hword hop
    (entryXpsd_eq hnoted hplaces h2 h3 hlp (t.loc.zeroExtend 22) t.tsf t.ra))
  generalize entryExchanged (trapNoted t s) w (wordAt s l2) (wordAt s l3) l0 l1 t.tsf t.ra = x at *
  have hxpsd : x.psd = exchangedPsd s.psd (wordAt s l2) (wordAt s l3) (bit w 8) := by rw [hframe]
  have hfree := trapModify_frame_free (trapNoted t s) x t w
  have hpsd := trapModify_psd (trapNoted t s) x t w
  have hcc := ccOf_trapModify (trapNoted t s) x t w
  have hia := ia_trapModify (trapNoted t s) x t w
  rw [← hu] at hfree hpsd hcc hia
  generalize enterTrap t s = u at *
  have hreal : realExtended (trapNoted t s) = realExtended s := by
    rw [hnoted.2]
    rfl
  obtain ⟨r, rfl, hw0, hw1, hkept⟩ := hstored
  refine ⟨?_, fun hin => ?_, fun hout => ?_, ?_⟩
  · rw [hfree]
    exact ⟨_, rfl, hw0, hw1, hkept⟩
  · have hin := (loadsTcc_iff t.loc).2 hin
    rw [hcc, if_pos hin, ccOf_exchanged _ _ _ _ hxpsd, hia (.inr hin), hxpsd, hreal]
    obtain ⟨hhigh, hlow⟩ := ia_fields (wordAt s l2)
    refine ⟨rfl, ?_⟩
    rw [← hhigh, ← hlow]
    rfl
  · have hout : loadsTcc t.loc = false := Bool.eq_false_iff.2 fun hin => hout ((loadsTcc_iff t.loc).1 hin)
    rw [hcc, hout, ccOf_exchanged _ _ _ _ hxpsd]
    refine ⟨rfl, fun hb => ?_⟩
    rw [hia (.inl hb), if_pos hb, hxpsd]
    rfl
  · rw [hxpsd] at hpsd
    refine ⟨congrArg Psd.fs hpsd, congrArg Psd.fz hpsd, congrArg Psd.fn hpsd, congrArg Psd.ms hpsd,
      congrArg Psd.mm hpsd, congrArg Psd.dm hpsd, congrArg Psd.am hpsd, congrArg Psd.ansi hpsd, congrArg Psd.wk hpsd,
      congrArg Psd.ci hpsd, congrArg Psd.ii hpsd, congrArg Psd.ei hpsd, congrArg Psd.ma hpsd, congrArg Psd.ea hpsd,
      congrArg Psd.rp hpsd, ?_⟩
    have hframe := hfree.trans (congrArg (fun y : State => { y with psd := u.psd, free := u.free }) hframe)
    rw [trapNoted_frame] at hframe
    have hbanks : u.banks = (noteBankFault t.bankFault s).banks := by rw [hframe]
    have hstatus : u.faultStatus = (trapNoted t s).faultStatus := by rw [hframe]
    have hu_pdf : u.pdf = (s.pdf || t.fault.isSome) := by rw [hframe]
    refine ⟨hu_pdf, fun hf => hstatus.trans (trapNoted_faultStatus_none hf s),
      fun p hp hf => hstatus.trans (trapNoted_faultStatus hp hf s), fun hb => ?_, fun bits a hb => ?_, ?_⟩
    · rw [hbanks, hb]
      rfl
    · rw [hbanks, hb]
    · have hdata : u.regs = x.regs ∧ u.mem = x.mem ∧ u.badParity = x.badParity ∧ u.watch = x.watch := by
        rw [hframe]
        exact ⟨rfl, rfl, rfl, rfl⟩
      obtain ⟨hregs, hmem, hparity, hwatch⟩ := hdata
      rw [hbanks, hstatus, hu_pdf, hregs, hmem, hparity, hwatch]
      exact hframe

end Sys2Proof.Proofs

namespace Sys2Proof.Proofs

open Sys2Proof Sys2Proof.Machine Sys2Proof.Laws

/-! ### The flip-flops of one level (10_state R62; 60_exceptions R672-R675) -/

/-- The armed-or-waiting flip-flop of a level. -/
def awOf (i : Interrupts) (m : Level) : Bool := flipFlop (groupOf i m.group).aw m

/-- The waiting-or-active flip-flop of a level. -/
def waOf (i : Interrupts) (m : Level) : Bool := flipFlop (groupOf i m.group).wa m

theorem levelMask_getLsbD : ∀ j k : Fin 16, (levelMask k).getLsbD (15 - j.val) = decide (j = k) := by decide

section Levels

variable (i : Interrupts) (l m : Level)

/-- A change of one group, seen at one level. -/
theorem groupOf_updateGroup (f : IntGroup → IntGroup) (g : LevelGroup) : groupOf (updateGroup i l.group f) g =
    if g = l.group then f (groupOf i g) else groupOf i g := by
  split
  next h =>
    rw [h]
    exact groupOf_updateGroup_same i l.group f
  next h => exact groupOf_updateGroup_ne h i f

theorem en_updateGroup {f : IntGroup → IntGroup} (h : ∀ g, (f g).en = g.en) (g : LevelGroup) :
    (groupOf (updateGroup i l.group f) g).en = (groupOf i g).en := by
  rw [groupOf_updateGroup]
  split
  · exact h _
  · rfl

/-- The mask of a level selects that level alone. -/
theorem flipFlop_levelMask (h : m.group = l.group) : flipFlop (levelMask l.bit) m = decide (m = l) := by
  rw [flipFlop, levelMask_getLsbD]
  cases m
  cases l
  simp_all

theorem flipFlop_not_levelMask (h : m.group = l.group) : flipFlop (~~~ (levelMask l.bit)) m = !decide (m = l) := by
  have hlt : 15 - m.bit.val < 16 := by omega
  rw [← flipFlop_levelMask l m h]
  simp [flipFlop, hlt]

theorem level_ne_of_group_ne {l m : Level} (h : m.group ≠ l.group) : m ≠ l := fun e => h (congrArg Level.group e)

/-- A signal leaves the armed-or-waiting flip-flops as they are. -/
theorem aw_signal (g : LevelGroup) :
    (groupOf (updateGroup i l.group (IntGroup.signal (levelMask l.bit))) g).aw = (groupOf i g).aw := by
  rw [groupOf_updateGroup]
  split <;> rfl

theorem waOf_signal : waOf (updateGroup i l.group (IntGroup.signal (levelMask l.bit))) m =
    (waOf i m || (decide (m = l) && awOf i m)) := by
  rw [waOf, groupOf_updateGroup]
  split
  next h =>
    rw [← flipFlop_levelMask l m h]
    simp [waOf, awOf, flipFlop, IntGroup.signal]
  next h => simp [waOf, level_ne_of_group_ne h]

theorem awOf_acknowledge : awOf (updateGroup i l.group (IntGroup.acknowledge (levelMask l.bit))) m =
    (awOf i m && !decide (m = l)) := by
  rw [awOf, groupOf_updateGroup]
  split
  next h =>
    rw [← flipFlop_not_levelMask l m h]
    simp [awOf, flipFlop, IntGroup.acknowledge]
  next h => simp [awOf, level_ne_of_group_ne h]

theorem waOf_acknowledge : waOf (updateGroup i l.group (IntGroup.acknowledge (levelMask l.bit))) m =
    (waOf i m || decide (m = l)) := by
  rw [waOf, groupOf_updateGroup]
  split
  next h =>
    rw [← flipFlop_levelMask l m h]
    simp [waOf, flipFlop, IntGroup.acknowledge]
  next h => simp [waOf, level_ne_of_group_ne h]

theorem awOf_arm : awOf (updateGroup i l.group (IntGroup.arm (levelMask l.bit))) m =
    (awOf i m || decide (m = l)) := by
  rw [awOf, groupOf_updateGroup]
  split
  next h =>
    rw [← flipFlop_levelMask l m h]
    simp [awOf, flipFlop, IntGroup.arm]
  next h => simp [awOf, level_ne_of_group_ne h]

theorem waOf_arm : waOf (updateGroup i l.group (IntGroup.arm (levelMask l.bit))) m =
    (waOf i m && !decide (m = l)) := by
  rw [waOf, groupOf_updateGroup]
  split
  next h =>
    rw [← flipFlop_not_levelMask l m h]
    simp [waOf, flipFlop, IntGroup.arm]
  next h => simp [waOf, level_ne_of_group_ne h]

end Levels

/-! ### The external signals (R681-R686) -/

theorem levelSignalled_signalLevel (l : Level) (s : State) : LevelSignalled s (signalLevel l s) l := by
  refine ⟨rfl, fun m => ⟨aw_signal s.ints l m.group, ?_, waOf_signal s.ints l m⟩⟩
  exact en_updateGroup s.ints l (f := IntGroup.signal _) (fun _ => rfl) m.group

/-- With no event to come, the inputs of a boundary are the two level lines (R682, R683). -/
theorem takeInputs_nil {s : State} (h : s.inputs = []) : takeInputs s = levelLines s := by
  rw [takeInputs, h]

theorem levelLines_signals (s : State) :
    ∃ s1, (if s.ioLine then LevelSignalled s s1 ⟨.internal, 10⟩ else s1 = s) ∧
      if s.banks.any (·.mfi) then LevelSignalled s1 (levelLines s) ⟨.internal, 5⟩ else levelLines s = s1 := by
  have hbanks : (if s.ioLine then signalLevel levelIo s else s).banks = s.banks := by split <;> rfl
  refine ⟨if s.ioLine then signalLevel levelIo s else s, ?_, ?_⟩
  · split
    · exact levelSignalled_signalLevel levelIo s
    · rfl
  · rw [levelLines]
    simp only [hbanks]
    split
    · exact levelSignalled_signalLevel levelMemoryFault _
    · rfl

theorem loc_toNat (l : Level) : l.loc.toNat = match l.group with
    | .power => 0x50 + l.bit.val
    | .internal => 0x52 + l.bit.val
    | .external g => 0x60 + 16 * g.val + l.bit.val := by
  obtain ⟨g, k⟩ := l
  have hk := k.isLt
  cases g with
  | power => exact Nat.mod_eq_of_lt (show 0x50 + k.val < 2 ^ 22 by omega)
  | internal => exact Nat.mod_eq_of_lt (show 0x52 + k.val < 2 ^ 22 by omega)
  | external e => exact Nat.mod_eq_of_lt (show 0x60 + 16 * e.val + k.val < 2 ^ 22 by omega)

/-! ### The interrupt at the boundary (R678, R687, R689) -/

theorem step_interrupt {s : State} {l : Level} (hp : s.pend = .none) (hin : takeInputs s = s)
    (hb : boundary s = .interrupt l) : step s = withReferenceStop (fun r => .next (enterInterrupt l r)) s := by
  simp only [step, hp, hin, hb]

theorem boundary_interrupt {s : State} {l : Level} (hc : s.compute = .run) (hn : nextInterrupt s = some l)
    (h : s.halt = .waiting ∨ (s.halt = .none ∧ anticipatedTrap s = none)) : boundary s = .interrupt l := by
  rcases h with hh | ⟨hh, ha⟩
  · simp [boundary, hc, hh, hn]
  · simp [boundary, hc, hh, hn, ha]

end Sys2Proof.Proofs

namespace Sys2Proof.Proofs

open Sys2Proof Sys2Proof.Machine Sys2Proof.Laws

/-! ### The counters' operands (60_exceptions R679, R680) -/

/-- Words of the same bytes are the same. -/
theorem eq_of_byteOf {v w : Word} (h : ∀ j, byteOf v j = byteOf w j) : v = w := by
  refine BitVec.eq_of_getLsbD_eq fun i hi => ?_
  have hj : (BitVec.ofNat 2 (3 - i / 8)).toNat = 3 - i / 8 := Nat.mod_eq_of_lt (by omega)
  have hbit := congrArg (BitVec.getLsbD · (i % 8)) (h (BitVec.ofNat 2 (3 - i / 8)))
  have hlt : i % 8 < 8 := Nat.mod_lt _ (by omega)
  have hpos : 8 * (3 - (3 - i / 8)) + i % 8 = i := by omega
  simpa [byteOf, hj, hlt, hpos] using hbit

/-- Words of the same halfwords are the same. -/
theorem eq_of_halfOf {v w : Word} (h : ∀ j, halfOf v j = halfOf w j) : v = w := by
  refine BitVec.eq_of_getLsbD_eq fun i hi => ?_
  have hj : (BitVec.ofNat 1 (1 - i / 16)).toNat = 1 - i / 16 := Nat.mod_eq_of_lt (by omega)
  have hbit := congrArg (BitVec.getLsbD · (i % 16)) (h (BitVec.ofNat 1 (1 - i / 16)))
  have hlt : i % 16 < 16 := Nat.mod_lt _ (by omega)
  have hpos : 16 * (1 - (1 - i / 16)) + i % 16 = i := by omega
  simpa [halfOf, hj, hlt, hpos] using hbit

theorem add_signExtend_field {w : Nat} (h : 4 ≤ w) (v : BitVec w) (r : BitVec 4) :
    v + r.signExtend w = BitVec.ofInt w (v.toInt + r.toInt) := by
  rw [BitVec.ofInt_add, BitVec.ofInt_toInt, ← BitVec.toInt_signExtend_of_le h, BitVec.ofInt_toInt]

/-- The modified word is the one that `Counted` describes. -/
theorem counterResult_of_counted {op : BitVec 7} {k : BitVec 2} {r : BitVec 4} {v v' : Word} {zero : Bool}
    (h : Counted op k r v v' zero) : counterResult op k r v = (v', zero) := by
  rcases h with ⟨rfl, hbyte, hrest, hz⟩ | ⟨rfl, g, hg, hhalf, hrest, hz⟩ | ⟨rfl, hv, hz⟩
  · have hnew : byteOf v k + r.signExtend 8 = byteOf v' k := (byte_add_field _ _).trans hbyte.symm
    have hword : withByte v k (byteOf v' k) = v' := by
      refine eq_of_byteOf fun j => ?_
      by_cases hj : j = k
      · rw [hj, byteOf_withByte_same]
      · rw [byteOf_withByte_ne hj, hrest j hj]
    rw [counterResult, if_pos rfl]
    dsimp only
    rw [hnew, hword, hz]
    rfl
  · have hnew : halfOf v g + r.signExtend 16 = halfOf v' g := (add_signExtend_field (by omega) _ _).trans hhalf.symm
    have hword : withHalf v g (halfOf v' g) = v' := by
      refine eq_of_halfOf fun j => ?_
      by_cases hj : j = g
      · rw [hj, halfOf_withHalf_same]
      · rw [halfOf_withHalf_ne hj, hrest j hj]
    rw [counterResult, if_neg (by decide), if_pos rfl, ← hg]
    dsimp only
    rw [hnew, hword, hz]
    rfl
  · have hnew : v + r.signExtend 32 = v' := (add_signExtend_field (by omega) _ _).trans hv.symm
    rw [counterResult, if_neg (by decide), if_neg (by decide), hnew, hz]
    rfl

/-- With an R field of zero the operand stays as it is. -/
theorem counterResult_zero (op : BitVec 7) (k : BitVec 2) (v : Word) : (counterResult op k 0#4 v).1 = v := by
  unfold counterResult
  split
  · refine eq_of_byteOf fun j => ?_
    by_cases hj : j = k
    · rw [hj, byteOf_withByte_same]
      exact BitVec.add_zero _
    · rw [byteOf_withByte_ne hj]
  · split
    · refine eq_of_halfOf fun j => ?_
      by_cases hj : j = k.extractLsb' 1 1
      · rw [hj, halfOf_withHalf_same]
        exact BitVec.add_zero _
      · rw [halfOf_withHalf_ne hj]
    · exact BitVec.add_zero _

section Counter

variable {s : State} {l : Level} {w : Word} {p : Loc} {k : BitVec 2}

theorem counterOperand_eq (h : CounterOperand s l w p k) :
    counterOperand s l.loc w (counterAlign (opOf w)) = .ok (p, k) := by
  obtain ⟨hdirect, -, hreal, hvirtual⟩ := h
  rw [counterOperand]
  split
  next hloc =>
    obtain ⟨b, hb, rfl, hreg, hmem⟩ := hvirtual hloc
    rw [effAddr_direct hdirect] at hb
    have hindex : indexed s (refOf w) (counterAlign (opOf w)) (directRef s (refOf w)) = b := by
      injection hb
    have hplace : locateUnprotected s (wordOf b) = .ok p := by
      rw [locateUnprotected]
      split
      next hlt => rw [hreg hlt]
      next hge =>
        obtain ⟨a, rfl, hex, rfl⟩ := hmem (by omega)
        rw [if_pos hex]
    have href : refAddrWith (readUnprotected s) s (refOf w) = .ok (directRef s (refOf w)) := by
      have hind : (refOf w).ind = false := hdirect
      simp [refAddrWith, hind]
    rw [href]
    dsimp only
    rw [hindex, hplace]
  next hloc =>
    obtain ⟨rfl, a, rfl, hex, rfl⟩ := hreal hloc
    have haddr : entryRealAddr s w = .ok ((field w 12 31).zeroExtend 22) := by
      rw [entryRealAddr, hdirect]
      rfl
    rw [haddr]
    dsimp only
    rw [locateRealUnprotected, if_pos hex]
    rfl

/-- What a single-instruction interrupt leaves in memory and registers. -/
def counterStored (s : State) (p : Loc) (r : BitVec 4) (v : Word) : State := if r = 0#4 then s else writeLoc p v s

/-- The level armed and the counter-equals-zero level signalled. -/
def counterInts (l : Level) (zero : Bool) (i : Interrupts) : Interrupts :=
  let armed := updateGroup i l.group (IntGroup.arm (levelMask l.bit))
  match counterZeroLevel l with
  | some z => if zero then updateGroup armed z.group (IntGroup.signal (levelMask z.bit)) else armed
  | none => armed

theorem singleInstruction_eq (h : CounterOperand s l w p k) {v' : Word} {zero : Bool}
    (hc : Counted (opOf w) k (field w 8 11) (wordAt s p) v' zero) : singleInstruction l w s =
      .ok { counterStored s p (field w 8 11) v' with ints := counterInts l zero s.ints } := by
  have hread : readLoc s p = .ok (wordAt s p) := readLocNoting_sound h.2.1 swReadParity
  have hints : (if field w 8 11 = 0#4 then s else writeLoc p v' s).ints = s.ints := by
    split
    · rfl
    · exact writeLoc_ints p v' s
  rw [singleInstruction, counterOperand_eq h]
  dsimp only
  rw [hread]
  dsimp only
  rw [counterResult_of_counted hc]
  dsimp only
  rw [hints, counterInts, counterStored]
  cases counterZeroLevel l with
  | none => rfl
  | some z => cases zero <;> rfl

/-- The word and the frame of what it leaves. -/
theorem counterStored_leaves (hs : MemCanonical s) {v' : Word} {zero : Bool}
    (hc : Counted (opOf w) k (field w 8 11) (wordAt s p) v' zero) :
    wordAt (counterStored s p (field w 8 11) v') p = v' ∧
      KeptBut s (counterStored s p (field w 8 11) v') (· = p) (fun _ => False) ∧
      (field w 8 11 = 0#4 → counterStored s p (field w 8 11) v' = s) ∧
      OnlyData s (counterStored s p (field w 8 11) v') ∧ (counterStored s p (field w 8 11) v').psd = s.psd := by
  by_cases hr : field w 8 11 = 0#4
  · have hv : v' = wordAt s p := by
      have hres := counterResult_of_counted hc
      rw [hr] at hres
      exact (congrArg Prod.fst hres).symm.trans (counterResult_zero _ _ _)
    have hsame : counterStored s p (field w 8 11) v' = s := if_pos hr
    rw [hsame]
    exact ⟨hv.symm, keptBut_refl s _ _, fun _ => rfl, rfl, rfl⟩
  · have hstore : counterStored s p (field w 8 11) v' = writeLoc p v' s := if_neg hr
    rw [hstore]
    exact ⟨wordAt_writeLoc hs p v', writeLoc_keptBut p v' s, fun h => absurd h hr, writeLoc_onlyData p v' s,
      writeLoc_psd p v' s⟩

end Counter

/-! ### The levels after a single-instruction interrupt (R679, R681) -/

section CounterLevels

variable (l m : Level)

/-- `m` is the counter-equals-zero level of the count pulse `l`. -/
def countsDownTo : Bool :=
  decide (l.group = .internal ∧ l.bit.val < 4 ∧ m.group = .internal ∧ m.bit.val = l.bit.val + 6)

theorem counterZeroLevel_cases : (counterZeroLevel l = none ∧ countsDownTo l m = false) ∨
    ∃ z, counterZeroLevel l = some z ∧ countsDownTo l m = decide (m = z) ∧ z ≠ l := by
  obtain ⟨g, k⟩ := l
  obtain ⟨g', k'⟩ := m
  cases g with
  | power => exact .inl ⟨rfl, by simp [countsDownTo]⟩
  | external => exact .inl ⟨rfl, by simp [countsDownTo]⟩
  | internal =>
    by_cases hk : k.val < 4
    · refine .inr ⟨⟨.internal, ⟨k.val + 6, by omega⟩⟩, by simp [counterZeroLevel, hk], ?_, ?_⟩
      · simp [countsDownTo, hk, Fin.ext_iff]
      · simp [Fin.ext_iff]
    · exact .inl ⟨by simp [counterZeroLevel, hk], by simp [countsDownTo, hk]⟩

/-- The interrupt system after the level has been acknowledged and its single instruction executed. -/
def countedInts (zero : Bool) (i : Interrupts) : Interrupts :=
  counterInts l zero (updateGroup i l.group (IntGroup.acknowledge (levelMask l.bit)))

theorem countedInts_eq (zero : Bool) (i : Interrupts) :
    (groupOf (countedInts l zero i) m.group).en = (groupOf i m.group).en ∧
      awOf (countedInts l zero i) m = (awOf i m || decide (m = l)) ∧
      waOf (countedInts l zero i) m = (decide (m ≠ l) && (waOf i m || (zero && countsDownTo l m && awOf i m))) := by
  have hen : ∀ i g, (groupOf (updateGroup (updateGroup i l.group (IntGroup.acknowledge (levelMask l.bit))) l.group
      (IntGroup.arm (levelMask l.bit))) g).en = (groupOf i g).en := fun i g =>
    (en_updateGroup _ l (f := IntGroup.arm _) (fun _ => rfl) g).trans
      (en_updateGroup i l (f := IntGroup.acknowledge _) (fun _ => rfl) g)
  rw [countedInts, counterInts]
  rcases counterZeroLevel_cases l m with ⟨hnone, hm⟩ | ⟨z, hz, hm, hne⟩
  · simp only [hnone, hen, awOf_arm, waOf_arm, awOf_acknowledge, waOf_acknowledge, hm]
    by_cases h : m = l <;> simp [h]
  · simp only [hz]
    cases zero with
    | false =>
      simp only [Bool.false_eq_true, if_false, hen, awOf_arm, waOf_arm, awOf_acknowledge, waOf_acknowledge]
      by_cases h : m = l <;> simp [h]
    | true =>
      have haw : ∀ i, awOf (updateGroup i z.group (IntGroup.signal (levelMask z.bit))) m = awOf i m := fun i =>
        congrArg (flipFlop · m) (aw_signal i z m.group)
      have hsignal := en_updateGroup (updateGroup (updateGroup i l.group (IntGroup.acknowledge (levelMask l.bit)))
        l.group (IntGroup.arm (levelMask l.bit))) z (f := IntGroup.signal (levelMask z.bit)) (fun _ => rfl) m.group
      simp only [if_true, hsignal, hen, haw, waOf_signal, awOf_arm, waOf_arm, awOf_acknowledge, waOf_acknowledge, hm]
      by_cases h : m = l
      · simp [h, hne.symm]
      · simp [h]

end CounterLevels

end Sys2Proof.Proofs

namespace Sys2Proof.Proofs

open Sys2Proof Sys2Proof.Machine Sys2Proof.Laws

/-! ### The entry sequence of an interrupt (60_exceptions R678) -/

/-- The state in which the entry sequence runs: the level active, the wait ended (R678, R689). -/
def acknowledged (l : Level) (s : State) : State :=
  { s with
    ints := updateGroup s.ints l.group (IntGroup.acknowledge (levelMask l.bit)), halt := .none, completed := true
    stale := none }

theorem sameAccess_acknowledged (l : Level) (s : State) : SameAccess s (acknowledged l s) := ⟨fun _ => rfl, rfl⟩

theorem enterInterrupt_eq (l : Level) (s : State) : enterInterrupt l s = interruptSequence l (acknowledged l s) := rfl

section Sequence

variable {s : State} {l : Level} {w : Word}

/-- An XPSD in the interrupt location. -/
theorem interruptSequence_xpsd {x : State} (hw : entryWord s l.loc = .ok w) (hop : opOf w = 0x0F#7)
    (hx : entryXpsd s l.loc w 0 false = .ok x) : interruptSequence l s = x := by
  rw [interruptSequence, hw]
  dsimp only
  rw [if_pos hop, hx]

/-- An MTB, MTH or MTW in the interrupt location. -/
theorem interruptSequence_single {x : State} (hw : entryWord s l.loc = .ok w)
    (hop : opOf w = 0x73#7 ∨ opOf w = 0x53#7 ∨ opOf w = 0x33#7) (hx : singleInstruction l w s = .ok x) :
    interruptSequence l s = x := by
  have hsingle : (decide (opOf w = 0x73#7) || decide (opOf w = 0x53#7) || decide (opOf w = 0x33#7)) = true := by
    simpa [or_assoc] using hop
  have hne : opOf w ≠ 0x0F#7 := by
    rcases hop with h | h | h <;> rw [h] <;> decide
  rw [interruptSequence, hw]
  dsimp only
  rw [if_neg hne, if_pos hsingle, hx]

end Sequence

theorem op_of_counted {op : BitVec 7} {k : BitVec 2} {r : BitVec 4} {v v' : Word} {zero : Bool}
    (h : Counted op k r v v' zero) : op = 0x73#7 ∨ op = 0x53#7 ∨ op = 0x33#7 :=
  h.imp And.left (Or.imp And.left And.left)

/-- Settles O14: the chain gives the level; its entry is an exchange in the acknowledged state, or one instruction that
arms the level again. -/
theorem interruptEntry : Obligations.InterruptEntry := by
  refine ⟨nextInterrupt_eq_some_iff, loc_toNat, fun s => ?signals, ?step, ?entry⟩
  case signals =>
    refine ⟨fun n k hk => ?_, fun g k => levelSignalled_signalLevel _ s, levelSignalled_signalLevel _ s,
      levelSignalled_signalLevel _ s, levelSignalled_signalLevel _ s, fun h => ?_⟩
    · obtain rfl : n.castLE (by decide) = k := Fin.ext hk.symm
      exact levelSignalled_signalLevel _ s
    · rw [takeInputs_nil h]
      exact levelLines_signals s
  case step =>
    intro s l hp _ hin hc hn h
    exact step_interrupt hp hin (boundary_interrupt hc hn h)
  case entry =>
    rintro s u l w n1 n2 at_ l0 l1 l2 l3 hs _ rfl hat hex hparity hw
    have hr := sameAccess_acknowledged l s
    have hword : entryWord (acknowledged l s) l.loc = .ok w := by
      rw [hr.entryWord, entryWord_eq hat hex hparity, hw]
    rw [enterInterrupt_eq]
    refine ⟨?_, ?_⟩
    · rintro hop hplaces h2 h3 rfl rfl hlp
      rw [interruptSequence_xpsd hword hop (entryXpsd_eq hr hplaces h2 h3 hlp l.loc 0 false)]
      obtain ⟨hstored, hframe⟩ := entryExchanged_leaves hs hr hplaces (wordAt s l2) (wordAt s l3) 0 false
      generalize entryExchanged (acknowledged l s) w (wordAt s l2) (wordAt s l3) l0 l1 0 false = x at *
      have hints : x.ints = updateGroup s.ints l.group (IntGroup.acknowledge (levelMask l.bit)) := by
        rw [hframe]
        rfl
      have hpsd : x.psd = exchangedPsd s.psd (wordAt s l2) (wordAt s l3) (bit w 8) := by rw [hframe]
      refine ⟨hstored, hpsd, ?_, fun g hg => ?_, ?_⟩
      · rw [hints, groupOf_updateGroup_same]
        rfl
      · rw [hints, groupOf_updateGroup_ne hg]
      · rw [hpsd, hints]
        exact hframe
    · intro p k v' zero hplace hc
      have hplace' : CounterOperand (acknowledged l s) l w p k := hplace
      have hc' : Counted (opOf w) k (field w 8 11) (wordAt (acknowledged l s) p) v' zero := hc
      rw [interruptSequence_single hword (op_of_counted hc) (singleInstruction_eq hplace' hc')]
      have hs' : MemCanonical (acknowledged l s) := hs
      obtain ⟨hv, hkept, hzero, hdata, hpsd⟩ := counterStored_leaves hs' hc'
      generalize counterStored (acknowledged l s) p (field w 8 11) v' = x at *
      refine ⟨hv, hkept, fun hr => ?_, fun m => countedInts_eq l m zero s.ints, ?_⟩
      · rw [hzero hr]
        exact ⟨rfl, rfl, rfl⟩
      · unfold OnlyData at hdata
        rw [hpsd] at hdata
        exact congrArg (fun y : State => { y with ints := countedInts l zero s.ints }) hdata

end Sys2Proof.Proofs

namespace Sys2Proof.Proofs

open Sys2Proof Sys2Proof.Config Sys2Proof.Machine Sys2Proof.Laws

/-! ### What an entry sequence keeps (60_exceptions R640) -/

/-- The parts of an entry sequence leave the banks, PDF with the fault status, and the completion alone. -/
theorem entryKeeps_status (Q : List Bank → Bool → BitVec 6 → Bool → Prop) :
    EntryKeeps fun s => Q s.banks s.pdf s.faultStatus s.completed where
  store s tsf ra l0 l1 h := by simpa [psdStored] using h
  exchange s s' a lp e tsf ra h he := by
    obtain ⟨l0, l1, -, -, n1, n2, -, -, -, rfl⟩ := exchangePsd_cases he
    simpa [psdStored] using h
  pend _ _ h := h
  modify old t w s h := by
    obtain ⟨p, n, e⟩ := trapModify_cases old t w s
    rw [e]
    exact h

/-- A trap is no completion. -/
theorem enterTrap_completed (t : Trap) (s : State) : (enterTrap t s).completed = false :=
  enterTrap_keeps (entryKeeps_status fun _ _ _ c => c = false) (fun _ _ _ h => h) (fun _ _ _ => rfl) (fun _ _ _ h => h)
    (fun _ h => h) (fun _ _ h => h) t { s with completed := false } rfl

/-! ### The PDF flag (R664) -/

section Fault

variable {s : State} {t : Trap} {f : CpuFault}

/-- The first processor detected fault sets PDF and its status bit. -/
theorem enterTrap_first_fault (hoff : s.inst.memoryFaultHalt = false) (hf : t.fault = some f) (hpdf : s.pdf = false) :
    (enterTrap t s).pdf = true ∧ (enterTrap t s).faultStatus = s.faultStatus ||| f.statusBit := by
  have hgo : (s.inst.memoryFaultHalt && t.stopsClock) = false := by rw [hoff, Bool.false_and]
  rw [enterTrap_eq_sequence (fun _ => hpdf) hgo]
  refine trapSequence_keeps
    (entryKeeps_status fun _ pdf status _ => pdf = true ∧ status = s.faultStatus ||| f.statusBit) t _ ⟨?_, ?_⟩
  · rw [trapNoted_frame, hf]
    exact Bool.or_true _
  · rw [trapNoted, hf]
    rfl

/-- The second one hangs the CPU. -/
theorem enterTrap_second_fault (hoff : s.inst.memoryFaultHalt = false) (hf : t.fault = some f) (hb : t.bankFault = none)
    (hpdf : s.pdf = true) : enterTrap t s = { s with
      tcc := t.tcc, jumped := true, completed := false, stale := none, pend := .none, halt := .hung
      pfiGenerated := true } := by
  rw [enterTrap, hoff, hb, hf]
  dsimp only [noteBankFault]
  rw [hpdf]
  rfl

/-- With the MEMORY FAULT switch in HALT a parity error stops the CPU with its trap pending (70_reset_and_hazards
R716). -/
theorem enterTrap_memoryFaultHalt (hon : s.inst.memoryFaultHalt = true)
    (hf : t.fault = some .memoryParity ∨ t.fault = some .dataBus) (hb : t.bankFault = none) : enterTrap t s =
      { s with
        tcc := t.tcc, jumped := true, completed := false, stale := none, halt := .memoryFault, pend := .trap t } := by
  have hstops : t.stopsClock = true := by
    rcases hf with hf | hf <;> simp [Trap.stopsClock, hf]
  have hsame : { t with bankFault := none } = t := by rw [← hb]
  rw [enterTrap, hon, hstops, hb, hsame]
  rfl

end Fault

/-! ### A CPU that stands still (R664; 70_reset_and_hazards R710, R716) -/

theorem levelLines_frame (s : State) : levelLines s = { s with ints := (levelLines s).ints } := by
  unfold levelLines
  dsimp only
  split <;> split <;> rfl

theorem boundary_of_stopped {s : State} (h : s.halt = .hung ∨ s.halt = .memoryFault) : boundary s = .rest := by
  rcases h with h | h <;> cases hc : s.compute <;> simp [boundary, h, hc]

theorem step_rest {s s1 : State} (hp : s.pend = .none) (hin : takeInputs s = s1) (hp1 : s1.pend = .none)
    (hb : boundary s1 = .rest) : step s = .next (settle s1) := by
  subst hin
  simp only [step, hp, hp1, hb]

theorem step_of_stopped {s : State} (h : s.halt = .hung ∨ s.halt = .memoryFault) (hp : s.pend = .none)
    (hin : s.inputs = []) : step s = .next (settle (levelLines s)) := by
  have hframe := levelLines_frame s
  refine step_rest hp (takeInputs_nil hin) ?_ (boundary_of_stopped ?_)
  · rw [hframe]
    exact hp
  · rw [hframe]
    exact h

/-- With nothing pending STEP ends. -/
theorem settle_idle {s : State} (hp : s.pend = .none) :
    settle s = { s with compute := if s.compute = .step then .idle else s.compute } := by
  by_cases h : s.compute = .step
  · rw [settle, if_pos (by simp [h, hp]), if_pos h]
  · rw [settle, if_neg (by simp [h]), if_neg h]

/-- A CPU that stands still is not stepped. -/
theorem stepOne_of_stopped {s : State} (h : s.halt = .hung ∨ s.halt = .memoryFault) : applyEvent .stepOne s = s := by
  have hstopped : stopped s = true := by rcases h with h | h <;> simp [stopped, h]
  simp [applyEvent, whenIdle, hstopped]

/-- COMPUTE stays in STEP only while an entry or a subject is still to come (R710). -/
theorem pend_of_step_step {s t : State} (hp : s.pend = .none) (hin : s.inputs = []) (hc : s.compute = .step)
    (hs : step s = .next t) (ht : t.compute = .step) : t.pend ≠ .none ∧ t.halt ≠ .memoryFault := by
  have hframe := levelLines_frame s
  have hp1 : (levelLines s).pend = .none := by rw [hframe]; exact hp
  have hc1 : (levelLines s).compute = .step := by rw [hframe]; exact hc
  have hb : boundary (levelLines s) = .rest ∨ boundary (levelLines s) = .instruction := by
    cases hh : (levelLines s).halt <;> simp [boundary, hc1, hh]
  rcases hb with hb | hb
  · rw [step_rest hp (takeInputs_nil hin) hp1 hb] at hs
    cases hs
    rw [settle_pend, settle_halt]
    exact pending_of_settle_step (s := levelLines s) ht
  · rw [step_instruction hp (takeInputs_nil hin) hp1 hb] at hs
    obtain ⟨r, -, rfl⟩ := mapNext_next hs
    rw [settle_pend, settle_halt]
    exact pending_of_settle_step (s := r) ht

/-! ### The first-phase runout (60_exceptions R657) -/

theorem watchdogPhase1_eq {s : State} (hc : s.compute ≠ .idle) (hh : s.halt = .none) (hp : s.pend = .none) :
    applyEvent .watchdogPhase1 s =
      if s.completed = true ∧ s.pdf = false ∧ s.ints.power.wa = 0 ∧ s.inst.watchdogOverride = false
      then { s with pend := .trap { loc := 0x46#8, tcc := 0b1000#4, fault := some .watchdog } } else s := by
  have hcan : canInject s = true := by simp [canInject, running, hc, hh, hp]
  have hcounts : firstPhaseCounts s = true ↔
      s.completed = true ∧ s.pdf = false ∧ s.ints.power.wa = 0 ∧ s.inst.watchdogOverride = false := by
    grind [firstPhaseCounts, watchdogInhibited]
  simp only [applyEvent, injectTrap, hcan, if_true, hcounts]
  rfl

end Sys2Proof.Proofs

namespace Sys2Proof.Proofs

open Sys2Proof Sys2Proof.Config Sys2Proof.Machine Sys2Proof.Laws

/-! ### The words that the ADDRESS STOP switches name (70_reset_and_hazards R715) -/

theorem mem_selectedWords {s : State} {a : WordAddr} {unit : Nat}
    (hunit : unit = if s.stopSwitches.page then 512 else 1)
    (h : a.toNat / unit = s.stopSwitches.select.toNat / unit) : a.toNat ∈ selectedWords s := by
  subst hunit
  unfold selectedWords
  split
  next hp =>
    rw [if_pos hp] at h
    exact List.mem_map.2 ⟨a.toNat % 512, List.mem_range.2 (Nat.mod_lt _ (by omega)), by omega⟩
  next hp =>
    rw [if_neg hp, Nat.div_one, Nat.div_one] at h
    exact List.mem_singleton.2 h

/-! ### The trial with inverted parity -/

/-- The state of the second trial. -/
def inverted (ws : List Nat) (s : State) : State := invertParity ws (faultsCleared s)

section Inverted

variable (ws : List Nat) (s : State)

@[simp] theorem memExists_inverted (a : WordAddr) : memExists (inverted ws s) a = memExists s a :=
  memExists_faultsCleared s a

@[simp] theorem locate_inverted (v : WordAddr) (k : Access) : locate (inverted ws s) v k = locate s v k :=
  locate_faultsCleared s v k

theorem parityBad_inverted {a : WordAddr} (h : a.toNat ∈ ws) : parityBad (inverted ws s) a = !parityBad s a := by
  have hbad : (inverted ws s).badParity =
      ws.filter (!s.badParity.contains ·) ++ s.badParity.filter (!ws.contains ·) := rfl
  rw [parityBad, parityBad, hbad]
  by_cases hs : a.toNat ∈ s.badParity <;> simp [h, hs]

end Inverted

/-- The trap is the memory parity error of a read at an address that memory has. -/
def ParityTraps (s : State) (e : Trap) : Prop := ∃ a, e = parityTrap swReadParity a ∧ memExists s a = true

section Trial

variable {s : State} (ws : List Nat)

/-- A read in the second trial gives the same word or the parity error trap. -/
theorem readLoc_inverted {v : WordAddr} {k : Access} {l : Loc} {w : Word} (hl : locate s v k = .ok l)
    (h : readLoc s l = .ok w) :
    readLoc (inverted ws s) l = .ok w ∨ ∃ e, readLoc (inverted ws s) l = .error e ∧ ParityTraps s e := by
  rcases locate_cases hl with ⟨-, rfl⟩ | ⟨-, rfl, hex, -⟩
  · exact .inl h
  · cases hb : parityBad (inverted ws s) (homespaceBias s (actualAddr s v)) with
    | true => exact .inr ⟨_, by rw [readLoc, readLocNoting, hb]; rfl, _, rfl, hex⟩
    | false =>
      left
      rw [readLoc, readLocNoting] at h ⊢
      rw [hb]
      split at h
      · cases h
      · exact h

theorem readWord_inverted {v : WordAddr} {w : Word} (h : readWord s v = .ok w) :
    readWord (inverted ws s) v = .ok w ∨ ∃ e, readWord (inverted ws s) v = .error e ∧ ParityTraps s e := by
  obtain ⟨l, hl⟩ := locate_of_readWord h
  rw [readWord, hl] at h
  rw [readWord, locate_inverted, hl]
  exact readLoc_inverted ws hl h

theorem fetchWord_inverted {w : Word} (h : fetchWord s = .ok w) :
    fetchWord (inverted ws s) = .ok w ∨ ∃ e, fetchWord (inverted ws s) = .error e ∧ ParityTraps s e := by
  have hpc : pc (inverted ws s) = pc s := rfl
  rw [fetchWord] at h
  rw [fetchWord, hpc, locate_inverted]
  cases hl : locate s (pc s) .fetch with
  | ok l =>
    rw [hl] at h
    exact readLoc_inverted ws hl h
  | error e =>
    rw [hl] at h
    cases h

theorem effWordAddr_inverted {m : MR} {align : Nat} {v : WordAddr} (h : effWordAddr s m align = .ok v) :
    effWordAddr (inverted ws s) m align = .ok v ∨
      ∃ e, effWordAddr (inverted ws s) m align = .error e ∧ ParityTraps s e := by
  cases hind : m.ind with
  | false =>
    left
    rw [effWordAddr, effAddr_direct hind] at h ⊢
    exact h
  | true =>
    cases hr : readWord s (directRef s m) with
    | error e => simp [effWordAddr, effAddr, refAddrWith, hind, hr] at h
    | ok d =>
      rcases readWord_inverted ws hr with hd | ⟨e, he, hp⟩
      · left
        rw [effWordAddr, effAddr_indirect hind hr] at h
        rw [effWordAddr, effAddr_indirect hind (w := d) hd]
        exact h
      · right
        refine ⟨e, ?_, hp⟩
        have hd : readWord (inverted ws s) (directRef (inverted ws s) m) = .error e := he
        simp [effWordAddr, effAddr, refAddrWith, hind, hd]

/-- The operand in a word whose parity the trial inverts is not read. -/
theorem operandWord_inverted {m : MR} {v a : WordAddr} (hv : effWordAddr s m alignWord = .ok v)
    (hl : locate s v .read = .ok (.mem a)) (hp : parityBad s a = false) (ha : a.toNat ∈ ws) :
    ∃ e, operandWord (inverted ws s) m = .error e ∧ ParityTraps s e := by
  rcases effWordAddr_inverted ws hv with he | ⟨e, he, hp⟩
  · have hbad : parityBad (inverted ws s) a = true := by rw [parityBad_inverted ws s ha, hp]; rfl
    refine ⟨parityTrap swReadParity a, ?_, a, rfl, ?_⟩
    · rw [operandWord, he]
      dsimp only
      rw [readWord, locate_inverted, hl]
      dsimp only
      rw [readLoc, readLocNoting, hbad]
      rfl
    · rcases locate_cases hl with ⟨-, h⟩ | ⟨-, h, hex, -⟩
      · cases h
      · cases h
        exact hex
  · refine ⟨e, ?_, hp⟩
    rw [operandWord, he]

end Trial

/-! ### The address that the bank keeps (48_control R537) -/

/-- Some bank holds the address of a fault. -/
def holdsFault (banks : List Bank) : Bool := banks.any fun b => b.snap.isSome

theorem holdsFault_faultsCleared (s : State) : holdsFault (faultsCleared s).banks = false := by
  simp [holdsFault, faultsCleared]

theorem holdsFault_iff (banks : List Bank) : holdsFault banks = (banks.map (·.snap)).any Option.isSome := by
  simp [holdsFault, List.any_map, Function.comp_def]

theorem noteFault_snap (bits : Word) (a : WordAddr) (parity : Bool) (b : Bank) :
    (Bank.noteFault bits a parity b).snap.isSome = true := by
  unfold Bank.noteFault
  split
  · rfl
  · rename_i h
    simp [h]

/-- A fault noted at an address that memory has is held. -/
theorem holdsFault_noteBankFault {s : State} {a : WordAddr} (h : memExists s a = true) (bits : Word) :
    holdsFault (noteBankFault (some (bits, a)) s).banks = true := by
  have key : ∀ banks : List Bank, banks.any (fun b => b.holds a.toNat) = true →
      holdsFault (updateBanks (Bank.noteFault bits a (freeValue 1 s.free == 1#1)) a banks) = true := by
    intro banks hb
    induction banks with
    | nil => cases hb
    | cons b rest ih =>
      rw [updateBanks]
      split
      next => simp [holdsFault, noteFault_snap]
      next hn =>
        have hrest : rest.any (fun b => b.holds a.toNat) = true := by simpa [hn] using hb
        have := ih hrest
        rw [holdsFault] at this ⊢
        rw [List.any_cons, this, Bool.or_true]
  exact key s.banks h

/-- What holds once the trap has been noted by its bank is kept by the rest of the entry (60_exceptions R640, R664). -/
theorem enterTrap_keeps_noted {P : State → Prop} (hP : EntryKeeps P)
    (hp : ∀ s x y, P s → P { s with pdf := x, faultStatus := y })
    (hh : ∀ s, P s → P { s with halt := .hung, pfiGenerated := true })
    (hm : ∀ s p, P s → P { s with halt := .memoryFault, pend := p }) (t : Trap) (s : State)
    (h : P (noteBankFault t.bankFault { s with
      tcc := t.tcc, jumped := true, completed := false, stale := none, pend := .none })) : P (enterTrap t s) := by
  unfold enterTrap
  dsimp only
  split
  · exact hm _ _ h
  · split
    · exact trapSequence_keeps hP _ _ h
    · split
      · exact hh _ h
      · exact trapSequence_keeps hP _ _ (hp _ _ _ h)

/-- The parity error trap of a read leaves its address in the bank. -/
theorem holdsFault_enterTrap {s : State} {e : Trap} (h : ParityTraps s e) :
    holdsFault (enterTrap e s).banks = true := by
  obtain ⟨a, rfl, hex⟩ := h
  exact enterTrap_keeps_noted (entryKeeps_status fun banks _ _ _ => holdsFault banks = true) (fun _ _ _ h => h)
    (fun _ h => h) (fun _ _ h => h) _ s (holdsFault_noteBankFault (s := { s with
      tcc := 0, jumped := true, completed := false, stale := none, pend := .none }) hex swReadParity)

end Sys2Proof.Proofs

namespace Sys2Proof.Proofs

open Sys2Proof Sys2Proof.Config Sys2Proof.Machine Sys2Proof.Laws

/-! ### A load and a store run at the boundary (70_reset_and_hazards R715) -/

theorem noteStale_frame (s t : State) : noteStale s t = { t with stale := (noteStale s t).stale } := by
  unfold noteStale
  dsimp only
  split <;> rfl

section References

variable {s : State} {w : Word} {m : MR} {v a : WordAddr}

/-- The state in which the instruction at the boundary executes. -/
def started (s : State) : State := { s with jumped := false, completed := true, stoppedAt := none }

theorem runInstruction_lw (ha : s.snapArmed = false) (hs : s.stale = none) (hf : fetchWord s = .ok w)
    (hd : decodeWord w = .ok (.lw m)) {x : Word} (hx : operandWord s m = .ok x) :
    runInstruction s = .next (noteStale s (advance (loadWord m.r x (started s)))) := by
  have hx' : operandWord (started s) m = .ok x := hx
  have hrun : runWord w (started s) = .next (advance (loadWord m.r x (started s))) :=
    (runWord_instr hd).trans (run_change_by hx' (loadWord m.r))
  rw [runInstruction_ok ha hs hf]
  exact congrArg (mapNext (noteStale s)) hrun

theorem runInstruction_stw (ha : s.snapArmed = false) (hs : s.stale = none) (hf : fetchWord s = .ok w)
    (hd : decodeWord w = .ok (.stw m)) (hv : effWordAddr s m alignWord = .ok v) {l : Loc}
    (hl : locate s v .write = .ok l) :
    runInstruction s = .next (noteStale s (advance (writeLoc l (getReg s m.r) (started s)))) := by
  have hv' : effWordAddr (started s) m alignWord = .ok v := hv
  have hl' : locate (started s) v .write = .ok l := hl
  have hrun : runWord w (started s) = .next (advance (writeLoc l (getReg s m.r) (started s))) :=
    (runWord_instr hd).trans (exec_stw hv' hl')
  rw [runInstruction_ok ha hs hf]
  exact congrArg (mapNext (noteStale s)) hrun

/-- A load whose operand is not read leaves the address of the fault in the bank. -/
theorem runInstruction_lw_trapped (ha : s.snapArmed = false) (hs : s.stale = none) (hf : fetchWord s = .ok w)
    (hd : decodeWord w = .ok (.lw m)) {e : Trap} (hx : operandWord s m = .error e) (he : ParityTraps s e) :
    ∃ b, runInstruction s = .next b ∧ holdsFault b.banks = true := by
  have hx' : operandWord (started s) m = .error e := hx
  have hrun : runWord w (started s) = .next (enterTrap e (started s)) :=
    (runWord_instr hd).trans (run_need_error hx' _)
  refine ⟨noteStale s (enterTrap e (started s)), ?_, ?_⟩
  · rw [runInstruction_ok ha hs hf]
    exact congrArg (mapNext (noteStale s)) hrun
  · rw [noteStale_frame]
    exact holdsFault_enterTrap (s := started s) he

theorem operandWord_faultsCleared (s : State) (m : MR) : operandWord (faultsCleared s) m = operandWord s m := by
  have hread : readWord (faultsCleared s) = readWord s := funext (readWord_faultsCleared s)
  unfold operandWord effWordAddr effAddr
  rw [hread]
  rfl

/-- A load accesses its operand: with the parity of that word inverted it leaves a fault in a bank. -/
theorem accesses_of_lw {ws : List Nat} (harmed : s.snapArmed = false) (hstale : s.stale = none)
    (hf : fetchWord s = .ok w) (hd : decodeWord w = .ok (.lw m)) (hv : effWordAddr s m alignWord = .ok v)
    (hl : locate s v .read = .ok (.mem a)) (hp : parityBad s a = false) (ha : a.toNat ∈ ws) :
    accesses runInstruction ws s = true := by
  have hx : operandWord s m = .ok (wordAt s (.mem a)) := by
    rw [operandWord, hv]
    exact readWord_eq_ok hl hp
  have hfirst := runInstruction_lw (s := faultsCleared s) harmed hstale ((fetchWord_faultsCleared s).trans hf) hd
    ((operandWord_faultsCleared s m).trans hx)
  have hsecond : ∃ b, runInstruction (inverted ws s) = .next b ∧ holdsFault b.banks = true := by
    have htraps : ∀ e, ParityTraps s e → ParityTraps (inverted ws s) e := fun e ⟨a, he, hex⟩ =>
      ⟨a, he, (memExists_inverted ws s a).trans hex⟩
    rcases fetchWord_inverted ws hf with hok | ⟨e, he, hpe⟩
    · obtain ⟨e, he, hpe⟩ := operandWord_inverted ws hv hl hp ha
      exact runInstruction_lw_trapped (s := inverted ws s) harmed hstale hok hd he (htraps e hpe)
    · exact ⟨_, runInstruction_error (s := inverted ws s) harmed he, holdsFault_enterTrap (htraps e hpe)⟩
  obtain ⟨b, hb, hheld⟩ := hsecond
  refine accesses_of_snap hfirst hb fun hsnap => ?_
  have hnone : holdsFault (noteStale (faultsCleared s)
      (advance (loadWord m.r (wordAt s (.mem a)) (started (faultsCleared s))))).banks = false := by
    rw [noteStale_frame]
    exact holdsFault_faultsCleared s
  rw [holdsFault_iff, hsnap, ← holdsFault_iff, hheld] at hnone
  cases hnone

/-- A store takes its word off the watch list. -/
theorem storesInto_of_stw {ws : List Nat} (harmed : s.snapArmed = false) (hstale : s.stale = none)
    (hf : fetchWord s = .ok w) (hd : decodeWord w = .ok (.stw m)) (hv : effWordAddr s m alignWord = .ok v)
    (hl : locate s v .write = .ok (.mem a)) (ha : a.toNat ∈ ws) : storesInto runInstruction ws s = true := by
  have hrun := runInstruction_stw (s := { s with watch := ws }) harmed hstale hf hd hv hl
  have hwatch : (noteStale { s with watch := ws } (advance (writeLoc (.mem a) (getReg { s with watch := ws } m.r)
      (started { s with watch := ws })))).watch = ws.filter (· != a.toNat) := by
    rw [noteStale_frame]
    rfl
  rw [storesInto, hrun]
  dsimp only
  rw [hwatch, bne_iff_ne]
  intro h
  have := h ▸ ha
  simp at this

end References

/-! ### The halt after the reference -/

theorem halt_of_boundary_instruction {s : State} (hc : s.compute = .run) (hb : boundary s = .instruction) :
    s.halt = .none := by
  cases hh : s.halt with
  | none => rfl
  | waiting =>
    rw [boundary, hc, hh] at hb
    dsimp only at hb
    split at hb <;> cases hb
  | hung => rw [boundary, hc, hh] at hb; cases hb
  | addressStop => rw [boundary, hc, hh] at hb; cases hb
  | memoryFault => rw [boundary, hc, hh] at hb; cases hb

section Halt

variable {s s1 t : State}

theorem step_memRef (hp : s.pend = .none) (hin : takeInputs s = s1) (hp1 : s1.pend = .none)
    (hb : boundary s1 = .instruction) (hmeet : meetsSwitches runInstruction s1 = true)
    (ht : runInstruction s1 = .next t) (hh : t.halt = .none) (hc : t.compute = .run) :
    step s = .next { t with halt := .addressStop } := by
  have hstop : withReferenceStop runInstruction s1 = .next { t with halt := .addressStop } := by
    rw [withReferenceStop, hmeet, Bool.or_true, if_pos rfl, ht]
    simp [mapNext, haltAtReference, hh]
  have hsettle : settle { t with halt := .addressStop } = { t with halt := .addressStop } := by
    simp [settle, hc]
  rw [step_instruction hp hin hp1 hb, hstop]
  exact congrArg Host.Outcome.next hsettle

theorem watchesReferences_eq (hmode : s.stopSwitches.mode = .memRef) (hc : s.compute = .run)
    (ha : s.snapArmed = false) : watchesReferences s = true := by
  simp [watchesReferences, hmode, hc, ha]

end Halt

/-- Settles O13, clause by clause: the trap's branches, the boundary of a CPU that stands still, and the two trials that
show a reference. -/
theorem secondFaultHangs : Obligations.SecondFaultHangs := by
  refine ⟨fun s t => enterTrap_memoryFaultHalt, ?pending, fun s t f => enterTrap_first_fault,
    fun s t f => enterTrap_second_fault, ?stands, fun s t => pend_of_step_step, ?references,
    fun s t => enterTrap_completed t s, fun s => watchdogPhase1_eq⟩
  case pending =>
    intro s t hh hp
    refine ⟨?_, ?_, hp⟩
    · simp only [step, hp, enterPending, hh, if_true]
    · simp [applyEvent, moveSwitch, hh]
  case stands =>
    intro s h hp hin
    have hframe := levelLines_frame s
    have hp1 : (levelLines s).pend = .none := by rw [hframe]; exact hp
    refine ⟨stepOne_of_stopped h, settle (levelLines s), step_of_stopped h hp hin, ?_, ?_⟩
    · rw [settle_idle hp1, hframe]
    · rw [settle_halt, hframe]
  case references =>
    intro s s1 m v a w unit hp hin hp1 hb hc harmed hstale hmode hf hv hunit ha hkind
    have hmem := mem_selectedWords hunit ha
    have hhalt := halt_of_boundary_instruction hc hb
    have hwatches := watchesReferences_eq hmode hc harmed
    rcases hkind with ⟨hd, hwrite, hl, hparity⟩ | ⟨hd, hwrite, hl⟩
    · have hx : operandWord s1 m = .ok (wordAt s1 (.mem a)) := by
        rw [operandWord, hv]
        exact readWord_eq_ok hl hparity
      have hrun := runInstruction_lw harmed hstale hf hd hx
      refine ⟨_, hrun, step_memRef hp hin hp1 hb ?_ hrun ?_ ?_⟩
      · rw [meetsSwitches, hwatches, hwrite]
        exact accesses_of_lw harmed hstale hf hd hv hl hparity hmem
      · rw [noteStale_frame]
        exact hhalt
      · rw [noteStale_frame]
        exact hc
    · have hrun := runInstruction_stw harmed hstale hf hd hv hl
      refine ⟨_, hrun, step_memRef hp hin hp1 hb ?_ hrun ?_ ?_⟩
      · rw [meetsSwitches, hwatches, hwrite]
        exact storesInto_of_stw harmed hstale hf hd hv hl hmem
      · rw [noteStale_frame]
        exact hhalt
      · rw [noteStale_frame]
        exact hc

end Sys2Proof.Proofs

namespace Sys2Proof.Proofs

open Sys2Proof Sys2Proof.Machine Sys2Proof.Laws

/-! ### The tables of the memory control storage (10_state R58-R60) -/

/-- The write lock of a page. -/
def lockEntry (s : State) (p : BitVec 8) : BitVec 2 := s.lock[p.toNat]'p.isLt

theorem getElem_set_page {α : Type} (t : Vector α 256) (p q : BitVec 8) (x : α) :
    (t.set p.toNat x p.isLt)[q.toNat]'q.isLt = if q = p then x else t[q.toNat]'q.isLt := by
  rw [Vector.getElem_set]
  by_cases h : q = p
  · rw [if_pos h, if_pos (congrArg BitVec.toNat h.symm)]
  · rw [if_neg h, if_neg fun e => h (BitVec.eq_of_toNat_eq e.symm)]

/-- The page `i` on from `p` is the one at the distance `i`. -/
theorem eq_add_ofNat_iff {p q : BitVec 8} {i : Nat} (h : i < 256) : q = p + BitVec.ofNat 8 i ↔ (q - p).toNat = i := by
  constructor
  · rintro rfl
    rw [BitVec.add_comm, BitVec.add_sub_cancel, BitVec.toNat_ofNat, Nat.mod_eq_of_lt h]
  · intro hd
    rw [← hd, BitVec.ofNat_toNat, BitVec.setWidth_eq, BitVec.add_comm, BitVec.sub_add_cancel]

/-! ### One image word (48_control R528-R531) -/

/-- The codes of an image word go to the pages at distances below sixteen. -/
theorem putCodes_entry {put : BitVec 8 → BitVec 2 → State → State} {entry : State → BitVec 8 → BitVec 2}
    (hput : ∀ p x s q, entry (put p x s) q = if q = p then x else entry s q) (p : BitVec 8) (w : Word) {n : Nat}
    (hn : n ≤ 256) (s : State) (q : BitVec 8) : entry (putCodes put p w n s) q =
      if (q - p).toNat < n then w.extractLsb' (30 - 2 * (q - p).toNat) 2 else entry s q := by
  induction n with
  | zero => rfl
  | succ n ih =>
    rw [putCodes, hput, ih (by omega)]
    by_cases h : (q - p).toNat = n
    · rw [if_pos ((eq_add_ofNat_iff (by omega)).2 h), if_pos (by omega), h]
    · rw [if_neg fun e => h ((eq_add_ofNat_iff (by omega)).1 e)]
      by_cases hlt : (q - p).toNat < n
      · rw [if_pos hlt, if_pos (by omega)]
      · rw [if_neg hlt, if_neg (by omega)]

theorem putCodes_keeps {α : Type} {put : BitVec 8 → BitVec 2 → State → State} {f : State → α}
    (hput : ∀ p x s, f (put p x s) = f s) (p : BitVec 8) (w : Word) (n : Nat) (s : State) :
    f (putCodes put p w n s) = f s := by
  induction n with
  | zero => rfl
  | succ n ih => rw [putCodes, hput, ih]

theorem lockEntry_loaded (p : BitVec 8) (w : Word) (s : State) (q : BitVec 8) :
    lockEntry (loadControlWord .locks p w s) q =
      if (q - p).toNat < 16 then w.extractLsb' (30 - 2 * (q - p).toNat) 2 else lockEntry s q :=
  putCodes_entry (put := setLock) (entry := lockEntry) (fun p x s q => getElem_set_page s.lock p q x) p w (by omega) s q

theorem accOf_loaded (p : BitVec 8) (w : Word) (s : State) (q : BitVec 8) :
    accOf (loadControlWord .access p w s) q =
      if (q - p).toNat < 16 then w.extractLsb' (30 - 2 * (q - p).toNat) 2 else accOf s q :=
  putCodes_entry (put := setAcc) (entry := accOf) (fun p x s q => getElem_set_page s.acc p q x) p w (by omega) s q

theorem mapOf_setMap (p : BitVec 8) (x : BitVec 13) (s : State) (q : BitVec 8) :
    mapOf (setMap p x s) q = if q = p then x else mapOf s q := getElem_set_page s.map p q x

/-- The map's entries in 8-bit format (R528). -/
theorem mapOf_loaded8 (p : BitVec 8) (w : Word) (s : State) (q : BitVec 8) :
    mapOf (loadControlWord .map8 p w s) q =
      if (q - p).toNat < 4 then (w.extractLsb' (24 - 8 * (q - p).toNat) 8).zeroExtend 13 else mapOf s q := by
  have hzero : ∀ x : Byte, (0#5 ++ x : BitVec 13) = x.zeroExtend 13 := fun x =>
    BitVec.eq_of_toNat_eq (by rw [zero_append_toNat, BitVec.toNat_setWidth_of_le (by omega)])
  have hat : ∀ i : Nat, i < 256 → (q = p + BitVec.ofNat 8 i ↔ (q - p).toNat = i) := fun i => eq_add_ofNat_iff
  have h0 : q = p ↔ (q - p).toNat = 0 := by simpa using hat 0 (by omega)
  simp only [loadControlWord, mapOf_setMap, hzero, byteOf]
  rw [show (3 : BitVec 8) = BitVec.ofNat 8 3 from rfl, show (2 : BitVec 8) = BitVec.ofNat 8 2 from rfl,
    show (1 : BitVec 8) = BitVec.ofNat 8 1 from rfl]
  simp only [hat 3 (by omega), hat 2 (by omega), hat 1 (by omega), h0]
  generalize (q - p).toNat = d
  obtain rfl | rfl | rfl | rfl | hd : d = 0 ∨ d = 1 ∨ d = 2 ∨ d = 3 ∨ 4 ≤ d := by omega
  · rfl
  · rfl
  · rfl
  · rfl
  · simp [show d ≠ 0 by omega, show d ≠ 1 by omega, show d ≠ 2 by omega, show d ≠ 3 by omega, Nat.not_lt.2 hd]

/-- The map's entries in 13-bit format (R529, D15). -/
theorem mapOf_loaded13 {s : State} (h1 : s.inst.map13First = 3) (h2 : s.inst.map13Second = 19) (p : BitVec 8) (w : Word)
    (q : BitVec 8) : mapOf (loadControlWord .map13 p w s) q =
      if (q - p).toNat < 2 then w.extractLsb' (16 - 16 * (q - p).toNat) 13 else mapOf s q := by
  have hone : q = p + 1 ↔ (q - p).toNat = 1 := eq_add_ofNat_iff (i := 1) (by omega)
  have hzero : q = p ↔ (q - p).toNat = 0 := by simpa using eq_add_ofNat_iff (p := p) (q := q) (i := 0) (by omega)
  simp only [loadControlWord, mapOf_setMap, h1, h2, hone, hzero]
  generalize (q - p).toNat = d
  obtain rfl | rfl | hd : d = 0 ∨ d = 1 ∨ 2 ≤ d := by omega
  · rfl
  · rfl
  · simp [show d ≠ 0 by omega, show d ≠ 1 by omega, Nat.not_lt.2 hd]

/-- The state with no locks, by which two states that differ in their locks alone are told to be alike. -/
def clearLocks (s : State) : State := { s with lock := Vector.replicate 256 0 }

/-- The state with no access codes. -/
def clearAcc (s : State) : State := { s with acc := Vector.replicate 256 0 }

/-- The state with an empty map. -/
def clearMap (s : State) : State := { s with map := Vector.replicate 256 0 }

/-- An image word changes only its own table. -/
theorem clearLocks_loaded (p : BitVec 8) (w : Word) (s : State) :
    clearLocks (loadControlWord .locks p w s) = clearLocks s := by
  have hcodes : loadControlWord .locks p w s = putCodes setLock p w 16 s := by rw [loadControlWord]
  rw [hcodes]
  exact putCodes_keeps (put := setLock) (fun _ _ _ => rfl) p w 16 s

theorem clearAcc_loaded (p : BitVec 8) (w : Word) (s : State) :
    clearAcc (loadControlWord .access p w s) = clearAcc s := by
  have hcodes : loadControlWord .access p w s = putCodes setAcc p w 16 s := by rw [loadControlWord]
  rw [hcodes]
  exact putCodes_keeps (put := setAcc) (fun _ _ _ => rfl) p w 16 s

theorem clearMap_loaded {b : ControlBlock} (hb : b = .map8 ∨ b = .map13) (p : BitVec 8) (w : Word) (s : State) :
    clearMap (loadControlWord b p w s) = clearMap s := by
  rcases hb with rfl | rfl <;> rfl

/-! ### The image words of a block (R527) -/

/-- The state after the first `n` image words. -/
def controlLoaded (b : ControlBlock) (page : BitVec 8) (w : Nat → Word) (s : State) : Nat → State
  | 0 => s
  | n + 1 => loadControlWord b (page + BitVec.ofNat 8 n * b.step) (w n) (controlLoaded b page w s n)

section Loaded

variable {b : ControlBlock} (page : BitVec 8) (w : Nat → Word) (s : State)

theorem controlLoaded_keeps {α : Type} {f : State → α} (h : ∀ p w s, f (loadControlWord b p w s) = f s) (n : Nat) :
    f (controlLoaded b page w s n) = f s := by
  induction n with
  | zero => rfl
  | succ n ih => rw [controlLoaded, h, ih]

/-- How far a page lies from the first page of image word `n`. -/
theorem distance_of_word {n : Nat} (d : BitVec 8) {per : BitVec 8} (hpos : 0 < per.toNat)
    (hn : (n + 1) * per.toNat ≤ 256) :
    (d - BitVec.ofNat 8 n * per).toNat =
      if n * per.toNat ≤ d.toNat then d.toNat - n * per.toNat else 256 + d.toNat - n * per.toNat := by
  rw [Nat.succ_mul] at hn
  have hd := d.isLt
  have hmul : (BitVec.ofNat 8 n * per).toNat = n * per.toNat % 256 := by
    rw [BitVec.toNat_mul, BitVec.toNat_ofNat, Nat.mod_mul_mod]
  rw [BitVec.toNat_sub, hmul]
  generalize n * per.toNat = x at *
  split <;> omega

/-- The entries of the table after `n` image words of at most 256 pages, from what one word does. -/
theorem controlLoaded_entry {α : Type} {entry : State → BitVec 8 → α} {value : Word → Nat → α} {P : State → Prop}
    (hkeep : ∀ p w s, P s → P (loadControlWord b p w s)) (hs : P s)
    (hword : ∀ p w s q, P s → entry (loadControlWord b p w s) q =
      if (q - p).toNat < b.step.toNat then value w (q - p).toNat else entry s q)
    {n : Nat} (hn : n * b.step.toNat ≤ 256) (q : BitVec 8) : entry (controlLoaded b page w s n) q =
      if (q - page).toNat < n * b.step.toNat
      then value (w ((q - page).toNat / b.step.toNat)) ((q - page).toNat % b.step.toNat) else entry s q := by
  have hP : ∀ n, P (controlLoaded b page w s n) := by
    intro n
    induction n with
    | zero => exact hs
    | succ n ih => exact hkeep _ _ _ ih
  induction n with
  | zero => simp [controlLoaded]
  | succ n ih =>
    have hpos : 0 < b.step.toNat := by cases b <;> decide
    have hdist := distance_of_word (q - page) hpos hn
    have hsub : q - (page + BitVec.ofNat 8 n * b.step) = (q - page) - BitVec.ofNat 8 n * b.step :=
      (sub_sub q page _).symm
    rw [controlLoaded, hword _ _ _ _ (hP n), ih (by rw [Nat.succ_mul] at hn; omega), hsub, hdist]
    rw [Nat.succ_mul] at hn ⊢
    generalize (q - page).toNat = d at *
    by_cases hin : n * b.step.toNat ≤ d
    · rw [if_pos hin]
      by_cases hlt : d - n * b.step.toNat < b.step.toNat
      · have hdiv : d / b.step.toNat = n := Nat.div_eq_of_lt_le (by omega) (by rw [Nat.succ_mul]; omega)
        have hmod : d % b.step.toNat = d - n * b.step.toNat := by
          rw [Nat.mod_def, hdiv, Nat.mul_comm]
        rw [if_pos hlt, if_pos (by omega), hdiv, hmod]
      · rw [if_neg hlt, if_neg (by omega), if_neg (by omega)]
    · rw [if_neg hin, if_neg (by omega), if_pos (by omega), if_pos (by omega)]

end Loaded

end Sys2Proof.Proofs

namespace Sys2Proof.Proofs

open Sys2Proof Sys2Proof.Machine Sys2Proof.Laws

/-! ### What the tables do not change: the reads of the image (48_control R527) -/

/-- The two states differ in the memory control storage alone. -/
def OnlyTables (s t : State) : Prop := t = { s with map := t.map, acc := t.acc, lock := t.lock }

section Loaded

variable {b : ControlBlock} (page : BitVec 8) (w : Nat → Word) (s : State) (n : Nat)

theorem controlLoaded_locks : controlLoaded .locks page w s n =
    { s with lock := (controlLoaded .locks page w s n).lock } :=
  congrArg (fun u : State => { u with lock := (controlLoaded .locks page w s n).lock })
    (controlLoaded_keeps page w s clearLocks_loaded n)

theorem controlLoaded_access : controlLoaded .access page w s n =
    { s with acc := (controlLoaded .access page w s n).acc } :=
  congrArg (fun u : State => { u with acc := (controlLoaded .access page w s n).acc })
    (controlLoaded_keeps page w s clearAcc_loaded n)

theorem controlLoaded_map (hb : b = .map8 ∨ b = .map13) : controlLoaded b page w s n =
    { s with map := (controlLoaded b page w s n).map } :=
  congrArg (fun u : State => { u with map := (controlLoaded b page w s n).map })
    (controlLoaded_keeps page w s (clearMap_loaded hb) n)

theorem onlyTables_controlLoaded : OnlyTables s (controlLoaded b page w s n) := by
  unfold OnlyTables
  cases b with
  | locks => rw [controlLoaded_locks]
  | access => rw [controlLoaded_access]
  | map8 => rw [controlLoaded_map page w s n (.inl rfl)]
  | map13 => rw [controlLoaded_map page w s n (.inr rfl)]

/-- With no mapping in effect neither the map nor the access codes are consulted (20_memory R120, R127). -/
theorem locate_tables {t : State} (h : OnlyTables s t) (hmm : s.psd.mm = false) (v : WordAddr) :
    locate t v .read = locate s v .read := by
  have hpsd : t.psd = s.psd := by rw [h]
  have haddr : actualAddr t v = actualAddr s v := by rw [actualAddr, actualAddr, hpsd, hmm]; rfl
  have hoff : protectionOn t = protectionOn s := by rw [protectionOn, protectionOn, hpsd]
  have hprot : protectionOn s = false := by rw [protectionOn, hmm, Bool.false_and]
  unfold locate locateMemory
  rw [haddr, hoff, hprot, h]
  rfl

/-- The image is read as before while it is loaded: no read consults a lock. -/
theorem readWord_controlLoaded (h : b = .locks ∨ s.psd.mm = false) :
    readWord (controlLoaded b page w s n) = readWord s := by
  funext v
  rcases h with rfl | hmm
  · rw [controlLoaded_locks]
    rfl
  · have htables := onlyTables_controlLoaded (b := b) page w s n
    rw [readWord, readWord, locate_tables s htables hmm v]
    rw [htables]
    rfl

/-- The image words from number `j` on, read and loaded. -/
theorem loadImage_ok {r : BitVec 4} {v : WordAddr} {c : Word} (h : b = .locks ∨ s.psd.mm = false) :
    ∀ (n j : Nat), (∀ k, k < j + n → readWord s (wordPlus s v k) = .ok (w k)) →
      loadImage r b v c j n (controlLoaded b (field c 15 22) w s j) =
        .ok () (controlLoaded b (field c 15 22) w s (j + n))
  | 0, j, _ => rfl
  | n + 1, j, hw => by
    have hpsd : (controlLoaded b (field c 15 22) w s j).psd = s.psd := by rw [onlyTables_controlLoaded]
    have hword : imageWord r b v c j (controlLoaded b (field c 15 22) w s j) =
        .ok (w j) (controlLoaded b (field c 15 22) w s j) := by
      refine imageWord_ok ?_
      rw [readWord_controlLoaded _ w s j h, wordPlus_congr hpsd]
      exact hw j (by omega)
    have hrest := loadImage_ok (r := r) (v := v) (c := c) h n (j + 1) fun k hk => hw k (by omega)
    rw [loadImage, bind_ok hword, bind_change]
    rw [show j + (n + 1) = j + 1 + n by omega]
    exact hrest

/-- The image words up to one that cannot be read. -/
theorem loadImage_error {r : BitVec 4} {v : WordAddr} {c : Word} (h : b = .locks ∨ s.psd.mm = false) {e : Trap} :
    ∀ (n j : Nat) {k : Nat}, j ≤ k → k < j + n → (∀ i, i < k → readWord s (wordPlus s v i) = .ok (w i)) →
      readWord s (wordPlus s v k) = .error e →
      loadImage r b v c j n (controlLoaded b (field c 15 22) w s j) = .error (.trap { e with ra := true })
        (if e.loc = 0x40#8 then imageProgress r b v c k (controlLoaded b (field c 15 22) w s k)
          else controlLoaded b (field c 15 22) w s k)
  | 0, j, k, hj, hk, _, _ => absurd hk (by omega)
  | n + 1, j, k, hj, hk, hw, he => by
    have hpsd : (controlLoaded b (field c 15 22) w s j).psd = s.psd := by rw [onlyTables_controlLoaded]
    have hread : readWord (controlLoaded b (field c 15 22) w s j)
        (wordPlus (controlLoaded b (field c 15 22) w s j) v j) = readWord s (wordPlus s v j) := by
      rw [readWord_controlLoaded _ w s j h, wordPlus_congr hpsd]
    rcases Nat.eq_or_lt_of_le hj with rfl | hlt
    · rw [loadImage]
      exact bind_error (imageWord_error (hread.trans he)) _
    · have hrest := loadImage_error (r := r) (c := c) h n (j + 1) (k := k) (by omega) (by omega) hw he
      rw [loadImage, bind_ok (imageWord_ok (hread.trans (hw j hlt))), bind_change]
      exact hrest

end Loaded

/-! ### The registers of MMC (R527) -/

section Progress

variable {s t : State} {r : BitVec 4} {b : ControlBlock} {v : WordAddr} {c : Word} {k : Nat}

/-- Register R and the frame of the registers. -/
theorem imageProgress_leaves (ht : OnlyTables s t) (hr : oddR r = false) :
    getReg (imageProgress r b v c k t) r = withWordAddress s (getReg s r) (wordPlus s v k) ∧
      (∀ q, q ≠ r → q ≠ r + 1 → getReg (imageProgress r b v c k t) q = getReg s q) ∧
      OtherBlocksKept s (imageProgress r b v c k t) ∧
      imageProgress r b v c k t = { t with regs := (imageProgress r b v c k t).regs } := by
  have hne := ru1_ne_of_even hr
  refine ⟨?_, fun q hq hq1 => ?_, ?_, rfl⟩
  · rw [imageProgress, getReg_setReg_ne hne.symm, getReg_setReg_same, ht]
    rfl
  · rw [imageProgress, ru1_of_even hr, getReg_setReg_ne hq1, getReg_setReg_ne hq, ht]
    rfl
  · have hrp : t.psd.rp = s.psd.rp := by rw [ht]
    have hkept : OtherBlocksKept s t := by
      rw [ht]
      exact fun _ _ _ => rfl
    exact otherBlocksKept_writeLoc (otherBlocksKept_writeLoc hkept hrp (.reg r) _) hrp (.reg (ru1 r)) _

/-- Register Ru1: the count left, the page reached and the bits beside them. -/
theorem imageProgress_ru1 (hr : oddR r = false) (hk : k ≤ imageCount c) :
    (getReg (imageProgress r b v c k t) (r + 1)).toNat = (imageCount c - k) % 256 * 2 ^ 24 +
      (field c 8 14).toNat * 2 ^ 17 + ((field c 15 22).toNat + k * b.step.toNat) % 256 * 2 ^ 9 + c.toNat % 2 ^ 9 := by
  have hcount : (field c 0 7 - BitVec.ofNat 8 k).toNat = (imageCount c - k) % 256 := by
    have hlt := (field c 0 7).isLt
    unfold imageCount at hk ⊢
    rw [BitVec.toNat_sub, BitVec.toNat_ofNat]
    split
    next h =>
      rw [if_pos h] at hk
      rw [h, show (0 : BitVec (7 + 1 - 0)).toNat = 0 from rfl]
      omega
    next h =>
      rw [if_neg h] at hk
      omega
  have hpage : (field c 15 22 + BitVec.ofNat 8 k * b.step).toNat =
      ((field c 15 22).toNat + k * b.step.toNat) % 256 := by
    rw [BitVec.toNat_add, BitVec.toNat_mul, BitVec.toNat_ofNat, Nat.mod_mul_mod, Nat.add_mod_mod]
  have hlow : (field c 23 31).toNat = c.toNat % 2 ^ 9 := by
    rw [field_toNat]
    omega
  rw [imageProgress, ru1_of_even hr, getReg_setReg_same, append_toNat, append_toNat, append_toNat, hcount, hpage, hlow]
  omega

end Progress

end Sys2Proof.Proofs

namespace Sys2Proof.Proofs

open Sys2Proof Sys2Proof.Machine Sys2Proof.Laws

/-! ### MMC up to its image words (48_control R526, R527; 60_exceptions R668) -/

theorem testEnds_ok {s : State} {v : WordAddr} {n : Nat} {k : Access} {l0 l1 : Loc} (h0 : locate s v k = .ok l0)
    (h1 : locate s (wordPlus s v (n - 1)) k = .ok l1) : testEnds v n k s = .ok () s :=
  (bind_ok (need_ok (testAccess_eq_ok h0)) _).trans (need_ok (testAccess_eq_ok h1))

section Mmc

variable {s : State} {m : MR} {b : ControlBlock} {v : WordAddr} {c : Word} {l0 l1 : Loc}

/-- MMC of an even R and a block that is there, once both ends of its image have been tested. -/
theorem run_mmc (hm : s.psd.ms = false) (hr : oddR m.r = false) (hb : controlBlock m.x = some b)
    (hc : c = getReg s (m.r + 1)) (hv : v = wrapWord s ((getReg s m.r).extractLsb' 0 22))
    (h0 : locate s v .read = .ok l0) (h1 : locate s (wordPlus s v (imageCount c - 1)) .read = .ok l1) :
    exec (.mmc m) s = run (do
      loadImage m.r b v c 0 (imageCount c)
      change (imageProgress m.r b v c (imageCount c))
      done) s := by
  have hbody : exec (.mmc m) s = run (do
      testEnds v (imageCount c) .read
      loadImage m.r b v c 0 (imageCount c)
      change (imageProgress m.r b v c (imageCount c))
      done) s := by
    have htrunc : (getReg s m.r).truncate 22 = (getReg s m.r).extractLsb' 0 22 :=
      BitVec.setWidth_eq_extractLsb' (by omega)
    rw [← ru1_of_even hr] at hc
    rw [← htrunc] at hv
    refine (run_requireMaster hm _).trans ((run_requireEven hr _ s).trans ?_)
    rw [hb]
    refine (run_look _ _ s).trans ((run_look _ _ s).trans ?_)
    rw [← hc, ← hv]
  exact hbody.trans (run_bind (testEnds_ok h0 h1) _)

theorem imageCount_pos (c : Word) : 0 < imageCount c := by
  unfold imageCount
  split
  · omega
  next h => exact Nat.pos_of_ne_zero fun hz => h (BitVec.eq_of_toNat_eq hz)

theorem wrapWord_lt (s : State) (a : WordAddr) : (wrapWord s a).toNat < addressSpace s := by
  rw [wrapWord_toNat]
  exact Nat.mod_lt _ (by unfold addressSpace; split <;> omega)

/-- MMC of an image that can be read. -/
theorem exec_mmc_ok (hm : s.psd.ms = false) (hr : oddR m.r = false) (hb : controlBlock m.x = some b)
    (hc : c = getReg s (m.r + 1)) (hv : v = wrapWord s ((getReg s m.r).extractLsb' 0 22)) {w : Nat → Word}
    (hw : ∀ k, k < imageCount c → readWord s (wordPlus s v k) = .ok (w k)) (h : b = .locks ∨ s.psd.mm = false) :
    exec (.mmc m) s = .next (advance (imageProgress m.r b v c (imageCount c)
      (controlLoaded b (field c 15 22) w s (imageCount c)))) := by
  have hpos := imageCount_pos c
  have hlt : v.toNat < addressSpace s := by
    rw [hv]
    exact wrapWord_lt s _
  obtain ⟨l0, h0⟩ := locate_of_readWord (hw 0 hpos)
  obtain ⟨l1, h1⟩ := locate_of_readWord (hw (imageCount c - 1) (by omega))
  rw [wordPlus_zero hlt] at h0
  have himage := loadImage_ok w s (r := m.r) (v := v) (c := c) h (imageCount c) 0 fun k hk => hw k (by omega)
  rw [Nat.zero_add] at himage
  exact (run_mmc hm hr hb hc hv h0 h1).trans ((run_bind himage _).trans (run_change _ _ _))

/-- What that leaves beside the tables. -/
theorem exec_mmc_leaves (hm : s.psd.ms = false) (hr : oddR m.r = false) (hb : controlBlock m.x = some b)
    (hc : c = getReg s (m.r + 1)) (hv : v = wrapWord s ((getReg s m.r).extractLsb' 0 22)) {w : Nat → Word}
    (hw : ∀ k, k < imageCount c → readWord s (wordPlus s v k) = .ok (w k)) (h : b = .locks ∨ s.psd.mm = false) :
    ∃ t, exec (.mmc m) s = .next t ∧ OnlyControl s t ∧ t.psd = (onward s s.regs).psd ∧
      getReg t m.r = withWordAddress s (getReg s m.r) (wordPlus s v (imageCount c)) ∧
      (getReg t (m.r + 1)).toNat = (field c 8 14).toNat * 2 ^ 17 +
        ((field c 15 22).toNat + imageCount c * b.step.toNat) % 256 * 2 ^ 9 + c.toNat % 2 ^ 9 ∧
      (∀ r, r ≠ m.r → r ≠ m.r + 1 → getReg t r = getReg s r) ∧ OtherBlocksKept s t ∧
      (∀ p, lockEntry t p = lockEntry (controlLoaded b (field c 15 22) w s (imageCount c)) p ∧
        accOf t p = accOf (controlLoaded b (field c 15 22) w s (imageCount c)) p ∧
        mapOf t p = mapOf (controlLoaded b (field c 15 22) w s (imageCount c)) p) := by
  have hexec := exec_mmc_ok hm hr hb hc hv hw h
  have htables := onlyTables_controlLoaded (b := b) (field c 15 22) w s (imageCount c)
  generalize controlLoaded b (field c 15 22) w s (imageCount c) = x at *
  obtain ⟨hreg, hothers, hblocks, hframe⟩ :=
    imageProgress_leaves (b := b) (v := v) (c := c) (k := imageCount c) htables hr
  have hru1 := imageProgress_ru1 (t := x) (b := b) (v := v) hr (le_refl (imageCount c))
  rw [Nat.sub_self, Nat.zero_mod, Nat.zero_mul, Nat.zero_add] at hru1
  generalize imageProgress m.r b v c (imageCount c) x = u at *
  have hpsd : u.psd = s.psd := by rw [hframe, htables]
  have hcontrol : OnlyControl s u := by
    unfold OnlyControl
    rw [hframe, htables]
  have hnext : (advance u).psd = (onward s s.regs).psd := by
    have hinst : u.inst = s.inst := by rw [hframe, htables]
    have hia : nextIa u = nextIa s := by
      unfold nextIa incrementedIa realExtended
      rw [hinst, hpsd]
    have hadv : (advance u).psd = { u.psd with ia := nextIa u } := rfl
    rw [hadv, hia, hpsd]
    rfl
  refine ⟨advance u, hexec, ?_, hnext, hreg, hru1, hothers, hblocks, fun p => ?_⟩
  · exact congrArg (fun y : State => { y with psd := (advance u).psd }) hcontrol
  · rw [hframe]
    exact ⟨rfl, rfl, rfl⟩

end Mmc

/-! ### The tables after MMC (R528-R531) -/

section Tables

variable (page : BitVec 8) (w : Nat → Word) {s : State} {n : Nat} (q : BitVec 8)

theorem lockEntry_controlLoaded (hn : n * 16 ≤ 256) : lockEntry (controlLoaded .locks page w s n) q =
    if (q - page).toNat < n * 16
    then (w ((q - page).toNat / 16)).extractLsb' (30 - 2 * ((q - page).toNat % 16)) 2 else lockEntry s q :=
  controlLoaded_entry page w s (b := .locks) (entry := lockEntry) (value := fun w i => w.extractLsb' (30 - 2 * i) 2)
    (P := fun _ => True) (fun _ _ _ _ => trivial) trivial (fun p w s q _ => lockEntry_loaded p w s q) hn q

theorem accOf_controlLoaded (hn : n * 16 ≤ 256) : accOf (controlLoaded .access page w s n) q =
    if (q - page).toNat < n * 16
    then (w ((q - page).toNat / 16)).extractLsb' (30 - 2 * ((q - page).toNat % 16)) 2 else accOf s q :=
  controlLoaded_entry page w s (b := .access) (entry := accOf) (value := fun w i => w.extractLsb' (30 - 2 * i) 2)
    (P := fun _ => True) (fun _ _ _ _ => trivial) trivial (fun p w s q _ => accOf_loaded p w s q) hn q

theorem mapOf_controlLoaded8 (hn : n * 4 ≤ 256) : mapOf (controlLoaded .map8 page w s n) q =
    if (q - page).toNat < n * 4
    then ((w ((q - page).toNat / 4)).extractLsb' (24 - 8 * ((q - page).toNat % 4)) 8).zeroExtend 13 else mapOf s q :=
  controlLoaded_entry page w s (b := .map8) (entry := mapOf)
    (value := fun w i => (w.extractLsb' (24 - 8 * i) 8).zeroExtend 13)
    (P := fun _ => True) (fun _ _ _ _ => trivial) trivial (fun p w s q _ => mapOf_loaded8 p w s q) hn q

theorem mapOf_controlLoaded13 (h1 : s.inst.map13First = 3) (h2 : s.inst.map13Second = 19) (hn : n * 2 ≤ 256) :
    mapOf (controlLoaded .map13 page w s n) q = if (q - page).toNat < n * 2
    then (w ((q - page).toNat / 2)).extractLsb' (16 - 16 * ((q - page).toNat % 2)) 13 else mapOf s q :=
  controlLoaded_entry page w s (b := .map13) (entry := mapOf) (value := fun w i => w.extractLsb' (16 - 16 * i) 13)
    (P := fun s => s.inst.map13First = 3 ∧ s.inst.map13Second = 19) (fun _ _ _ h => h) ⟨h1, h2⟩
    (fun p w _ q ⟨h1, h2⟩ => mapOf_loaded13 h1 h2 p w q) hn q

end Tables

end Sys2Proof.Proofs

namespace Sys2Proof.Proofs

open Sys2Proof Sys2Proof.Machine Sys2Proof.Laws

/-! ### The entry that an MMC leaves for a page (48_control R528-R531) -/

/-- The entries of the page at the distance `k` from the first one, after `n` image words for the block that `x`
names. -/
def TablesLoaded (s t : State) (x : BitVec 3) (n : Nat) (w : Nat → Word) (p : BitVec 8) (k : Nat) : Prop :=
  (lockEntry t p = if x = 0b001#3 ∧ k < n * 16 then (w (k / 16)).extractLsb' (30 - 2 * (k % 16)) 2
    else lockEntry s p) ∧
  (accOf t p = if x = 0b010#3 ∧ k < n * 16 then (w (k / 16)).extractLsb' (30 - 2 * (k % 16)) 2 else accOf s p) ∧
  (mapOf t p = if x = 0b100#3 ∧ k < n * 4 then ((w (k / 4)).extractLsb' (24 - 8 * (k % 4)) 8).zeroExtend 13
    else if x = 0b101#3 ∧ k < n * 2 then (w (k / 2)).extractLsb' (16 - 16 * (k % 2)) 13 else mapOf s p)

section Tables

variable {s : State} (page : BitVec 8) (w : Nat → Word) {n : Nat} (p : BitVec 8)

theorem tablesLoaded_locks (hn : n * 16 ≤ 256) :
    TablesLoaded s (controlLoaded .locks page w s n) 0b001#3 n w p (p - page).toNat := by
  refine ⟨?_, ?_, ?_⟩
  · simpa using lockEntry_controlLoaded page w p hn
  · rw [controlLoaded_locks]
    rfl
  · rw [controlLoaded_locks]
    rfl

theorem tablesLoaded_access (hn : n * 16 ≤ 256) :
    TablesLoaded s (controlLoaded .access page w s n) 0b010#3 n w p (p - page).toNat := by
  refine ⟨?_, ?_, ?_⟩
  · rw [controlLoaded_access]
    rfl
  · simpa using accOf_controlLoaded page w p hn
  · rw [controlLoaded_access]
    rfl

theorem tablesLoaded_map8 (hn : n * 4 ≤ 256) :
    TablesLoaded s (controlLoaded .map8 page w s n) 0b100#3 n w p (p - page).toNat := by
  refine ⟨?_, ?_, ?_⟩
  · rw [controlLoaded_map page w s n (.inl rfl)]
    rfl
  · rw [controlLoaded_map page w s n (.inl rfl)]
    rfl
  · simpa using mapOf_controlLoaded8 page w p hn

theorem tablesLoaded_map13 (h1 : s.inst.map13First = 3) (h2 : s.inst.map13Second = 19) (hn : n * 2 ≤ 256) :
    TablesLoaded s (controlLoaded .map13 page w s n) 0b101#3 n w p (p - page).toNat := by
  refine ⟨?_, ?_, ?_⟩
  · rw [controlLoaded_map page w s n (.inr rfl)]
    rfl
  · rw [controlLoaded_map page w s n (.inr rfl)]
    rfl
  · simpa using mapOf_controlLoaded13 page w p h1 h2 hn

end Tables

/-- The block that each block number names, with the pages of an image word. -/
theorem controlBlock_cases {x : BitVec 3} {per : Nat}
    (h : x ∈ [0b001#3, 0b010#3] ∧ per = 16 ∨ x = 0b100#3 ∧ per = 4 ∨ x = 0b101#3 ∧ per = 2) :
    ∃ b, controlBlock x = some b ∧ per = b.step.toNat ∧ (x = 0b001#3 → b = .locks) ∧
      ((b = .locks ∧ x = 0b001#3) ∨ (b = .access ∧ x = 0b010#3) ∨ (b = .map8 ∧ x = 0b100#3) ∨
        (b = .map13 ∧ x = 0b101#3)) := by
  simp only [List.mem_cons, List.not_mem_nil, or_false] at h
  rcases h with ⟨rfl | rfl, rfl⟩ | ⟨rfl, rfl⟩ | ⟨rfl, rfl⟩
  · exact ⟨.locks, rfl, rfl, fun _ => rfl, .inl ⟨rfl, rfl⟩⟩
  · exact ⟨.access, rfl, rfl, fun h => absurd h (by decide), .inr (.inl ⟨rfl, rfl⟩)⟩
  · exact ⟨.map8, rfl, rfl, fun h => absurd h (by decide), .inr (.inr (.inl ⟨rfl, rfl⟩))⟩
  · exact ⟨.map13, rfl, rfl, fun h => absurd h (by decide), .inr (.inr (.inr ⟨rfl, rfl⟩))⟩

theorem tablesLoaded_controlLoaded {s : State} {b : ControlBlock} {x : BitVec 3} (page : BitVec 8) (w : Nat → Word)
    {n : Nat} (h : (b = .locks ∧ x = 0b001#3) ∨ (b = .access ∧ x = 0b010#3) ∨ (b = .map8 ∧ x = 0b100#3) ∨
      (b = .map13 ∧ x = 0b101#3)) (h1 : s.inst.map13First = 3) (h2 : s.inst.map13Second = 19)
    (hn : n * b.step.toNat ≤ 256) (p : BitVec 8) :
    TablesLoaded s (controlLoaded b page w s n) x n w p (p - page).toNat := by
  rcases h with ⟨rfl, rfl⟩ | ⟨rfl, rfl⟩ | ⟨rfl, rfl⟩ | ⟨rfl, rfl⟩
  · exact tablesLoaded_locks page w p hn
  · exact tablesLoaded_access page w p hn
  · exact tablesLoaded_map8 page w p hn
  · exact tablesLoaded_map13 page w p h1 h2 hn

theorem distance_toNat (p page : BitVec 8) : (p - page).toNat = (p.toNat + 256 - page.toNat) % 256 := by
  have hpage := page.isLt
  rw [BitVec.toNat_sub]
  congr 1
  omega

/-! ### The traps of MMC (R526, R532; 60_exceptions R662, R668) -/

theorem controlBlock_none {x : BitVec 3} (h : x ∉ [0b001#3, 0b010#3, 0b100#3, 0b101#3]) : controlBlock x = none := by
  simp only [List.mem_cons, List.not_mem_nil, or_false, not_or] at h
  obtain ⟨h1, h2, h4, h5⟩ := h
  simp [controlBlock, h1, h2, h4, h5]

theorem exec_mmc_none {s : State} {m : MR} (hm : s.psd.ms = false) (hr : oddR m.r = false)
    (hb : controlBlock m.x = none) : exec (.mmc m) s =
      .next (enterTrap { loc := 0x4D#8, tcc := 0b0010#4, fault := some .instructionException } s) := by
  refine (run_requireMaster hm _).trans ((run_requireEven hr _ s).trans ?_)
  rw [hb]
  rfl

/-- MMC of an image of locks, one word of which cannot be read. -/
theorem exec_mmc_error {s : State} {m : MR} {v : WordAddr} {c : Word} {l0 l1 : Loc} {w : Nat → Word} {k : Nat}
    {e : Trap} (hm : s.psd.ms = false) (hr : oddR m.r = false) (hx : m.x = 0b001#3) (hc : c = getReg s (m.r + 1))
    (hv : v = wrapWord s ((getReg s m.r).extractLsb' 0 22)) (h0 : locate s v .read = .ok l0)
    (h1 : locate s (wordPlus s v (imageCount c - 1)) .read = .ok l1) (hk : k < imageCount c)
    (hw : ∀ j, j < k → readWord s (wordPlus s v j) = .ok (w j)) (he : readWord s (wordPlus s v k) = .error e) :
    exec (.mmc m) s = .next (enterTrap { e with ra := true }
      (if e.loc = 0x40#8 then imageProgress m.r .locks v c k (controlLoaded .locks (field c 15 22) w s k)
        else controlLoaded .locks (field c 15 22) w s k)) := by
  have hb : controlBlock m.x = some .locks := by rw [hx]; rfl
  have himage := loadImage_error w s (r := m.r) (v := v) (c := c) (.inl rfl) (imageCount c) 0 (k := k) (Nat.zero_le k)
    (by omega) hw he
  exact (run_mmc hm hr hb hc hv h0 h1).trans (run_trap (bind_error himage _))

/-- Settles O57: the image is read as before while it is loaded, so that the tables follow word by word; the registers
are those of the point reached. -/
theorem moveToControl : Obligations.MoveToControl := by
  refine ⟨?loaded, ?unreadable, fun s m hm => ⟨fun hr => ?odd, fun hr hx => exec_mmc_none hm hr (controlBlock_none hx)⟩⟩
  case odd => exact (run_requireMaster hm _).trans (run_requireEven_odd hr _ s)
  case loaded =>
    rintro s m v n per page w c hm hr hc hv hn rfl hw hpages hblock hmode h1 h2
    obtain rfl : n = imageCount c := hn
    obtain ⟨b, hb, rfl, hlocks, hcases⟩ := controlBlock_cases hblock
    obtain ⟨t, hexec, hcontrol, hpsd, hreg, hru1, hothers, hblocks, htables⟩ :=
      exec_mmc_leaves hm hr hb hc hv hw (hmode.imp hlocks id)
    refine ⟨t, hexec, hcontrol, hpsd, hreg, hru1, hothers, hblocks, fun p => ⟨_, rfl, ?_⟩⟩
    obtain ⟨hlock, hacc, hmap⟩ := htables p
    obtain ⟨hlock', hacc', hmap'⟩ := tablesLoaded_controlLoaded (field c 15 22) w hcases h1 h2 hpages p
    rw [distance_toNat] at hlock' hacc' hmap'
    exact ⟨hlock.trans hlock', hacc.trans hacc', hmap.trans hmap'⟩
  case unreadable =>
    rintro s m v n k w c e l0 l1 hm hr hx hc hv hn h0 h1 hk hw he
    obtain rfl : n = imageCount c := hn
    have htables := onlyTables_controlLoaded (b := .locks) (field c 15 22) w s k
    refine ⟨_, exec_mmc_error hm hr hx hc hv h0 h1 hk hw he, ?_⟩
    generalize controlLoaded .locks (field c 15 22) w s k = x at *
    split
    next hloc =>
      obtain ⟨hreg, hothers, hblocks, hframe⟩ :=
        imageProgress_leaves (b := .locks) (v := v) (c := c) (k := k) htables hr
      have hru1 := imageProgress_ru1 (t := x) (b := .locks) (v := v) hr (Nat.le_of_lt hk)
      generalize imageProgress m.r .locks v c k x = u at *
      refine ⟨?_, ?_, hblocks, hothers, fun _ => ⟨hreg, hru1⟩, fun h => absurd hloc h⟩
      · unfold OnlyControl
        rw [hframe, htables]
      · rw [hframe, htables]
    next hloc =>
      unfold OnlyTables at htables
      refine ⟨?_, ?_, ?_, fun r _ _ => ?_, fun h => absurd h hloc, fun _ => ?_⟩ <;> rw [htables]
      · unfold OnlyControl
        rfl
      · exact fun _ _ _ => rfl
      · rfl

end Sys2Proof.Proofs
